-- ==== Sys2Proof/Word.lean ====
section
/-! DEFINITION. The words of the Emlis 7: bytes, 32-bit and 64-bit words, vector registers, and the bit fields
of an instruction word read as a number (R8, R80). -/

namespace Sys2Proof

/-- One byte of memory (R8). -/
abbrev Byte := BitVec 8

/-- A 32-bit word: an instruction word, an FP32 value, a special register (R77, R79). -/
abbrev W32 := BitVec 32

/-- A 64-bit scalar register or memory word (R73). -/
abbrev W64 := BitVec 64

/-- A 512-bit vector register or one 64-byte line (R73, R222). -/
abbrev Vec := BitVec 512

/-- A register file with one register for each `n`-bit number. -/
abbrev RegFile (n : Nat) (α : Type) := Vector α (2 ^ n)

/-- The register a register field names. -/
def RegFile.read {n : Nat} {α : Type} (f : RegFile n α) (i : BitVec n) : α := f[i.toNat]'i.isLt

/-- The file with one register replaced. -/
def RegFile.write {n : Nat} {α : Type} (f : RegFile n α) (i : BitVec n) (v : α) : RegFile n α :=
  f.set i.toNat v i.isLt

end Sys2Proof
end

