-- ==== Sys2Proof/Machine/Bits.lean ====
section
/-! DEFINITION. Bit fields, lanes of a vector register, byte order and canonical addresses (R8, R73, R81, R218). -/

namespace Sys2Proof.Machine

/-- Bits `lo + n - 1` to `lo` of a number. -/
def bitsAt (x lo n : Nat) : Nat := x / 2 ^ lo % 2 ^ n

/-- A number of `n` bits read as two's complement (R81, R142). -/
def signed (n x : Nat) : Int := if 2 ^ (n - 1) ≤ x % 2 ^ n then (x % 2 ^ n : Nat) - (2 ^ n : Nat) else (x % 2 ^ n : Nat)

/-- `SignExt` of R96: a value widened to 64 bits with its sign. -/
def sext64 {n : Nat} (x : BitVec n) : W64 := x.signExtend 64

/-- `ZeroExt` of R96. -/
def zext64 {n : Nat} (x : BitVec n) : W64 := x.setWidth 64

/-- Lane `i` of width `w` of a vector register (R73, R181). -/
def laneOf (w : Nat) (v : Vec) (i : Nat) : BitVec w := v.extractLsb' (w * i) w

/-- The number whose `w`-bit digits are `f 0` (lowest) to `f (n - 1)`. -/
def packDigits (w : Nat) (f : Nat → BitVec w) : Nat → Nat
  | 0 => 0
  | n + 1 => packDigits w f n + (f n).toNat * 2 ^ (w * n)

/-- The vector register whose `w`-bit lanes are given by `f`. -/
def ofLanes (w : Nat) (f : Nat → BitVec w) : Vec := BitVec.ofNat 512 (packDigits w f (512 / w))

/-- Lane-guarded result (R83, R181): lane `i` is `f i` where its guard bit is set, else the old lane. -/
def guardedLanes (w : Nat) (g : BitVec 16) (old : Vec) (f : Nat → BitVec w) : Vec :=
  ofLanes w (fun i => if g.getLsbD i then f i else laneOf w old i)

/-- A predicate built from its bits. -/
def ofBits16 (f : Nat → Bool) : BitVec 16 := BitVec.ofNat 16 (packDigits 1 (fun i => BitVec.ofBool (f i)) 16)

/-- Lane-guarded predicate write over `n` lanes (R84, R188). -/
def guardedBits (n : Nat) (g old : BitVec 16) (f : Nat → Bool) : BitVec 16 :=
  ofBits16 (fun i => if i < n ∧ g.getLsbD i then f i else old.getLsbD i)

/-- The little-endian number of a list of bytes (R8). -/
def ofBytes : List Byte → Nat
  | [] => 0
  | b :: bs => b.toNat + 256 * ofBytes bs

/-- The `n` little-endian bytes of a number (R8). -/
def toBytes : Nat → Nat → List Byte
  | 0, _ => []
  | n + 1, x => BitVec.ofNat 8 x :: toBytes n (x / 256)

/-- Word `i` of a block read as little-endian 64-bit words. -/
def word64 (block i : Nat) : W64 := BitVec.ofNat 64 (block / 2 ^ (64 * i))

/-- The block whose 64-bit words are listed, the first lowest. -/
def ofWords : List W64 → Nat
  | [] => 0
  | w :: ws => w.toNat + 2 ^ 64 * ofWords ws

/-- Canonical address (R218): bits 63:56 all equal bit 55. -/
def canonical (va : W64) : Bool := va.toNat < 2 ^ 55 || 2 ^ 64 - 2 ^ 55 ≤ va.toNat

/-- Supervisor half (R218): bit 55 set. -/
def supervisorHalf (va : W64) : Bool := va.getLsbD 55

/-- R112: `va` is not canonical, or `va + size - 1` crosses the top of the implemented space or wraps. -/
def addrFault (va : W64) (size : Nat) : Bool :=
  !canonical va || (va.toNat < 2 ^ 55 && 2 ^ 55 < va.toNat + size) || (2 ^ 64 < va.toNat + size)

/-- Parity of the listed bits of `x` (R225). -/
def parity (x : Nat) : List Nat → Bool
  | [] => false
  | b :: bs => xor (x.testBit b) (parity x bs)

/-- The count of `true` bits below `n`. -/
def popBelow (x : Nat) : Nat → Nat
  | 0 => 0
  | n + 1 => popBelow x n + (if x.testBit n then 1 else 0)

/-- The count of zero bits from bit 0 up, at most `n`. -/
def trailingZeros (x : Nat) : Nat → Nat
  | 0 => 0
  | n + 1 => if x.testBit 0 then 0 else 1 + trailingZeros (x / 2) n

/-- The least index below `n` from `start` up for which `p` holds. -/
def firstIdx (p : Nat → Bool) : Nat → Nat → Option Nat
  | 0, _ => none
  | n + 1, i => if p i then some i else firstIdx p n (i + 1)

end Sys2Proof.Machine
end

