-- ==== Sys2Proof/Machine/Alu.lean ====
section
/-! DEFINITION. The results of the integer instructions at width W: the table of R98, the division corners of R99,
the fields of R101, the compare conditions of R88 and the integer atomics of R116. -/

namespace Sys2Proof.Machine

/-- The width a `w` code names (R88): 8, 16, 32 or 64 bits. -/
def opWidth (w : BitVec 2) : Nat := 8 * 2 ^ w.toNat

/-- The operations of majors 0x01 and 0x02 (R98). -/
inductive AluOp
  | add | sub | and | or | xor | andn | shl | shr | sra | rol | min | max | minn | maxn | clz | ctz
  | mul | mulh | mulhn | div | divn | rem | remn | popc | bswap
deriving DecidableEq, Repr

/-- The bytes of a value in reverse order. -/
def byteSwap (W : Nat) (s : BitVec W) : BitVec W :=
  BitVec.ofNat W (packDigits 8 (fun i => s.extractLsb' (W - 8 - 8 * i) 8) (W / 8))

/-- The W-bit result r of R98, with the corners of R99. -/
def aluResult (op : AluOp) (W : Nat) (s t : BitVec W) : BitVec W :=
  match op with
  | .add => s + t
  | .sub => s - t
  | .and => s &&& t
  | .or => s ||| t
  | .xor => s ^^^ t
  | .andn => s &&& ~~~t
  | .shl => s <<< (t.toNat % W)
  | .shr => s >>> (t.toNat % W)
  | .sra => s.sshiftRight (t.toNat % W)
  | .rol => s.rotateLeft (t.toNat % W)
  | .min => if s.slt t then s else t
  | .max => if s.slt t then t else s
  | .minn => if s.ult t then s else t
  | .maxn => if s.ult t then t else s
  | .clz => if s = 0 then BitVec.ofNat W W else BitVec.ofNat W (W - 1 - s.toNat.log2)
  | .ctz => BitVec.ofNat W (trailingZeros s.toNat W)
  | .mul => s * t
  | .mulh => (s.signExtend (2 * W) * t.signExtend (2 * W)).extractLsb' W W
  | .mulhn => (s.setWidth (2 * W) * t.setWidth (2 * W)).extractLsb' W W
  | .div => if t = 0 then BitVec.allOnes W else s.sdiv t
  | .divn => if t = 0 then BitVec.allOnes W else s.udiv t
  | .rem => if t = 0 then s else s.srem t
  | .remn => if t = 0 then s else s.umod t
  | .popc => BitVec.ofNat W (popBelow s.toNat W)
  | .bswap => byteSwap W s

/-- R98: the W-bit result widened by `n`: sign-extended when n = 0, zero-extended when n = 1. -/
def widen (n : BitVec 1) {W : Nat} (r : BitVec W) : W64 := if n = 0 then sext64 r else zext64 r

/-- R98 whole: the 64-bit register value an ALU or MULDIV instruction writes. -/
def alu64 (op : AluOp) (w : BitVec 2) (n : BitVec 1) (a b : W64) : W64 :=
  widen n (aluResult op (opWidth w) (a.setWidth _) (b.setWidth _))

/-- Compare conditions 0 to 5 (R88) on W-bit values, signed when n = 0 (R102). -/
def intCond (c : BitVec 3) (n : BitVec 1) {W : Nat} (a b : BitVec W) : Bool :=
  let lt := if n = 0 then a.slt b else a.ult b
  match c.toNat with
  | 0 => a == b
  | 1 => a != b
  | 2 => lt
  | 3 => lt || a == b
  | 4 => !(lt || a == b)
  | _ => !lt

/-- EXTF of R101. -/
def extractField (w : BitVec 2) (n : BitVec 1) (pos : Nat) (a : W64) : W64 :=
  widen n (a.extractLsb' pos (opWidth w))

/-- INSF of R101: bits pos + W - 1 to pos of the destination replaced. -/
def insertField (w : BitVec 2) (pos : Nat) (d a : W64) : W64 :=
  let m : W64 := (BitVec.allOnes (opWidth w)).setWidth 64 <<< pos
  (d &&& ~~~m) ||| ((a <<< pos) &&& m)

/-- The integer atomics of majors 0x18 to 0x1A (R116). -/
inductive AtomOp
  | add | and | or | xor | min | max | minn | maxn | swap | cas | addf
deriving DecidableEq, Repr

/-- The new value of an integer atomic (R116): `old`, the operand `b`, and X[d] for the comparison of ACAS. -/
def atomNew (op : AtomOp) (old b d : W64) : W64 :=
  match op with
  | .add => old + b
  | .and => old &&& b
  | .or => old ||| b
  | .xor => old ^^^ b
  | .min => if old.slt b then old else b
  | .max => if old.slt b then b else old
  | .minn => if old.ult b then old else b
  | .maxn => if old.ult b then b else old
  | .swap => b
  | .cas => if old = d then b else old
  | .addf => old + b

end Sys2Proof.Machine
end

