-- ==== Sys2Proof/Machine/Float.lean ====
section
/-! DEFINITION. Floating formats, exact values, one rounding, flags, comparisons, conversions and the special
functions (R105 to R108, R139 to R153). Every operation forms its exact value and rounds it once. -/

namespace Sys2Proof.Machine

/-- Rounding modes (R146): the codes 0 to 3 of FSR.RM. -/
inductive RM
  | rne | rz | ru | rd
deriving DecidableEq, Repr

/-- The mode FSR.RM holds (R146). -/
def RM.ofCode (c : Nat) : RM :=
  match c % 4 with
  | 0 => .rne
  | 1 => .rz
  | 2 => .ru
  | _ => .rd

/-- Flags in FSR bit positions 5:0 (R146): RR, IV, DZ, OF, UF, NX. -/
abbrev Flags := BitVec 6

def flNX : Flags := 1
def flUF : Flags := 2
def flOF : Flags := 4
def flDZ : Flags := 8
def flIV : Flags := 16
def flRR : Flags := 32

/-- A floating format of R139. `infCode` is the code of +infinity; E4M3 has none and its `infinite` is false. -/
structure Fmt where
  ebits : Nat
  fbits : Nat
  maxCode : Nat
  infCode : Nat
  nanCode : Nat
  infinite : Bool
deriving DecidableEq, Repr

def fp64 : Fmt := ⟨11, 52, 0x7FEFFFFFFFFFFFFF, 0x7FF0000000000000, 0x7FF8000000000000, true⟩
def fp32 : Fmt := ⟨8, 23, 0x7F7FFFFF, 0x7F800000, 0x7FC00000, true⟩
def fp16 : Fmt := ⟨5, 10, 0x7BFF, 0x7C00, 0x7E00, true⟩
def bf16 : Fmt := ⟨8, 7, 0x7F7F, 0x7F80, 0x7FC0, true⟩
def e4m3 : Fmt := ⟨4, 3, 0x7E, 0x7F, 0x7F, false⟩
def e5m2 : Fmt := ⟨5, 2, 0x7B, 0x7C, 0x7E, true⟩

def Fmt.bias (f : Fmt) : Int := 2 ^ (f.ebits - 1) - 1
/-- Weight of the sign bit. -/
def Fmt.signBit (f : Fmt) : Nat := 2 ^ (f.ebits + f.fbits)
/-- The exponent of the smallest subnormal. -/
def Fmt.qmin (f : Fmt) : Int := 1 - f.bias - f.fbits

/-- The exact value of an encoding: a NaN (signalling or quiet), an infinity, or (-1)^neg × m × 2^e. -/
inductive FVal
  | nan (signalling : Bool)
  | inf (neg : Bool)
  | fin (neg : Bool) (m : Nat) (e : Int)
deriving DecidableEq, Repr

/-- R139, R140: the value of an encoding. -/
def unpack (f : Fmt) (x : Nat) : FVal :=
  let neg := x.testBit (f.ebits + f.fbits)
  let ef := bitsAt x f.fbits f.ebits
  let fr := x % 2 ^ f.fbits
  if f.infinite ∧ ef = 2 ^ f.ebits - 1 then
    if fr = 0 then .inf neg else .nan (!fr.testBit (f.fbits - 1))
  else if !f.infinite ∧ x % f.signBit = f.nanCode then .nan false
  else if ef = 0 then .fin neg fr f.qmin
  else .fin neg (fr + 2 ^ f.fbits) (f.qmin + (ef - 1 : Nat))

def FVal.isNan : FVal → Bool
  | .nan _ => true
  | _ => false

def FVal.isSig : FVal → Bool
  | .nan s => s
  | _ => false

def FVal.isZero : FVal → Bool
  | .fin _ m _ => m == 0
  | _ => false

def FVal.isNeg : FVal → Bool
  | .nan _ => false
  | .inf n => n
  | .fin n _ _ => n

def FVal.negate : FVal → FVal
  | .nan s => .nan s
  | .inf n => .inf (!n)
  | .fin n m e => .fin (!n) m e

/-- An integer times a power of two. -/
def FVal.ofInt (i e : Int) : FVal := .fin (i < 0) i.natAbs e

/-- `m / 2^sh` rounded to an integer; `sticky` says that the exact value lies a little above `m`.
The second result says whether anything was rounded off. -/
def roundShift (rm : RM) (neg : Bool) (m sh : Nat) (sticky : Bool) : Nat × Bool :=
  let n := m / 2 ^ sh
  let r := 2 * (m % 2 ^ sh)
  let inexact := r != 0 || sticky
  let up := match rm with
    | .rne => 2 ^ sh < r || (r == 2 ^ sh && (sticky || n % 2 == 1))
    | .rz => false
    | .ru => inexact && !neg
    | .rd => inexact && neg
  (if up then n + 1 else n, inexact)

/-- `m × 2^e` rounded to a multiple of `2^q`. -/
def roundAt (rm : RM) (neg : Bool) (m : Nat) (e : Int) (sticky : Bool) (q : Int) : Nat × Bool :=
  if q ≤ e then (m * 2 ^ (e - q).toNat, sticky) else roundShift rm neg m (q - e).toNat sticky

/-- What one rounding to a format finds: the magnitude code (beyond `maxCode` on overflow), inexact, tiny (R149). -/
structure Rounded where
  code : Nat
  inexact : Bool
  tiny : Bool
deriving DecidableEq, Repr

/-- R149: rounding of a nonzero magnitude, tininess detected after rounding. -/
def roundMag (f : Fmt) (rm : RM) (neg : Bool) (m : Nat) (e : Int) (sticky : Bool) : Rounded :=
  let qu := e + m.log2 - f.fbits
  let q := max qu f.qmin
  let (n, inexact) := roundAt rm neg m e sticky q
  let tiny := decide (qu < f.qmin) && decide ((roundAt rm neg m e sticky qu).1 < 2 ^ (f.qmin + f.fbits - qu).toNat)
  ⟨(q - f.qmin).toNat * 2 ^ f.fbits + n, inexact, tiny⟩

/-- Overflow goes to the infinity in this mode (IEEE 754). -/
def overToInf (rm : RM) (neg : Bool) : Bool :=
  match rm with
  | .rne => true
  | .rz => false
  | .ru => !neg
  | .rd => neg

def Fmt.withSign (f : Fmt) (neg : Bool) (code : Nat) : Nat := if neg then f.signBit + code else code

/-- One rounding of an exact value to a format, with its flags (R149); `sticky` as in `roundShift`. -/
def roundSticky (f : Fmt) (rm : RM) (sticky : Bool) (v : FVal) : Nat × Flags :=
  match v with
  | .nan _ => (f.nanCode, 0)
  | .inf n => (f.withSign n f.infCode, 0)
  | .fin neg m e =>
    if m = 0 then (f.withSign neg 0, 0)
    else
      let r := roundMag f rm neg m e sticky
      if f.maxCode < r.code then
        (f.withSign neg (if overToInf rm neg then f.infCode else f.maxCode), flOF ||| flNX)
      else (f.withSign neg r.code, if r.inexact then (if r.tiny then flUF ||| flNX else flNX) else 0)

/-- One rounding of an exact value. -/
def roundF (f : Fmt) (rm : RM) (v : FVal) : Nat × Flags := roundSticky f rm false v

/-- The exact product; IV for infinity × 0 and for a signalling NaN (R105, R185). -/
def mulX (a b : FVal) : FVal × Flags :=
  match a, b with
  | .nan s, .nan t => (.nan false, if s || t then flIV else 0)
  | .nan s, _ => (.nan false, if s then flIV else 0)
  | _, .nan s => (.nan false, if s then flIV else 0)
  | .inf n, .inf k => (.inf (xor n k), 0)
  | .inf n, .fin k m _ => if m = 0 then (.nan false, flIV) else (.inf (xor n k), 0)
  | .fin k m _, .inf n => if m = 0 then (.nan false, flIV) else (.inf (xor n k), 0)
  | .fin n m e, .fin k p d => (.fin (xor n k) (m * p) (e + d), 0)

def signInt (neg : Bool) (m : Nat) : Int := if neg then -(m : Int) else m

/-- The exact sum; IV for infinities of opposite sign and for a signalling NaN. The sign of an exact zero sum is that
of R105: kept when both addends carry it, else - in RD mode and + otherwise. -/
def addX (rm : RM) (a b : FVal) : FVal × Flags :=
  match a, b with
  | .nan s, .nan t => (.nan false, if s || t then flIV else 0)
  | .nan s, _ => (.nan false, if s then flIV else 0)
  | _, .nan s => (.nan false, if s then flIV else 0)
  | .inf n, .inf k => if n = k then (.inf n, 0) else (.nan false, flIV)
  | .inf n, .fin _ _ _ => (.inf n, 0)
  | .fin _ _ _, .inf n => (.inf n, 0)
  | .fin n m e, .fin k p d =>
    let q := min e d
    let s := signInt n m * 2 ^ (e - q).toNat + signInt k p * 2 ^ (d - q).toNat
    if s = 0 then
      (.fin (if m = 0 ∧ p = 0 ∧ n = k then n else rm == .rd) 0 q, 0)
    else (.fin (decide (s < 0)) s.natAbs q, 0)

/-- Largest r below 2^bits (from `r` up) with r × r ≤ m. -/
def isqrtFrom (m : Nat) : Nat → Nat → Nat
  | 0, r => r
  | b + 1, r => if (r + 2 ^ b) * (r + 2 ^ b) ≤ m then isqrtFrom m b (r + 2 ^ b) else isqrtFrom m b r

def isqrt (m : Nat) : Nat := isqrtFrom m (m.log2 / 2 + 1) 0

/-- Quotient rounded once (R105). -/
def fdivR (f : Fmt) (rm : RM) (a b : FVal) : Nat × Flags :=
  match a, b with
  | .nan s, .nan t => (f.nanCode, if s || t then flIV else 0)
  | .nan s, _ => (f.nanCode, if s then flIV else 0)
  | _, .nan s => (f.nanCode, if s then flIV else 0)
  | .inf _, .inf _ => (f.nanCode, flIV)
  | .inf n, .fin k _ _ => (f.withSign (xor n k) f.infCode, 0)
  | .fin k _ _, .inf n => (f.withSign (xor n k) 0, 0)
  | .fin n m e, .fin k p d =>
    let neg := xor n k
    if p = 0 then
      if m = 0 then (f.nanCode, flIV) else (f.withSign neg f.infCode, flDZ)
    else if m = 0 then (f.withSign neg 0, 0)
    else
      let sh := p.log2 + f.fbits + 4
      roundSticky f rm (m * 2 ^ sh % p != 0) (.fin neg (m * 2 ^ sh / p) (e - d - sh))

/-- Square root rounded once (R105). -/
def fsqrtR (f : Fmt) (rm : RM) (a : FVal) : Nat × Flags :=
  match a with
  | .nan s => (f.nanCode, if s then flIV else 0)
  | .inf n => if n then (f.nanCode, flIV) else (f.infCode, 0)
  | .fin n m e =>
    if m = 0 then (f.withSign n 0, 0)
    else if n then (f.nanCode, flIV)
    else
      let sh := 2 * (f.fbits + 4) + (e % 2).toNat
      let x := m * 2 ^ sh
      let r := isqrt x
      roundSticky f rm (r * r != x) (.fin false r ((e - sh) / 2))

/-- Strictly less, for values that are not NaN; −0 and +0 are equal. -/
def fvLt (a b : FVal) : Bool :=
  match a, b with
  | .nan _, _ => false
  | _, .nan _ => false
  | .inf n, .inf k => n && !k
  | .inf n, .fin _ _ _ => n
  | .fin _ _ _, .inf k => !k
  | .fin n m e, .fin k p d =>
    let q := min e d
    decide (signInt n m * 2 ^ (e - q).toNat < signInt k p * 2 ^ (d - q).toNat)

/-- The conditions of R107 (0 .eq to 6 .un) and the IV they raise. -/
def fcmpR (f : Fmt) (c : Nat) (x y : Nat) : Bool × Flags :=
  let a := unpack f x
  let b := unpack f y
  let nan := a.isNan || b.isNan
  let sig := a.isSig || b.isSig
  let lt := fvLt a b
  let gt := fvLt b a
  let ordered := match c with
    | 0 => !lt && !gt
    | 1 => lt || gt
    | 2 => lt
    | 3 => !gt
    | 4 => gt
    | 5 => !lt
    | _ => false
  let iv := if 2 ≤ c ∧ c ≤ 5 then nan else sig
  (if nan then c == 1 || c == 6 else ordered, if iv then flIV else 0)

/-- minimumNumber (`max = false`) and maximumNumber of R106, on encodings. -/
def fminmaxR (f : Fmt) (max : Bool) (x y : Nat) : Nat × Flags :=
  let a := unpack f x
  let b := unpack f y
  let iv : Flags := if a.isSig || b.isSig then flIV else 0
  if a.isNan && b.isNan then (f.nanCode, iv)
  else if a.isNan then (y, iv)
  else if b.isNan then (x, iv)
  else
    let aLess := fvLt a b || (!fvLt b a && a.isNeg)
    (if aLess == max then y else x, iv)

def opR (f : Fmt) (rm : RM) (r : FVal × Flags) : Nat × Flags :=
  let (bits, fl) := roundF f rm r.1
  (bits, fl ||| r.2)

def faddR (f : Fmt) (rm : RM) (x y : Nat) : Nat × Flags := opR f rm (addX rm (unpack f x) (unpack f y))
def fsubR (f : Fmt) (rm : RM) (x y : Nat) : Nat × Flags := opR f rm (addX rm (unpack f x) (unpack f y).negate)
def fmulR (f : Fmt) (rm : RM) (x y : Nat) : Nat × Flags := opR f rm (mulX (unpack f x) (unpack f y))

/-- (±)(x × y) + (±)z with one rounding (R104, R184, R185). -/
def ffmaR (f : Fmt) (rm : RM) (negProd negAdd : Bool) (x y z : Nat) : Nat × Flags :=
  let (p, fl) := mulX (unpack f x) (unpack f y)
  let c := unpack f z
  let s := addX rm (if negProd then p.negate else p) (if negAdd then c.negate else c)
  opR f rm (s.1, s.2 ||| fl)

/-- Conversion between floating formats (R108): IV for a signalling NaN. -/
def fcvtR (src dst : Fmt) (rm : RM) (x : Nat) : Nat × Flags :=
  let v := unpack src x
  let (b, fl) := roundF dst rm v
  (b, if v.isSig then fl ||| flIV else fl)

/-- Conversion of an integer to a floating format (R108). -/
def fromIntR (dst : Fmt) (rm : RM) (i : Int) : Nat × Flags := roundF dst rm (FVal.ofInt i 0)

/-- Conversion of a value to an integer in [lo, hi] (R108). -/
def toIntR (rm : RM) (lo hi : Int) (v : FVal) : Int × Flags :=
  match v with
  | .nan _ => (0, flIV)
  | .inf n => (if n then lo else hi, flIV)
  | .fin n m e =>
    let (k, inexact) := roundAt rm n m e false 0
    let i := signInt n k
    if i < lo then (lo, flIV) else if hi < i then (hi, flIV) else (i, if inexact then flNX else 0)

/-- Conversion into E4M3 or E5M2 (R151). `iv` carries an IV raised by forming the source. -/
def cvt8R (f : Fmt) (rm : RM) (sat : Bool) (v : FVal) : Nat × Flags :=
  match v with
  | .nan s => (f.nanCode, if s then flIV else 0)
  | .inf n =>
    if sat then (f.withSign n f.maxCode, 0)
    else if f.infinite then (f.withSign n f.infCode, 0) else (f.nanCode, flIV)
  | .fin neg m e =>
    if m = 0 then (f.withSign neg 0, 0)
    else
      let r := roundMag f rm neg m e false
      if f.maxCode < r.code then
        (if sat || !overToInf rm neg then f.withSign neg f.maxCode
         else if f.infinite then f.withSign neg f.infCode else f.nanCode, flOF ||| flNX)
      else (f.withSign neg r.code, if r.inexact then (if r.tiny then flUF ||| flNX else flNX) else 0)

/-! ### Q16N (R143, R144) -/

/-- The codebook of R143, in units of 1/512. -/
def codebook : List Int := [-512, -360, -272, -206, -148, -96, -47, 0, 42, 84, 128, 176, 230, 294, 376, 512]

/-- scale := RNE(S × (c + 1) / 256). -/
def q16Scale (s : W32) (c : Nat) : W32 :=
  BitVec.ofNat 32 (roundF fp32 .rne (mulX (unpack fp32 s.toNat) (.fin false (c + 1) (-8))).1).1

/-- elem := RNE((codebook(index) / 512) × scale). A zero takes the sign of the scale. -/
def q16Elem (scale : W32) (idx : Nat) : W32 :=
  BitVec.ofNat 32 (roundF fp32 .rne (mulX (FVal.ofInt (codebook.getD (idx % 16) 0) (-9)) (unpack fp32 scale.toNat)).1).1

/-! ### Special functions (R152, R153), FP32, RNE. Exact cases are separate; elsewhere the result is formed in fixed
point with 256 or 320 fraction bits (assumption log 8). -/

def ln2Fix : Nat := 0xb17217f7d1cf79abc9e3b39803f2f6af40f343267298b62d8a0d175b8baafa2b
def halfPiFix : Nat := 0x1921fb54442d18469898cc51701b839a252049c1114cf98e804177d4c76273644a29410f31c6809bb

/-- Sum of y^j / j! for the `n` terms after `j`, in fixed point of 256 bits. -/
def expTerms (y : Nat) : Nat → Nat → Nat → Nat
  | 0, _, _ => 0
  | n + 1, j, t => t + expTerms y n (j + 1) (t * y / 2 ^ 256 / (j + 1))

/-- Sum of z^(2k+1) / (2k+1). -/
def atanhTerms (zz : Nat) : Nat → Nat → Nat → Nat
  | 0, _, _ => 0
  | n + 1, k, t => t / (2 * k + 1) + atanhTerms zz n (k + 1) (t * zz / 2 ^ 256)

/-- Alternating sum of r^j / j! in steps of two, in fixed point of 320 bits. -/
def trigTerms (rr : Nat) : Nat → Nat → Int → Int
  | 0, _, _ => 0
  | n + 1, j, t => t + trigTerms rr n (j + 2) (-(t * rr / 2 ^ 320 / ((j + 1) * (j + 2))))

def exp2R (x : Nat) : Nat × Flags :=
  match unpack fp32 x with
  | .nan s => (fp32.nanCode, if s then flIV else 0)
  | .inf n => (if n then 0 else fp32.infCode, 0)
  | .fin n m e =>
    if m = 0 then (0x3F800000, 0)
    else if 8 ≤ e + m.log2 then roundSticky fp32 .rne true (.fin false (2 ^ 10) (if n then -400 else 400))
    else
      let X := signInt n m * 2 ^ (e + 256).toNat
      let k := X / 2 ^ 256
      let fr := (X % 2 ^ 256).toNat
      if fr = 0 then roundF fp32 .rne (.fin false 1 k)
      else roundSticky fp32 .rne true (.fin false (expTerms (fr * ln2Fix / 2 ^ 256) 64 0 (2 ^ 256)) (k - 256))

def log2R (x : Nat) : Nat × Flags :=
  match unpack fp32 x with
  | .nan s => (fp32.nanCode, if s then flIV else 0)
  | .inf n => if n then (fp32.nanCode, flIV) else (fp32.infCode, 0)
  | .fin n m e =>
    if m = 0 then (fp32.withSign true fp32.infCode, flDZ)
    else if n then (fp32.nanCode, flIV)
    else
      let l := m.log2
      if m = 2 ^ l then roundF fp32 .rne (FVal.ofInt (e + l) 0)
      else
        let z := (m - 2 ^ l) * 2 ^ 256 / (m + 2 ^ l)
        let s := atanhTerms (z * z / 2 ^ 256) 90 0 z
        let T : Int := (e + l) * 2 ^ 256 + (2 * s * 2 ^ 256 / ln2Fix : Nat)
        roundSticky fp32 .rne true (FVal.ofInt T (-256))

/-- VSIN (`cosine = false`) and VCOS. -/
def trigR (cosine : Bool) (x : Nat) : Nat × Flags :=
  match unpack fp32 x with
  | .nan s => (fp32.nanCode, if s then flIV else 0)
  | .inf _ => (fp32.nanCode, flIV)
  | .fin n m e =>
    if m = 0 then (if cosine then 0x3F800000 else x, 0)
    else if 20 < e + m.log2 ∨ (e + m.log2 = 20 ∧ m ≠ 2 ^ m.log2) then (fp32.nanCode, flRR)
    else if e + m.log2 < -100 then
      if cosine then roundSticky fp32 .rne true (.fin false (2 ^ 100 - 1) (-100))
      else roundSticky fp32 .rne true (.fin n (m * 2 ^ 64 - 1) (e - 64))
    else
      let X := m * 2 ^ (e + 320).toNat
      let k := (X + halfPiFix / 2) / halfPiFix
      let r : Int := (X : Int) - (k * halfPiFix : Nat)
      let rr := r.natAbs * r.natAbs / 2 ^ 320
      let s := trigTerms rr 48 1 r
      let c := trigTerms rr 48 0 (2 ^ 320)
      let v := match (k + (if cosine then 1 else 0)) % 4 with
        | 0 => s
        | 1 => c
        | 2 => -s
        | _ => -c
      roundSticky fp32 .rne true (FVal.ofInt (if n && !cosine then -v else v) (-320))

def rcpR (x : Nat) : Nat × Flags := fdivR fp32 .rne (.fin false 1 0) (unpack fp32 x)

def rsqrtR (x : Nat) : Nat × Flags :=
  match unpack fp32 x with
  | .nan s => (fp32.nanCode, if s then flIV else 0)
  | .inf n => if n then (fp32.nanCode, flIV) else (0, 0)
  | .fin n m e =>
    if m = 0 then (fp32.withSign n fp32.infCode, flDZ)
    else if n then (fp32.nanCode, flIV)
    else
      let p := if e % 2 = 0 then m else 2 * m
      let h := (if e % 2 = 0 then e else e - 1) / 2
      let k := 40 + p.log2
      let q := 2 ^ (2 * k) / p
      let r := isqrt q
      roundSticky fp32 .rne (r * r * p != 2 ^ (2 * k)) (.fin false r (-h - k))

/-- A list of exact products summed exactly (R154, R155, R158): NaN if any is NaN or infinities of both signs meet;
an exact zero is −0 only when every product is −0. -/
def sumX (l : List FVal) : FVal :=
  match l with
  | [] => .fin false 0 0
  | v :: vs => vs.foldl (fun a b => (addX .rne a b).1) (match v with | .nan _ => .nan false | o => o)

end Sys2Proof.Machine
end

