-- ==== Sys2Proof/Config.lean ====
section
/-! DEFINITION. The values the specification leaves open and the constants an implementation fixes: opaque, so that no
proof can rest on one (assumption logs 9 and 10). -/

namespace Sys2Proof.Config

/-- A free 32-bit value (R374, R428): applied to the free-value counter of the state. -/
opaque freeWord : Nat → BitVec 32

/-- The identity of the part: serial number (R425). -/
opaque serialNumber : W64

/-- SHA-512 of a string of bytes, most significant byte first (R424, R425). -/
opaque sha512 : List (BitVec 8) → BitVec 512

/-- The fuses: Golcen's digest of the firmware key, and the rollback floor (R424). -/
opaque fusedDigest : BitVec 512
opaque rollbackFloor : BitVec 32

/-- The steward service entry and the steward trap entry of the firmware (R393, R403, R425). -/
opaque serviceEntry : W64
opaque stewardTrapEntry : W64

/-- Word `i` of the RSASSA-PSS signature over the report's first 0x200 bytes, given as one number (R425). -/
opaque signatureWord : Nat → Nat → W64

/-- Word `i` of the identity key modulus and of Golcen's signature over serial number and modulus (R425). -/
opaque modulusWord : Nat → W64
opaque golcenWord : Nat → W64

/-- The least of the three end-of-life predictions made at an hour of the GTS (R423). -/
opaque eolPrediction : Nat → BitVec 32

end Sys2Proof.Config
end

