-- ==== Sys2Proof/Syntax.lean ====
section
/-! DEFINITION. The instructions and events of the Emlis 7, one constructor per row of the opcode table: the 220
one-word instructions and 12 long forms with the fields of their encodings (R79 to R94), and the 91 operations and
events, which have no encoding, with the outside values they bring as operands (assumption log 1). -/

namespace Sys2Proof

/-- A firmware image in the package's flash (R424): its RSA-4096 key, its version, header and body, and its signature. -/
structure FwImage where
  key : BitVec 4096
  version : BitVec 32
  header : List (BitVec 8)
  body : List (BitVec 8)
  signature : BitVec 4096
deriving DecidableEq, Repr

/-- One row of the opcode table each. -/
inductive Instr
  | add (d a b : BitVec 5) (w : BitVec 2) (n : BitVec 1) (g : BitVec 4)
  | sub (d a b : BitVec 5) (w : BitVec 2) (n : BitVec 1) (g : BitVec 4)
  | and (d a b : BitVec 5) (w : BitVec 2) (n : BitVec 1) (g : BitVec 4)
  | or (d a b : BitVec 5) (w : BitVec 2) (n : BitVec 1) (g : BitVec 4)
  | xor (d a b : BitVec 5) (w : BitVec 2) (n : BitVec 1) (g : BitVec 4)
  | andn (d a b : BitVec 5) (w : BitVec 2) (n : BitVec 1) (g : BitVec 4)
  | shl (d a b : BitVec 5) (w : BitVec 2) (n : BitVec 1) (g : BitVec 4)
  | shr (d a b : BitVec 5) (w : BitVec 2) (n : BitVec 1) (g : BitVec 4)
  | sra (d a b : BitVec 5) (w : BitVec 2) (n : BitVec 1) (g : BitVec 4)
  | rol (d a b : BitVec 5) (w : BitVec 2) (n : BitVec 1) (g : BitVec 4)
  | min (d a b : BitVec 5) (w : BitVec 2) (n : BitVec 1) (g : BitVec 4)
  | max (d a b : BitVec 5) (w : BitVec 2) (n : BitVec 1) (g : BitVec 4)
  | minn (d a b : BitVec 5) (w : BitVec 2) (n : BitVec 1) (g : BitVec 4)
  | maxn (d a b : BitVec 5) (w : BitVec 2) (n : BitVec 1) (g : BitVec 4)
  | clz (d a : BitVec 5) (w : BitVec 2) (n : BitVec 1) (g : BitVec 4)
  | ctz (d a : BitVec 5) (w : BitVec 2) (n : BitVec 1) (g : BitVec 4)
  | mul (d a b : BitVec 5) (w : BitVec 2) (n : BitVec 1) (g : BitVec 4)
  | mulh (d a b : BitVec 5) (w : BitVec 2) (n : BitVec 1) (g : BitVec 4)
  | mulhn (d a b : BitVec 5) (w : BitVec 2) (n : BitVec 1) (g : BitVec 4)
  | div (d a b : BitVec 5) (w : BitVec 2) (n : BitVec 1) (g : BitVec 4)
  | divn (d a b : BitVec 5) (w : BitVec 2) (n : BitVec 1) (g : BitVec 4)
  | rem (d a b : BitVec 5) (w : BitVec 2) (n : BitVec 1) (g : BitVec 4)
  | remn (d a b : BitVec 5) (w : BitVec 2) (n : BitVec 1) (g : BitVec 4)
  | popc (d a : BitVec 5) (w : BitVec 2) (n : BitVec 1) (g : BitVec 4)
  | bswap (d a : BitVec 5) (w : BitVec 2) (n : BitVec 1) (g : BitVec 4)
  | addi (d a : BitVec 5) (i : BitVec 12) (g : BitVec 4)
  | andi (d a : BitVec 5) (i : BitVec 10) (g : BitVec 4)
  | ori (d a : BitVec 5) (i : BitVec 10) (g : BitVec 4)
  | xori (d a : BitVec 5) (i : BitVec 10) (g : BitVec 4)
  | shli (d a : BitVec 5) (s : BitVec 6) (g : BitVec 4)
  | shri (d a : BitVec 5) (s : BitVec 6) (g : BitVec 4)
  | srai (d a : BitVec 5) (s : BitVec 6) (g : BitVec 4)
  | extf (d a : BitVec 5) (w : BitVec 2) (n : BitVec 1) (p : BitVec 6) (g : BitVec 4)
  | insf (d a : BitVec 5) (w : BitVec 2) (n : BitVec 1) (p : BitVec 6) (g : BitVec 4)
  | sext (d a : BitVec 5) (w : BitVec 2) (g : BitVec 4)
  | zext (d a : BitVec 5) (w : BitVec 2) (g : BitVec 4)
  | liu (d : BitVec 5) (i : BitVec 17) (g : BitVec 4)
  | cmp (p : BitVec 3) (a b : BitVec 5) (w : BitVec 2) (n : BitVec 1) (c : BitVec 3) (g : BitVec 4)
  | cmpi (n : BitVec 1) (p : BitVec 3) (a : BitVec 5) (c : BitVec 3) (i : BitVec 9) (g : BitVec 4)
  | pand (d a b : BitVec 3) (g : BitVec 4)
  | por (d a b : BitVec 3) (g : BitVec 4)
  | pxor (d a b : BitVec 3) (g : BitVec 4)
  | pnot (d a : BitVec 3) (g : BitVec 4)
  | sel (d a b : BitVec 5) (s : BitVec 3) (g : BitVec 4)
  | pmovx (d : BitVec 5) (a : BitVec 3) (g : BitVec 4)
  | xmovp (d : BitVec 3) (a : BitVec 5) (g : BitVec 4)
  | fadd (d a b : BitVec 5) (t : BitVec 3) (g : BitVec 4)
  | fsub (d a b : BitVec 5) (t : BitVec 3) (g : BitVec 4)
  | fmul (d a b : BitVec 5) (t : BitVec 3) (g : BitVec 4)
  | ffma (d a b : BitVec 5) (t : BitVec 3) (g : BitVec 4)
  | fdiv (d a b : BitVec 5) (t : BitVec 3) (g : BitVec 4)
  | fsqrt (d a : BitVec 5) (t : BitVec 3) (g : BitVec 4)
  | fmin (d a b : BitVec 5) (t : BitVec 3) (g : BitVec 4)
  | fmax (d a b : BitVec 5) (t : BitVec 3) (g : BitVec 4)
  | fcmp (t : BitVec 1) (p : BitVec 3) (a b : BitVec 5) (c : BitVec 3) (g : BitVec 4)
  | fcvt (d a : BitVec 5) (s t : BitVec 3) (g : BitVec 4)
  | br (o : BitVec 22) (g : BitVec 4)
  | call (o : BitVec 22) (g : BitVec 4)
  | jr (a : BitVec 5) (g : BitVec 4)
  | addpc (d : BitVec 5) (i : BitVec 17) (g : BitVec 4)
  | liw (d : BitVec 5) (g : BitVec 4) (imm : BitVec 32)
  | calll (g : BitVec 4) (imm : BitVec 32)
  | ld (d a : BitVec 5) (i : BitVec 10) (s : BitVec 2) (g : BitVec 4)
  | ldn (d a : BitVec 5) (i : BitVec 10) (s : BitVec 2) (g : BitVec 4)
  | st (d a : BitVec 5) (i : BitVec 10) (s : BitVec 2) (g : BitVec 4)
  | ldLong (d a : BitVec 5) (w : BitVec 2) (g : BitVec 4) (sc ord : BitVec 3) (h : BitVec 2) (off : BitVec 24)
  | ldnLong (d a : BitVec 5) (w : BitVec 2) (g : BitVec 4) (sc ord : BitVec 3) (h : BitVec 2) (off : BitVec 24)
  | stLong (d a : BitVec 5) (w : BitVec 2) (g : BitVec 4) (sc ord : BitVec 3) (h : BitVec 2) (off : BitVec 24)
  | ldv (d a : BitVec 5) (i : BitVec 10) (g : BitVec 4)
  | stv (d a : BitVec 5) (i : BitVec 10) (g : BitVec 4)
  | ldvLong (d a : BitVec 5) (g : BitVec 4) (sc ord : BitVec 3) (h : BitVec 2) (off : BitVec 24)
  | stvLong (d a : BitVec 5) (g : BitVec 4) (sc ord : BitVec 3) (h : BitVec 2) (off : BitVec 24)
  | ldvs (d a b : BitVec 5) (w : BitVec 1) (g : BitVec 4)
  | stvs (d a b : BitVec 5) (w : BitVec 1) (g : BitVec 4)
  | vgather (d a b : BitVec 5) (w : BitVec 1) (s : BitVec 2) (g : BitVec 4)
  | vscatter (d a b : BitVec 5) (w : BitVec 1) (s : BitVec 2) (g : BitVec 4)
  | ldvsLong (d a : BitVec 5) (w : BitVec 1) (g : BitVec 4) (sc ord : BitVec 3) (h : BitVec 2) (b : BitVec 5)
  | stvsLong (d a : BitVec 5) (w : BitVec 1) (g : BitVec 4) (sc ord : BitVec 3) (h : BitVec 2) (b : BitVec 5)
  | vgatherLong (d a : BitVec 5) (w : BitVec 1) (s : BitVec 2) (g : BitVec 4) (sc ord : BitVec 3) (h : BitVec 2) (b : BitVec 5)
  | vscatterLong (d a : BitVec 5) (w : BitVec 1) (s : BitVec 2) (g : BitVec 4) (sc ord : BitVec 3) (h : BitVec 2) (b : BitVec 5)
  | pref (a : BitVec 5) (h : BitVec 2) (g : BitVec 4)
  | prefLong (a : BitVec 5) (g : BitVec 4) (h : BitVec 2) (off : BitVec 24)
  | cflush (a b : BitVec 5) (s : BitVec 3) (g : BitVec 4)
  | cinv (a b : BitVec 5) (s : BitVec 3) (g : BitVec 4)
  | aadd (d a b : BitVec 5) (o : BitVec 2) (s : BitVec 3) (g : BitVec 4)
  | aand (d a b : BitVec 5) (o : BitVec 2) (s : BitVec 3) (g : BitVec 4)
  | aor (d a b : BitVec 5) (o : BitVec 2) (s : BitVec 3) (g : BitVec 4)
  | axor (d a b : BitVec 5) (o : BitVec 2) (s : BitVec 3) (g : BitVec 4)
  | amin (d a b : BitVec 5) (o : BitVec 2) (s : BitVec 3) (g : BitVec 4)
  | amax (d a b : BitVec 5) (o : BitVec 2) (s : BitVec 3) (g : BitVec 4)
  | aminn (d a b : BitVec 5) (o : BitVec 2) (s : BitVec 3) (g : BitVec 4)
  | amaxn (d a b : BitVec 5) (o : BitVec 2) (s : BitVec 3) (g : BitVec 4)
  | aswap (d a b : BitVec 5) (o : BitVec 2) (s : BitVec 3) (g : BitVec 4)
  | acas (d a b : BitVec 5) (o : BitVec 2) (s : BitVec 3) (g : BitVec 4)
  | aaddf (d a b : BitVec 5) (o : BitVec 2) (s : BitVec 3) (g : BitVec 4)
  | afaddF64 (d a b : BitVec 5) (o : BitVec 2) (s : BitVec 3) (g : BitVec 4)
  | afmaxF64 (d a b : BitVec 5) (o : BitVec 2) (s : BitVec 3) (g : BitVec 4)
  | afaddF32 (d a b : BitVec 5) (o : BitVec 2) (s : BitVec 3) (g : BitVec 4)
  | afmaxF32 (d a b : BitVec 5) (o : BitVec 2) (s : BitVec 3) (g : BitVec 4)
  | wread (d a b : BitVec 5) (g : BitVec 4)
  | wadd (d a b : BitVec 5) (g : BitVec 4)
  | wset (d a b : BitVec 5) (g : BitVec 4)
  | wmax (d a b : BitVec 5) (g : BitVec 4)
  | wlap (d a : BitVec 5) (g : BitVec 4)
  | vadd (d a b : BitVec 5) (t : BitVec 1) (g : BitVec 4)
  | vsub (d a b : BitVec 5) (t : BitVec 1) (g : BitVec 4)
  | vmul (d a b : BitVec 5) (t : BitVec 1) (g : BitVec 4)
  | vmin (d a b : BitVec 5) (t : BitVec 1) (g : BitVec 4)
  | vmax (d a b : BitVec 5) (t : BitVec 1) (g : BitVec 4)
  | vdiv (d a b : BitVec 5) (t : BitVec 1) (g : BitVec 4)
  | vfma (d a b : BitVec 5) (t : BitVec 1) (g : BitVec 4)
  | vfms (d a b : BitVec 5) (t : BitVec 1) (g : BitVec 4)
  | vfnma (d a b : BitVec 5) (t : BitVec 1) (g : BitVec 4)
  | vabs (d a : BitVec 5) (t : BitVec 1) (g : BitVec 4)
  | vneg (d a : BitVec 5) (t : BitVec 1) (g : BitVec 4)
  | vsqrt (d a : BitVec 5) (t : BitVec 1) (g : BitVec 4)
  | vrcp (d a : BitVec 5) (g : BitVec 4)
  | vrsqrt (d a : BitVec 5) (g : BitVec 4)
  | vexp2 (d a : BitVec 5) (g : BitVec 4)
  | vlog2 (d a : BitVec 5) (g : BitVec 4)
  | vsin (d a : BitVec 5) (g : BitVec 4)
  | vcos (d a : BitVec 5) (g : BitVec 4)
  | viadd (d a b : BitVec 5) (w : BitVec 1) (g : BitVec 4)
  | visub (d a b : BitVec 5) (w : BitVec 1) (g : BitVec 4)
  | vimul (d a b : BitVec 5) (w : BitVec 1) (g : BitVec 4)
  | vimin (d a b : BitVec 5) (w n : BitVec 1) (g : BitVec 4)
  | vimax (d a b : BitVec 5) (w n : BitVec 1) (g : BitVec 4)
  | vand (d a b : BitVec 5) (w : BitVec 1) (g : BitVec 4)
  | vor (d a b : BitVec 5) (w : BitVec 1) (g : BitVec 4)
  | vxor (d a b : BitVec 5) (w : BitVec 1) (g : BitVec 4)
  | vshl (d a b : BitVec 5) (w : BitVec 1) (g : BitVec 4)
  | vshr (d a b : BitVec 5) (w : BitVec 1) (g : BitVec 4)
  | vsra (d a b : BitVec 5) (w : BitVec 1) (g : BitVec 4)
  | vcmp (p : BitVec 3) (a b : BitVec 5) (t : BitVec 1) (c : BitVec 3) (g : BitVec 4)
  | vicmp (n : BitVec 1) (p : BitVec 3) (a b : BitVec 5) (w : BitVec 1) (c : BitVec 3) (g : BitVec 4)
  | vsel (d a b : BitVec 5) (w : BitVec 1) (s : BitVec 3) (g : BitVec 4)
  | vcvt (d a c : BitVec 5) (r : BitVec 3) (s : BitVec 1) (g : BitVec 4)
  | vqdec (d a b : BitVec 5) (k : BitVec 3) (g : BitVec 4)
  | vqenc (d a b : BitVec 5) (k : BitVec 3) (g : BitVec 4)
  | vpack (d a : BitVec 5) (w p : BitVec 2) (g : BitVec 4)
  | vunpk (d a : BitVec 5) (w p : BitVec 2) (g : BitVec 4)
  | vbcast (d a : BitVec 5) (w : BitVec 1) (g : BitVec 4)
  | vmovx (d a : BitVec 5) (l g : BitVec 4)
  | vperm (d a b : BitVec 5) (g : BitVec 4)
  | vshuf (d a b : BitVec 5) (p : BitVec 3) (g : BitVec 4)
  | vred (d a : BitVec 5) (w k : BitVec 1) (o : BitVec 2) (g : BitVec 4)
  | vscan (d a : BitVec 5) (w k : BitVec 1) (o : BitVec 2) (g : BitVec 4)
  | vtopk (d a b : BitVec 5) (k : BitVec 3) (g : BitVec 4)
  | vpairk (d a b : BitVec 5) (k : BitVec 3) (g : BitVec 4)
  | voptu (d a : BitVec 5) (g : BitVec 4)
  | scfg (d : BitVec 3) (a : BitVec 5) (g : BitVec 4)
  | sbind (d : BitVec 3) (b : BitVec 5) (g : BitVec 4)
  | sstop (d : BitVec 3) (g : BitVec 4)
  | mlda (a b : BitVec 5) (g : BitVec 4)
  | mldb (a b : BitVec 5) (g : BitVec 4)
  | mzero (d : BitVec 3) (g : BitVec 4)
  | mst (d : BitVec 3) (a : BitVec 5) (g : BitVec 4)
  | mstW (d : BitVec 3) (a : BitVec 5) (g : BitVec 4)
  | mmaE4e4 (d a b : BitVec 3) (g : BitVec 4)
  | mmaE4e5 (d a b : BitVec 3) (g : BitVec 4)
  | mmaE5e4 (d a b : BitVec 3) (g : BitVec 4)
  | mmaE5e5 (d a b : BitVec 3) (g : BitVec 4)
  | mmaQ4e4 (d a b : BitVec 3) (g : BitVec 4)
  | mmaBf (d : BitVec 3) (g : BitVec 4)
  | mmaHf (d : BitVec 3) (g : BitVec 4)
  | mmaF32 (d : BitVec 3) (g : BitVec 4)
  | mmaF64 (d : BitVec 3) (g : BitVec 4)
  | mmaI8 (d : BitVec 3) (g : BitVec 4)
  | rmmaE4e4 (a b : BitVec 3) (g : BitVec 4)
  | rmmaE4e5 (a b : BitVec 3) (g : BitVec 4)
  | rmmaE5e4 (a b : BitVec 3) (g : BitVec 4)
  | rmmaE5e5 (a b : BitVec 3) (g : BitVec 4)
  | rmmaQ4e4 (a b : BitVec 3) (g : BitVec 4)
  | rmmaBf (g : BitVec 4)
  | rmmaHf (g : BitVec 4)
  | rmmaF32 (g : BitVec 4)
  | rmmaI8 (g : BitVec 4)
  | mgang (g : BitVec 4)
  | mwait (g : BitVec 4)
  | mrd (d : BitVec 5) (a : BitVec 3) (b : BitVec 5) (g : BitVec 4)
  | mwr (d : BitVec 3) (a b : BitVec 5) (g : BitVec 4)
  | mclaim (d : BitVec 3) (g : BitVec 4)
  | mfree (d : BitVec 3) (g : BitVec 4)
  | eset (d : BitVec 3) (a : BitVec 5) (g : BitVec 4)
  | erd (d : BitVec 5) (a : BitVec 3) (g : BitVec 4)
  | qpush (d : BitVec 2) (a : BitVec 5) (g : BitVec 4)
  | qpop (d : BitVec 5) (a : BitVec 2) (g : BitVec 4)
  | qnpush (d : BitVec 5) (a : BitVec 2) (b : BitVec 5) (g : BitVec 4)
  | qcnt (d : BitVec 5) (a : BitVec 2) (g : BitVec 4)
  | send (d a b : BitVec 5) (s : BitVec 3) (o : BitVec 1) (g : BitVec 4)
  | sendl (d a b : BitVec 5) (s : BitVec 3) (g : BitVec 4)
  | hop (d a b : BitVec 5) (s : BitVec 3) (g : BitVec 4)
  | hopV (d a b : BitVec 5) (s : BitVec 3) (g : BitVec 4)
  | spawn (a b : BitVec 5) (s : BitVec 3) (g : BitVec 4)
  | spawnn (d a b : BitVec 5) (s : BitVec 3) (g : BitVec 4)
  | commit (g : BitVec 4)
  | done (g : BitVec 4)
  | yield (g : BitVec 4)
  | prio (c : BitVec 2) (g : BitVec 4)
  | umask (g : BitVec 4)
  | unmask (g : BitVec 4)
  | cntadd (a : BitVec 5) (g : BitVec 4)
  | cancel (a : BitVec 5) (g : BitVec 4)
  | waitc (d a : BitVec 5) (g : BitVec 4)
  | waitm (d a b : BitVec 5) (g : BitVec 4)
  | fence (s o : BitVec 3) (g : BitVec 4)
  | drain (p : BitVec 2) (g : BitVec 4)
  | bar (a : BitVec 5) (g : BitVec 4)
  | twalk (a : BitVec 5) (e : BitVec 1) (g : BitVec 4)
  | twb (a : BitVec 5) (e : BitVec 1) (g : BitVec 4)
  | tdeal (a : BitVec 5) (e : BitVec 1) (g : BitVec 4)
  | permit (a : BitVec 5) (e : BitVec 1) (g : BitVec 4)
  | pklook (d a b : BitVec 5) (g : BitVec 4)
  | pkres (d a b : BitVec 5) (g : BitVec 4)
  | pkscore (d a b : BitVec 5) (g : BitVec 4)
  | pkgw (d a b : BitVec 5) (g : BitVec 4)
  | srd (d n : BitVec 5) (m g : BitVec 4)
  | swr (a n : BitVec 5) (m g : BitVec 4)
  | trap (a : BitVec 5) (g : BitVec 4)
  | eret (a b : BitVec 5) (g : BitVec 4)
  | tlbwWrite (d a b : BitVec 5) (g : BitVec 4)
  | tlbwAbsent (d a b : BitVec 5) (g : BitVec 4)
  | tlbwDeny (d a b : BitVec 5) (g : BitVec 4)
  | tlbiPage (a : BitVec 5) (g : BitVec 4)
  | tlbiAsid (a : BitVec 5) (g : BitVec 4)
  | tlbiAll (a : BitVec 5) (g : BitVec 4)
  | tlbp (d a b : BitVec 5) (g : BitVec 4)
  | idle (a : BitVec 5) (g : BitVec 4)
  | wfm (d a : BitVec 5) (g : BitVec 4)
  | haltcFence (a : BitVec 5) (g : BitVec 4)
  | haltcUnfence (a : BitVec 5) (g : BitVec 4)
  | selft (d a : BitVec 5) (g : BitVec 4)
  | mailboxDelivery (idx : Nat)
  | sendFullRetry (sid : Nat)
  | agentImageRetry (idx : Nat)
  | imageAgePromotion (core : Nat)
  | imageBind (core : Nat)
  | urgentBind (core : Nat)
  | handlerStart (sid : Nat)
  | issueSelect (core : Nat)
  | urgentWindowClose (core : Nat)
  | yieldTimeout (sid : Nat)
  | stealProbe (core : Nat)
  | stealGrant (core : Nat)
  | stealBackoffExpiry (core : Nat)
  | parkTimeout (core : Nat)
  | wqRsv (fn q : Nat)
  | wqSlotWrite (fn q off : Nat) (words : List W64)
  | wqReservationTimeout (q slot : Nat)
  | rootAdmission (q : Nat)
  | rootAdmitRetry (q : Nat)
  | cancelAnswer (sid : Nat) (perm : Bool)
  | cancelMarkArrival (core : Nat) (launch : W32)
  | sliceEnd
  | sliceStart
  | watchdog (sid : Nat)
  | errorDetect (sid : Nat) (addr unit : W64)
  | completionDelivery (idx : Nat)
  | waitmReread (sid : Nat)
  | remoteAnswer (rid status : Nat) (payload : List W64) (aux : W64)
  | rnrResend (rid : Nat)
  | remoteAgentRequest (idx : Nat)
  | pkluAdmission (cl : Nat)
  | pkluSelectionDone (cl id : Nat)
  | pkluFetchIssue (cl : Nat)
  | pkluRowArrival (cl fetch : Nat) (mcheck : Bool)
  | streamFetchArrival (sid : Nat) (z : BitVec 3)
  | matrixCommandExecute (core : Nat)
  | rmmaRingStep (troupe : Nat)
  | engineCommandAccept (cl e : Nat)
  | permitMessage (cl e : Nat)
  | engineTileWrite (cl e : Nat)
  | lapBoundary (region slice : Nat)
  | sweepRowVisit (region slice : Nat)
  | whirligigRequestArrival (idx : Nat)
  | whirligigRetag (idx : Nat)
  | readReply (idx : Nat)
  | updateAcknowledgement (idx : Nat)
  | createRegion (creator : W32) (desc : List W64) (target : W64)
  | destroyRegion (creator : W32) (base z target : W64)
  | chooseDestinationTsc (creator : W32) (sel target : W64)
  | gatewayOutgoing (idx : Nat)
  | portHoldTimeout (idx : Nat)
  | gatewayArrival (die idx : Nat)
  | dieLinkFailure (link : Nat)
  | flitTransmit (port : Nat)
  | flitReceive (port : Nat) (hdr : W64) (payload : List W64) (tagOk : Bool)
  | idleFlit (port : Nat)
  | replayRetry (port : Nat)
  | trainingComplete (port : Nat) (good : BitVec 8) (plane sw : Nat) (partner : BitVec 10)
  | trainingTimeout (port : Nat)
  | portRetry (port : Nat)
  | switch (port : Nat)
  | retrain (port : Nat)
  | clrerr (port : Nat)
  | disable (port : Nat) (on : Bool)
  | ksCtlReady (port slot : Nat)
  | ksCtlEmpty (port slot : Nat)
  | werrClear (port : Nat)
  | registerWrite (page : Bool) (unit off : Nat) (value : W64)
  | hostMemoryAccess (write : Bool) (pa : Nat) (mask : W64) (line : Vec)
  | graphsub (fn : Nat) (addr : W64)
  | phasectl (fn : Nat) (word : W64)
  | phaseAllreduceDone (phase : W32)
  | cancelw (fn : Nat) (name : W64)
  | prresp (fn : Nat) (word : W64)
  | slicereq (addr : W64)
  | attreq (addr : W64)
  | attestationReportDone
  | wqcfg (q : Nat) (value : W64)
  | hrcfg (ring word : Nat) (value : W64)
  | syncMessage (early : Bool) (ticks : Nat)
  | syncTimeout
  | healthSelftest (unit : W64) (pass : Bool)
  | eolUpdate
  | powerGood (image : Option FwImage) (hbmFail : Nat)
  | smbusStatusRead
  | localAccessCompletion (cl pa : Nat) (fill : Bool)
  | idleWfmTimeout (sid : Nat)
  | correctableError (unit : W64)
  | backInvalidateComplete (pa : Nat)
  | selftResult (sid result : Nat)
  | externalSourceLock (pkg : BitVec 10) (locked : Bool)
deriving DecidableEq, Repr

end Sys2Proof
end

