-- ==== Sys2Proof/Machine/State.lean ====
section
/-! DEFINITION. The state of one Emlis 7 package (R1): everything the specification gives the machine, as plain data,
with the agenda that says which agent moves next (assumption log 1), and the state after package reset. -/

namespace Sys2Proof.Machine

/-- Why a run stops. -/
inductive Fault
  /-- The agenda names a fetched instruction as an event: the agenda is no agenda of the machine (log 1). Raised by
  `step` alone; safe, since the machine itself has no such turn. -/
  | agendaNotEvent
deriving DecidableEq, Repr

/-- Why an instruction has no meaning. -/
inductive Refusal
  /-- An arm that has no meaning yet. Raised by `exec` alone; safe. -/
  | notModelled (mnemonic : String)
deriving DecidableEq, Repr

/-- The thirteen causes of R321. -/
inductive Cause
  | illegal | priv | align | addr | page | perm | remoteTimeout | remoteUnsupported | remotePerm | fp | mcheck | brk
  | watchdog
deriving DecidableEq, Repr

/-- The code of a cause (R321). -/
def Cause.code : Cause → Nat
  | .illegal => 1
  | .priv => 2
  | .align => 3
  | .addr => 4
  | .page => 5
  | .perm => 6
  | .remoteTimeout => 7
  | .remoteUnsupported => 8
  | .remotePerm => 9
  | .fp => 10
  | .mcheck => 11
  | .brk => 12
  | .watchdog => 13

/-- A table: key and value pairs, keys strictly rising. -/
abbrev Tbl (α : Type) := List (Nat × α)

/-- A task image (R28) with what the hardware carries beside it: the register block of a HOP continuation (R42), the
payload (R31), the job and function it belongs to (R337), the mark of R324, the pages whose requests were refused while it was
parked on them (R311), and for a stolen image the scope of the hand-over, at which its start acquires (R50). -/
structure Image where
  w0 : W64
  w1 : W64
  w2 : W64
  w3 : W64
  w4 : W64
  w5 : W64
  w6 : W64
  w7 : W64
  regs : Option (List W64)
  payload : List W64
  job : W32
  fn : BitVec 7
  marked : Bool
  deny : List Nat
  handOver : Option Nat
deriving DecidableEq, Repr

/-- An entry of a mailbox sub-queue or deque (R33 to R36, R59): an image or a fan entry with N and the next index, the
cycle from which its age counts (its age itself while the job is out), and the promotions its age has brought (R54). -/
structure QEntry where
  img : Image
  fan : Option (Nat × Nat)
  since : Nat
  promo : Nat
deriving DecidableEq, Repr

/-- A bound or saved task: identity (log 2), image as bound (R39), job and function. -/
structure Task where
  tid : Nat
  img : Image
deriving DecidableEq, Repr

/-- Where the bytes of an access lie (R301): a scratchpad, local HBM or the host's memory with the TSO attribute of the leaf (R294),
another package, the link window, or local HBM that holds region rows and spares (R428). -/
inductive Place
  | scratch (core off : Nat)
  | hbm (pa : Nat) (tso : Bool)
  | host (pa : Nat) (tso : Bool)
  | remote (pkg : Nat)
  | link (off : Nat)
  | held (pa : Nat)
deriving DecidableEq, Repr

/-- A stream configuration block (R205). -/
structure StreamCfg where
  base : W64
  cnt0 : Nat
  cnt1 : Nat
  cnt2 : Nat
  str0 : W64
  str1 : W64
  str2 : W64
  hint : BitVec 2
deriving DecidableEq, Repr

/-- A fetched element: its data, or the fault held with it (R210). -/
structure StreamElem where
  line : Vec
  fault : Option (Cause × W64)
deriving DecidableEq, Repr

/-- A stream name of a slot (R204): configuration, next element, bound register, physical engine held, buffer. -/
structure Stream where
  cfg : Option StreamCfg
  i0 : Nat
  i1 : Nat
  i2 : Nat
  reg : Option (BitVec 5)
  engine : Bool
  buf : List StreamElem
deriving DecidableEq, Repr

/-- The dirty bits of R329. Bit 0 of `x` stands for the PC and special group. -/
structure Dirty where
  x : BitVec 32
  v : BitVec 32
  p : BitVec 8
  e : BitVec 8
  z : BitVec 8
  a : BitVec 8
deriving DecidableEq, Repr

/-- The wait of a slot (R332): kind 1 to 13 (0: a stall that is not counted), operand, WAITM's expected value, and the
cycle it began. -/
structure WaitRec where
  kind : Nat
  operand : W64
  expect : W64
  since : Nat
deriving DecidableEq, Repr

/-- What a slot that issues nothing more waits for. -/
inductive Pend
  /-- the walk of a page (R303); the instruction issues again -/
  | tlb
  /-- remote answers (R114, R119, R261): the length and guard of the instruction, the requests outstanding, the lowest
  failed lane with its cause and address, the done lanes, and the lanes that never count as done (R259) -/
  | remote (len : Nat) (g : BitVec 4) (rids : List Nat) (fail : Option (Nat × Cause × W64)) (done skip : BitVec 16)
  /-- WAITM between two reads (R133): the destination, and the GTS of the last one -/
  | waitm (d : BitVec 5) (since : Nat)
  /-- a whirligig read (R273) into V[d], lap to X[b] -/
  | wread (d b : BitVec 5) (va : W64)
  /-- a barrier (R268) -/
  | bar (num : Nat)
  /-- MGANG (R381) -/
  | gang
  /-- an RMMA standing at issue (R382), with its pair code, scale registers and instruction word -/
  | ring (pair : Nat) (a b : BitVec 3) (word : W32)
  /-- SELFT (R401) -/
  | selft (d : BitVec 5) (unit : W64)
  /-- IDLE and WFM (R401), with the deadline -/
  | idle (deadline : W64)
  | wfm (d : BitVec 5) (deadline : W64)
  /-- CANCEL waiting for the deciding package (R47) -/
  | cancel (name : W64)
deriving DecidableEq, Repr

/-- The message registers of a service core (R394). -/
structure SysRegs where
  cause : BitVec 16
  src : W32
  pc : W64
  val : W64
  frm : W64
  base1 : W64
  base2 : W64
  vf : BitVec 7
deriving DecidableEq, Repr

/-- A thread slot (R73, R77). `blk` is a block another package answered for the instruction at the PC (R114): its address and
bytes. `latchErr` is the address of uncorrectable data that a load of the task met and no MWAIT has reported (R374). `drain` is
what a DRAIN of the scratchpad waits for: engine, command, tile (R266). `word` holds the instruction words that wait for remote
answers (R327); `owed` the accumulators a restored task has still to take again (R330). `tried` is the model's own: how far the
package had come when the waiting instruction last tried (log 1). -/
structure Slot where
  task : Option Task
  x : RegFile 5 W64
  v : RegFile 5 Vec
  p : RegFile 3 (BitVec 16)
  e : RegFile 3 W32
  z : RegFile 3 Stream
  pc : W64
  fsr : W32
  fen : W32
  prio : BitVec 2
  rnrlim : BitVec 4
  cmtd : Bool
  laneDone : BitVec 16
  lanePc : W64
  compl : List (BitVec 16 × W64)
  failCause : Nat
  failAddr : W64
  starting : Option Nat
  wait : Option WaitRec
  pend : Option Pend
  forced : Option (Cause × W64)
  frame : Nat
  ext : Nat
  yielding : Option (List Nat × Nat)
  run : Nat
  dirty : Dirty
  sys : SysRegs
  blk : Option (W64 × Nat)
  deny : List Nat
  latchErr : Option W64
  drain : List (Nat × Nat × Nat)
  word : W64
  owed : BitVec 8
  tried : Nat
deriving DecidableEq, Repr

/-- A TLB entry (R302, R304 to R306): the two words, and the stamp of its last use. -/
structure TlbEntry where
  tag : W64
  word : W64
  used : Nat
deriving DecidableEq, Repr

/-- An operand latch (R369): layout word, loading slot and run, the stored tile as one little-endian number, the block
codes by stored row, the super-scale, and the address of uncorrectable data it holds (R374). -/
structure Latch where
  layout : W64
  sid : Nat
  run : Nat
  tile : Nat
  codes : List Nat
  super : W32
  bad : Option W64
deriving DecidableEq, Repr

/-- A matrix command with its captured operands (R371); addresses keep their translations, page by page. -/
inductive MOp
  | load (toB : Bool) (layout : W64) (va : W64) (pages : List Place)
  | zero (d : BitVec 3)
  | store (wide : Bool) (d : BitVec 3) (va : W64) (pages : List Place)
  | row (d : BitVec 3) (line : Vec) (sel : Nat)
  | mma (pair : Nat) (d : BitVec 3) (ea eb : W32)
  | rmma (pair : Nat) (ea eb : W32)
deriving DecidableEq, Repr

/-- A matrix command in a core's queue: its issuer, and the job whose pages it reaches (R374). -/
structure MCmd where
  op : MOp
  sid : Nat
  tid : Nat
  run : Nat
  job : W32
deriving DecidableEq, Repr

/-- The stealing state of a core (R66): victims already refused in this pass, the outstanding request, the cycle the back-off
began, and the core whose deque's only entry the take reached in this cycle (R67). -/
structure Steal where
  pos : Nat
  victim : Option Nat
  backoff : Option Nat
  seen : Option Nat
deriving DecidableEq, Repr

/-- A core (R33, R75, R302, R64, R66, R224, R401). `ownA`, `ownB` and `ownBhi` are the records of R369: format, slot and run of
the load last issued into each latch half. `qWait` lists who waits on each queue, 2 × slot for a QPOP and 2 × slot + 1 for a QPUSH
(R124). `freeing` marks the claims that MFREE returns when the queued commands naming them complete (R370); `heldHeads` gives by
sub-queue the place of the urgent head that waited when the window closed; `opened` is the slot and cycle of the UMASK that last
opened a window or found only such heads in its way, and `closedAt` the cycle of the last close (R64). `parks` are the launches
for which the conditions of R55 hold, each with the cycle from which they do; `parkTo` the slots freed by parking, each with its
launch (R68). `lastIssued` is the normal slot that issued last, and `prevIssued` the one before it while the choice of a waiting
thread stands (R62). `latched` are the faults that walks for units and streams of the core ended in and that these have not met
yet: waiter, page, and whether the page was refused (PERM) or absent (PAGE) (R135, R210, R308, R311). -/
structure CoreSt where
  mail : RegFile 2 (List QEntry)
  deque : List QEntry
  q : RegFile 2 (List W64)
  qWait : RegFile 2 (List Nat)
  acc : RegFile 3 (BitVec 32768)
  claim : RegFile 3 (Option Nat)
  freeing : BitVec 8
  cmds : List MCmd
  latchA : Option Latch
  latchB : Option Latch
  latchBhi : Option Latch
  ownA : Option (Nat × Nat × Nat)
  ownB : Option (Nat × Nat × Nat)
  ownBhi : Option (Nat × Nat × Nat)
  tlb : List TlbEntry
  opener : Option Nat
  retired : Nat
  heldHeads : Tbl Nat
  opened : Option (Nat × Nat)
  closedAt : Option Nat
  lastIssued : Nat
  prevIssued : Option Nat
  steal : Steal
  stale : Nat
  fenced : Bool
  cancelled : List W32
  parks : List (W32 × Nat)
  parkTo : Tbl W32
  latched : List (Nat × Nat × Bool)
deriving DecidableEq, Repr

/-- A cluster-cache line (R222, R224): data, dirty bytes, whether its clean bytes were filled and when, last use. -/
structure Line where
  line : Vec
  dirty : BitVec 64
  filled : Option Nat
  used : Nat
deriving DecidableEq, Repr

/-- A barrier's open generation (R268, R65): launch, COUNT, arrived tasks, lowest issue class of the arrived, and the arrivals
withdrawn, each with its cycle (R269). -/
structure Bar where
  launch : W32
  count : Nat
  arrived : List Nat
  cls : Nat
  lost : List (Nat × Nat)
deriving DecidableEq, Repr

/-- The stages of a lookup (R166). -/
inductive PkStage
  | waiting | scoring | gather
deriving DecidableEq, Repr

/-- A lookup of the PKLU (R162 to R180): as handed over, with the places of its request block and descriptor and the cycle it
reached the unit; the places its rank entries, query and output were translated to (R166), piece by piece (offset, bytes, place);
its descriptor words, the ranks (row index and weight), those not yet issued, those issued again uncharged and those that wait for
a walk of the page of an address, those neither added nor declared missing in rank order, the missing ones with their cause codes
(R165), the output so far, the lap tag and laps served, and the lines another package answered for its key tables. -/
structure Lookup where
  id : Nat
  member : Nat
  req : W64
  desc : W64
  reqAt : Place
  descAt : Place
  arrived : Nat
  rankPl : List (Nat × Nat × Place)
  queryPl : List (Nat × Nat × Place)
  outPl : List (Nat × Nat × Place)
  tag : BitVec 16
  sid : Nat
  tid : Nat
  rnrlim : Nat
  launch : W32
  job : W32
  fn : BitVec 7
  stage : PkStage
  admitted : Nat
  words : List W64
  query : W64
  output : W64
  ranks : List (W32 × W32)
  todo : List Nat
  again : List Nat
  walking : List (Nat × Nat)
  left : List Nat
  missing : List (Nat × Nat)
  out : List W32
  lapTag : Nat
  laps : List Nat
  mix : Bool
  deficit : Nat
  lines : List (Nat × Nat)
  need : Nat
  fault : Option Nat
deriving DecidableEq, Repr

/-- A row fetch of the PKLU (R169, R170): the physical row (place, address where another party holds it, bytes), its segments
(address, bytes, offset in `data`), the places of the pieces that lie here (offset, bytes, place), lap tag, job, the
lookups and ranks merged into it, the bytes so far, answers outstanding, the cause that makes it missing (R165), stamps of
its issue and last use, and the laps it was served in. -/
structure PkFetch where
  id : Nat
  va : W64
  len : Nat
  key : List (Place × Nat × Nat)
  segs : List (Nat × Nat × Nat)
  places : List (Nat × Nat × Place)
  tag : Nat
  job : W32
  users : List (Nat × Nat)
  arrived : Bool
  data : Nat
  need : Nat
  cause : Option Nat
  issued : Nat
  used : Nat
  laps : List Nat
deriving DecidableEq, Repr

/-- The lookup unit of a cluster: the next identity, lookups in admission order, fetches with the row-merge cache, the
round-robin list, and whether its head has had its quantum in this visit (R169). -/
structure Pklu where
  next : Nat
  look : List Lookup
  fetch : List PkFetch
  rr : List Nat
  visited : Bool
deriving DecidableEq, Repr

/-- A core that a walk serves (R227, R230): its number in the cluster, the identity of its command, its words 3 and 4, and the
issuing task. -/
structure EngPart where
  core : Nat
  id : Nat
  w3 : W64
  w4 : W64
  sid : Nat
  tid : Nat
  launch : W32
deriving DecidableEq, Repr

/-- A tile that an engine fetches, ahead of its turn or in it, or stores out (R231): its lines by address ÷ 64, the answers of
other parties outstanding, and the fault met (R165). -/
structure EngTile where
  lines : Tbl Nat
  need : Nat
  fault : Option Nat
deriving DecidableEq, Repr

/-- An engine command (R227, R228), `kind` 0 TWALK, 1 TWB, 2 TDEAL, 3 PERMIT: identity, words, issuer; whether the engine has
taken and begun it, the next tile, the parts served and the cores of those that ended; the page it waits for, the tiles fetched,
that its next tile is under way, the cores that leave after it (R48), and the fault that ends it (R165, R311). -/
structure EngCmd where
  id : Nat
  kind : Nat
  w1 : W64
  w2 : W64
  w3 : W64
  w4 : W64
  sid : Nat
  tid : Nat
  cls : Nat
  rnrlim : Nat
  launch : W32
  job : W32
  fn : BitVec 7
  arrived : Nat
  accepted : Bool
  begun : Bool
  next : Nat
  parts : List EngPart
  ended : List Nat
  page : Option Nat
  tiles : Tbl EngTile
  busy : Bool
  leaving : List Nat
  fault : Option Nat
deriving DecidableEq, Repr

/-- A buffer of a core at an engine (R228, R229). -/
structure EngBuf where
  base : Nat
  nslot : Nat
  slot : Nat
  credits : Nat
  ptr : Nat
  fill : Nat
deriving DecidableEq, Repr

structure Engine where
  next : Nat
  cmds : List EngCmd
  bufs : Tbl EngBuf
deriving DecidableEq, Repr

/-- A cluster: its cache, barriers, lookup unit and engines, and the table entries its TSC keeps (R308, log 6). -/
structure Cluster where
  lines : Tbl Line
  bars : RegFile 5 (Option Bar)
  pklu : Pklu
  eng : RegFile 1 Engine
  tableCache : List TlbEntry
deriving DecidableEq, Repr

/-- A gang of a troupe (R381 to R383): seats (position, task), formed, ring step, ring running. -/
structure Gang where
  seats : List (Nat × Nat)
  formed : Bool
  step : Nat
  running : Bool
deriving DecidableEq, Repr

/-- A die: destination TLB and destination TSC (R312), packets that arrived, images held for order (R342), expected SEQ
by stream, and the requests of packages (job, source number, address) whose next try is answered NAK, because the page was refused
(R311, R399), or UNSUPPORTED, because its walk found no LOCAL leaf (R312). Of a held image the core its address was translated to is
kept (R316). -/
structure Die where
  tlb : List TlbEntry
  destTsc : Nat
  arrived : List (List W64)
  reorder : List (Nat × List W64)
  expect : List (List Nat × Nat)
  deny : List (W32 × Nat × Nat)
  unsup : List (W32 × Nat × Nat)
deriving DecidableEq, Repr

/-- An image on its way to a core of the package (R34, R335). `agent` says that a hardware agent sent it. -/
structure Msg where
  dest : Nat
  img : Image
  agent : Bool
  ans : Option (List W64)
deriving DecidableEq, Repr

/-- A completion on its way to a slot (R133). -/
structure Compl where
  sid : Nat
  tid : Nat
  tag : BitVec 16
  status : W64
deriving DecidableEq, Repr

/-- What the answer of a remote request does at the source (R344). -/
inductive Cont
  | load (d : BitVec 5) (size : Nat) (sgn : Bool)
  | waitm (d : BitVec 5) (expect : W64)
  | store
  | atomic (d : BitVec 5) (size : Nat)
  | lanes (isLoad : Bool) (d : BitVec 5) (w : Nat) (which : List (Nat × Nat))
  | block
  | msg (ends : Bool)
  | row (cl fetch off : Nat)
  | tile (cl e cmd n : Nat)
  | stream (z : BitVec 3)
  | whirl (ord : Nat)
  | keys (cl look : Nat)
deriving DecidableEq, Repr

/-- The state of a remote request at the source: waiting for the gateway, sent, or waiting to be resent (R313). -/
inductive ReqSt
  | queued | sent | backoff
deriving DecidableEq, Repr

/-- A remote request (R114, R313 to R316, R337). `rid` is its identity here, `net` the RID it was last sent with (R339); `num`
is the built-in handler number; 0 a MSG; `tag` bits 31:0 of image word 6 (R29). `host` says that the target is host memory
behind the own link. `since` is the GTS at which it was issued, or in a back-off the GTS at which it is sent again. -/
structure Req where
  rid : Nat
  net : Nat
  sid : Nat
  tid : Nat
  num : Nat
  host : Option Nat
  pkg : Nat
  va : W64
  mask : W64
  ops : List W64
  img : Option Image
  target : W64
  launch : W32
  job : W32
  fn : BitVec 7
  limit : Nat
  rnr : Nat
  moved : Nat
  st : ReqSt
  since : Nat
  acq : Bool
  seq : Option Nat
  tag : W32
  cont : Cont
deriving DecidableEq, Repr

/-- A saved, parked or trapped task (R326 to R331): header state (1 SLICE, 2 PARKED, 3 PAGE, 4 TRAPPED, 5 REMOTE), core,
slot last run in, the slot's registers, its pending trap, whether its condition holds, since when it is parked, and its
gang seat. `old` is its state before the slice end saved it. -/
structure Saved where
  st : Nat
  core : Nat
  num : Nat
  slot : Slot
  trap : Option (Cause × W64)
  ready : Bool
  since : Nat
  old : Nat
deriving DecidableEq, Repr

/-- A launch whose home is this package (R44 to R46). `root` holds the ring of a host-submitted root, `graph` the graph
and index of a graph's launch. -/
structure Launch where
  job : W32
  work : Nat
  counter : W64
  cancelled : Bool
  root : Option Nat
  graph : Option (W32 × Nat)
deriving DecidableEq, Repr

/-- A walk in progress (R303, R313, R395): TSC's cluster, page, address space, access, target selector and source of the miss
image, and who waits: selector, slot and task; for a unit or stream of the core a number from 2^16 up; or 63 with the source number
and address of a remote request. -/
structure Walk where
  tsc : Nat
  vpn : Nat
  job : W32
  fn : BitVec 7
  acc : Nat
  sel : Nat
  src : W32
  waiters : List (Nat × Nat × Nat)
deriving DecidableEq, Repr

/-- Work joined to a page request, with the page it missed on (R310, R311): a discarded task's image, a saved task, or a
request of another package at a die, by source number and address. -/
inductive Joined
  | image (core : Nat) (img : Image) (vpn : Nat)
  | task (tid vpn : Nat)
  | remote (die src va : Nat)
deriving DecidableEq, Repr

/-- A page request (R309 to R311, R399): its number, the page and its size, the walk's miss image, the work joined, and
whether its response came and the page is being walked again. -/
structure PageReq where
  fn : BitVec 7
  prid : Nat
  vpn : Nat
  size : Nat
  job : W32
  tsc : Nat
  acc : Nat
  sel : Nat
  src : W32
  joined : List Joined
  answered : Bool
deriving DecidableEq, Repr

/-- A whirligig request (R240 to R243). `ord` orders the requests of the package by issue, `src` is its source number and `rel`
the tag beside it in image word 6 (R29), `st` 0 on its way to the holder, 1 admitted, 2 its LATE or FULL answer at the agent, 3
its final answer on its way. `fetch` is the PKLU fetch it serves; `rid` the RID of a request of another package (R343). -/
structure WReq where
  ord : Nat
  num : Nat
  va : W64
  tag : Nat
  seq : Nat
  src : W32
  rel : W32
  launch : W32
  job : W32
  fn : BitVec 7
  limit : Nat
  sid : Nat
  tid : Nat
  line : Vec
  retags : Nat
  st : Nat
  lap : Nat
  status : Nat
  holder : Nat
  fetch : Option (Nat × Nat)
  rid : Nat
deriving DecidableEq, Repr

/-- What a holder slice keeps for a region (R239): the last boundary passed, the sweep under way and its cursor. -/
structure SliceSt where
  closed : Nat
  sweep : Nat
  cursor : Nat
  sweeping : Bool
deriving DecidableEq, Repr

/-- A region (R234, R250). `bad` are the blocks of retired pages for which no spare was left (R247). -/
structure Region where
  base : Nat
  sizeg : Nat
  first : Nat
  npkg : Nat
  sb : Nat
  sc : Nat
  origin : Nat
  period : Nat
  dist : Nat
  bf16 : Bool
  job : W32
  zap : Option Nat
  slices : Tbl SliceSt
  bad : List Nat
deriving DecidableEq, Repr

/-- A slot of a work queue (R56, R57). -/
inductive WqSlot
  | reserved (seq since : Nat)
  | filled (seq : Nat) (words : List W64) (graph : Option (W32 × Nat))
  | admitted (img : Image)
deriving DecidableEq, Repr

structure WorkQueue where
  cfg : W64
  seq : Nat
  slots : Tbl WqSlot
deriving DecidableEq, Repr

/-- A host ring (R410, R413), with the entries the device holds for it in order. -/
structure Ring where
  base : W64
  cfg : W64
  tail : Nat
  head : Nat
  held : List (List W64)
deriving DecidableEq, Repr

/-- The page-request ring of a function and its next request number (R408, R310). -/
structure FnSt where
  prbase : W64
  prcfg : W64
  prhead : W64
  prtail : Nat
  prid : Nat
deriving DecidableEq, Repr

/-- A launch of a graph: image words, PRED, and 0 waiting, 1 submitted, 2 complete, 3 cancelled, with its launch. -/
structure GLaunch where
  words : List W64
  pred : W64
  st : Nat
  launch : W32
deriving DecidableEq, Repr

structure Graph where
  id : W32
  phase : W32
  job : W32
  ring : Nat
  queue : Nat
  launches : List GLaunch
deriving DecidableEq, Repr

/-- An announced phase (R415): the graphs left, LAST, and whether work of it was cancelled. -/
structure Phase where
  id : W32
  job : W32
  ring : Nat
  left : Nat
  last : Bool
  cancelled : Bool
deriving DecidableEq, Repr

/-- Host attachment (R405 to R415, R425): `jobsCancelled` are the jobs with cancelled work whose last phase has not ended,
`replies` what the host has read, `msix` the function and vector of each interrupt. -/
structure HostSt where
  queues : Tbl WorkQueue
  rings : Tbl Ring
  fns : Tbl FnSt
  graphs : List Graph
  phases : List Phase
  jobsCancelled : List W32
  attstat : Nat
  attBuf : W64
  attNonce : List W64
  replies : List W64
  msix : List (Nat × Nat)
deriving DecidableEq, Repr

/-- A key slot of a port (R350, R354). -/
structure KeySlot where
  ready : Bool
  key : BitVec 256
  txsalt : W32
  rxsalt : W32
  lim : W64
  txcnt : W64
  rxcnt : W64
deriving DecidableEq, Repr

/-- A flit kept for replay (R345, R346): header, the counter it took, its 232 bytes as 29 words. -/
structure Flit where
  hdr : W64
  ctr : W64
  payload : List W64
deriving DecidableEq, Repr

/-- A port's state (R347). -/
inductive PortSt
  | down | training | nokey | up | disabled
deriving DecidableEq, Repr

/-- A Tchirrix port (R345 to R357, R386, R387). `queue` holds the DATA flits not yet sent (SOP, EOP, 29 words), `sent` the
packets with a flit not yet acknowledged, `asm` the words of the packet that arrives, `autoAt` the cycle of the last marker sent
at a limit (R353), `bad` the lanes retired (R422). -/
structure Port where
  st : PortSt
  lanes : Nat
  partner : BitVec 10
  slotA : KeySlot
  slotB : KeySlot
  txB : Bool
  rxB : Bool
  swpend : Bool
  limstall : Bool
  replays : W32
  authfail : BitVec 16
  downs : BitVec 8
  werr : Bool
  fseq : BitVec 12
  replay : List Flit
  rxseq : BitVec 12
  naks : Bool
  attempts : Nat
  rxTries : Nat
  lastNew : Nat
  replayAt : Option Nat
  entered : Nat
  queue : List (Bool × Bool × List W64)
  asm : List W64
  sent : List (List W64)
  autoAt : Option Nat
  bad : BitVec 8
deriving DecidableEq, Repr

/-- A packet waiting at the gateway for a port (R339, R340). -/
structure OutPkt where
  pkt : List W64
  die : Nat
  since : Nat
  port : Option Nat
deriving DecidableEq, Repr

/-- A request another package asked for, with the stored answer once performed (R343). -/
structure Done where
  pkg : Nat
  rid : Nat
  ans : Option (List W64)
  since : Nat
deriving DecidableEq, Repr

/-- A forwarding record (R314): a placement range of a job that has migrated to another package. -/
structure Forward where
  job : W32
  size : Nat
  base : Nat
  pkg : Nat
deriving DecidableEq, Repr

/-- Gateways, ports and links (R334 to R358). `lastPort` is by destination package and die, 1,024 × die + package (R339). -/
structure Fabric where
  ports : Tbl Port
  nextRid : Nat
  lastPort : Tbl Nat
  nextSeq : List (List Nat × Nat)
  out : List OutPkt
  agent : List (List W64)
  performed : List Done
  forwards : List Forward
  d2dFailed : BitVec 6
deriving DecidableEq, Repr

/-- A job's saved queue state (R70, R71): mailboxes, deques and queues by core, discarded images by core, barriers and
engines by cluster, gangs by troupe, and by core the urgent heads that hold UMASK off (R64). -/
structure JobSave where
  job : W32
  mail : Tbl (RegFile 2 (List QEntry))
  deques : Tbl (List QEntry)
  queues : Tbl (RegFile 2 (List W64))
  dropped : List (Nat × Image)
  bars : Tbl (RegFile 5 (Option Bar))
  engs : Tbl (RegFile 1 Engine)
  gangs : Tbl Gang
  heads : Tbl (Tbl Nat)
deriving DecidableEq, Repr

/-- The running slice (R69, R72, R396): job, job record, entry index, start and end, the cycle it began, and the cycle in which
a DONE or HOP last ended a task of the job. -/
structure Slice where
  job : W32
  record : List W64
  index : Nat
  start : Nat
  stop : Nat
  cyc : Nat
  ended : Option Nat
deriving DecidableEq, Repr

/-- Slice scheduling (R394, R419, R420). -/
structure Sched where
  slicetab : W64
  pending : Option W64
  slice : Option Slice
  last : Nat
  lastStop : Nat
  saves : List JobSave
  records : Tbl (List W64)
deriving DecidableEq, Repr

/-- Time, health and bring-up (R416, R417, R421 to R426): `corr` are the correctable errors by unit and time, `todo` the units
to be tested, `eolHour` the hour of the last end-of-life update, `offset` the estimated offset of the GTS, `syncSent` the sync
messages sent: port and GTS, `smbus` what the management interface answered, `peers` the check of R235 that fails on another
holder package of the region asked for next (0: none), `firmware` what a report says of the running firmware (R424, R425). -/
structure Health where
  step : Nat
  errCode : Nat
  eolhrs : W32
  eolHour : Nat
  eolBelow : Bool
  inSync : Bool
  offset : Int
  lastSync : Nat
  grandmaster : BitVec 10
  locked : List (BitVec 10)
  pwrlim : BitVec 12
  linksel : BitVec 5
  hlthst : W64
  corr : List (W64 × Nat)
  spares : Tbl Nat
  hbmSpares : Nat
  whirlSpares : Tbl Nat
  todo : List W64
  entered : Nat
  syncSent : List (Nat × Nat)
  smbus : List (Nat × Nat)
  peers : Nat
  firmware : List W64
deriving DecidableEq, Repr

/-- What reaches the package from outside it, or happens inside it, and has no row of its own in the opcode table (log 81). -/
inductive Input
  /-- the home of a launch is told of an image that came to exist, or ceased to, on another package (R45) -/
  | count (launch : W32) (up : Bool)
  /-- a CNTADD that another package executed reaches the home of its launch (R46) -/
  | cntadd (launch : W32) (x : W64)
  /-- a CANCEL that another package executed, for a task of a job or (none) by a service core, reaches this one (R47) -/
  | cancel (name : W64) (job : Option W32)
  /-- the host reads an offset of a function's control page (R408) -/
  | pageRead (fn off : Nat)
  /-- the host reads WQCFG of a queue (R409), or a word of HRCFG of a ring (R410) -/
  | wqRead (queue : Nat)
  | ringRead (ring word : Nat)
  /-- a 64-byte block of HBM or of a scratchpad, by address ÷ 64, is found uncorrectable (R324, R374) -/
  | poison (line : Nat)
  /-- the check of R235 that fails on another holder of the region asked for next -/
  | peerCheck (code : Nat)
  /-- a range of a job has migrated to another package, or its record ends (R314) -/
  | forward (f : Forward) (on : Bool)
  /-- the walk of a page of a job for remote requests finds a placement or a HOST leaf (R312) -/
  | foreignLeaf (die : Nat) (job : W32) (vpn : Nat)
  /-- an engine fetches tile `n` of a command ahead (R231) -/
  | fetchAhead (cl e id n : Nat)
  /-- the lookup unit writes the sum of a lookup so far (R138) -/
  | partialSum (cl id : Nat)
  /-- a steward sends a sync message on a port (R416) -/
  | syncSent (port : Nat)
  /-- the links between the dies are initialised, `failed` of them not (R426 step 4) -/
  | diesUp (failed : BitVec 6)
  /-- the host link is trained (R426 step 5) -/
  | hostUp
deriving DecidableEq, Repr

/-- One turn of the agenda (log 1): an issue by the slot `cur`, an event, an input, or the passing of cycles and ticks. -/
inductive Turn
  | issue
  | event (i : Instr)
  | input (x : Input)
  | pass (cc ticks : Nat)
deriving DecidableEq, Repr

/-- The package. The model's own fields (log 1): the agenda; `tick`, the steps taken; `idle`, those that only tried or chose;
`free`, the free values drawn; `nextTid`, `nextReq`, the identities given. `outside` lists the packages outside the load-store
domain of a job, as system software has configured them (log 11). `gone` are the entries that TLBW writes have replaced and no
TLBI has reached (R317). -/
structure State where
  agenda : List Turn
  cur : Nat
  ir : W32
  ir2 : W32
  tick : Nat
  idle : Nat
  free : Nat
  nextTid : Nat
  cyc : Nat
  gts : Vector Nat 4
  pkg : BitVec 10
  outside : List (Nat × Nat)
  mem : List Host.Cell
  poison : List Nat
  hostHeld : List Nat
  tables : List TlbEntry
  gone : List TlbEntry
  slots : Tbl Slot
  cores : Tbl CoreSt
  clusters : Tbl Cluster
  gangs : Tbl Gang
  dies : Tbl Die
  flight : List Msg
  held : List Msg
  compls : List Compl
  reqs : List Req
  nextReq : Nat
  saved : Tbl Saved
  launches : Tbl Launch
  nextLaunch : Nat
  walks : List Walk
  pageReqs : List PageReq
  relSeq : Tbl Nat
  issueSeq : Tbl Nat
  regions : List Region
  wreqs : List WReq
  host : HostSt
  fabric : Fabric
  sched : Sched
  health : Health
deriving DecidableEq, Repr

/-! ### Reset -/

def Stream.none : Stream := ⟨Option.none, 0, 0, 0, Option.none, false, []⟩

def Dirty.all : Dirty := ⟨BitVec.allOnes 32, BitVec.allOnes 32, BitVec.allOnes 8, BitVec.allOnes 8, BitVec.allOnes 8, BitVec.allOnes 8⟩

def SysRegs.zero : SysRegs := ⟨0, 0, 0, 0, 0, 0, 0, 0⟩

/-- A slot to which no task is bound (log 2; e registers and masks as at handler start, R37). -/
def Slot.reset : Slot where
  task := none
  x := Vector.replicate 32 0
  v := Vector.replicate 32 0
  p := Vector.replicate 8 0
  e := Vector.replicate 8 0x3F800000
  z := Vector.replicate 8 Stream.none
  pc := 0
  fsr := 0
  fen := 0
  prio := 0
  rnrlim := 8
  cmtd := false
  laneDone := 0
  lanePc := 0
  compl := []
  failCause := 0
  failAddr := 0
  starting := none
  wait := none
  pend := none
  forced := none
  frame := 0
  ext := 0
  yielding := none
  run := 0
  dirty := Dirty.all
  sys := SysRegs.zero
  blk := none
  deny := []
  latchErr := none
  drain := []
  word := 0
  owed := 0
  tried := 0

/-- R75: queues empty, accumulators zero and unclaimed, command queue empty; the rest as log 2 says. -/
def CoreSt.reset : CoreSt where
  mail := Vector.replicate 4 []
  deque := []
  q := Vector.replicate 4 []
  qWait := Vector.replicate 4 []
  acc := Vector.replicate 8 0
  claim := Vector.replicate 8 none
  freeing := 0
  cmds := []
  latchA := none
  latchB := none
  latchBhi := none
  ownA := none
  ownB := none
  ownBhi := none
  tlb := []
  opener := none
  retired := 0
  heldHeads := []
  opened := none
  closedAt := none
  lastIssued := 3
  prevIssued := none
  steal := ⟨0, none, none, none⟩
  stale := 0
  fenced := false
  cancelled := []
  parks := []
  parkTo := []
  latched := []

def Cluster.reset : Cluster := ⟨[], Vector.replicate 32 none, ⟨1, [], [], [], false⟩, Vector.replicate 2 ⟨1, [], []⟩, []⟩

def Gang.reset : Gang := ⟨[], false, 0, false⟩

/-- R312: the destination TSC is the TSC of cluster 0. -/
def Die.reset : Die := ⟨[], 0, [], [], [], [], []⟩

def KeySlot.empty : KeySlot := ⟨false, 0, 0, 0, BitVec.allOnes 64, 0, 0⟩

/-- R347, R354 to R357. -/
def Port.reset : Port where
  st := .down
  lanes := 0
  partner := 0
  slotA := KeySlot.empty
  slotB := KeySlot.empty
  txB := false
  rxB := false
  swpend := false
  limstall := false
  replays := 0
  authfail := 0
  downs := 0
  werr := false
  fseq := 0
  replay := []
  rxseq := 0
  naks := false
  attempts := 0
  rxTries := 0
  lastNew := 0
  replayAt := none
  entered := 0
  queue := []
  asm := []
  sent := []
  autoAt := none
  bad := 0

def WorkQueue.reset : WorkQueue := ⟨0, 0, []⟩
def Ring.reset : Ring := ⟨0, 0, 0, 0, []⟩
def FnSt.reset : FnSt := ⟨0, 0, 0, 0, 0⟩

/-- The package right after reset. -/
def State.reset : State where
  agenda := []
  cur := 0
  ir := 0
  ir2 := 0
  tick := 0
  idle := 0
  free := 0
  nextTid := 1
  cyc := 0
  gts := Vector.replicate 4 0
  pkg := 0
  outside := []
  mem := []
  poison := []
  hostHeld := []
  tables := []
  gone := []
  slots := []
  cores := []
  clusters := []
  gangs := []
  dies := []
  flight := []
  held := []
  compls := []
  reqs := []
  nextReq := 0
  saved := []
  launches := []
  nextLaunch := 1
  walks := []
  pageReqs := []
  relSeq := []
  issueSeq := []
  regions := []
  wreqs := []
  host := ⟨[], [], [], [], [], [], 0, 0, [], [], []⟩
  fabric := ⟨[], 0, [], [], [], [], [], [], 0⟩
  sched := ⟨0, none, none, 0, 0, [], []⟩
  health := ⟨1, 0, 0xFFFFFFFF, 0, false, false, 0, 0, 0, [], 2000, 0, 0, [], [], 0, [], [], 0, [], [], 0, []⟩

end Sys2Proof.Machine
end

