-- ==== Sys2Proof/Machine/Table.lean ====
section
/-! DEFINITION. Tables with a default, lists by position, and the one memory in its canonical form (R8, R219, R225):
address and byte pairs, addresses strictly rising, no byte equal to what an unlisted address reads as. -/

namespace Sys2Proof.Machine

/-- The entry of key `k`, or the default. -/
def tget {α : Type} (d : α) : Tbl α → Nat → α
  | [], _ => d
  | (j, v) :: r, k => if j = k then v else tget d r k

/-- The table with the entry of key `k` replaced or put in its place. -/
def tset {α : Type} : Tbl α → Nat → α → Tbl α
  | [], k, v => [(k, v)]
  | (j, u) :: r, k, v => if k < j then (k, v) :: (j, u) :: r else if j = k then (k, v) :: r else (j, u) :: tset r k v

def tdel {α : Type} (t : Tbl α) (k : Nat) : Tbl α := t.filter (fun e => e.1 != k)

def thas {α : Type} (t : Tbl α) (k : Nat) : Bool := t.any (fun e => e.1 == k)

def tfind {α : Type} (t : Tbl α) (k : Nat) : Option α := (t.find? (fun e => e.1 == k)).map (·.2)

/-- The list with element `i` replaced by `f` of it. -/
def modAt {α : Type} (f : α → α) : List α → Nat → List α
  | [], _ => []
  | a :: r, 0 => f a :: r
  | a :: r, n + 1 => a :: modAt f r n

def delAt {α : Type} : List α → Nat → List α
  | [], _ => []
  | _ :: r, 0 => r
  | a :: r, n + 1 => a :: delAt r n

/-- The element at place `i`. -/
def nth {α : Type} : List α → Nat → Option α
  | [], _ => none
  | a :: _, 0 => some a
  | _ :: r, n + 1 => nth r n

/-- What an address that memory does not list reads as: zero (assumption log 3). -/
def unlisted : Byte := 0

def memGet : List Host.Cell → Nat → Byte
  | [], _ => unlisted
  | (a, b) :: r, k => if a = k then b else if k < a then unlisted else memGet r k

/-- Memory with the byte at `k` removed from the listing. -/
def memDrop : List Host.Cell → Nat → List Host.Cell
  | [], _ => []
  | (a, b) :: r, k => if a = k then r else if k < a then (a, b) :: r else (a, b) :: memDrop r k

def memPut : List Host.Cell → Nat → Byte → List Host.Cell
  | [], k, v => [(k, v)]
  | (a, b) :: r, k, v =>
    if k < a then (k, v) :: (a, b) :: r else if a = k then (k, v) :: r else (a, b) :: memPut r k v

/-- Write of one byte: writing what an unlisted address reads as removes the entry. -/
def memSet (m : List Host.Cell) (k : Nat) (v : Byte) : List Host.Cell :=
  if v = unlisted then memDrop m k else memPut m k v

/-- Addresses above `lo` strictly rising and no entry equal to an unlisted one. -/
def wfFrom : Nat → List Host.Cell → Bool
  | _, [] => true
  | lo, (a, b) :: r => decide (lo ≤ a) && b != unlisted && wfFrom (a + 1) r

/-- The canonical form of memory. -/
def Memory.wf (m : List Host.Cell) : Bool := wfFrom 0 m

/-- The little-endian number of `n` bytes from address `a` up (R8). -/
def memRead (m : List Host.Cell) (a : Nat) : Nat → Nat
  | 0 => 0
  | n + 1 => (memGet m a).toNat + 256 * memRead m (a + 1) n

/-- Writes those of the `n` bytes of `x` whose mask bit is set. -/
def memWrite (m : List Host.Cell) (a : Nat) : Nat → Nat → Nat → List Host.Cell
  | 0, _, _ => m
  | n + 1, mask, x =>
    memWrite (if mask % 2 = 1 then memSet m a (BitVec.ofNat 8 x) else m) (a + 1) n (mask / 2) (x / 256)

/-- A mask of `n` set bits. -/
def ones (n : Nat) : Nat := 2 ^ n - 1

/-! Where each kind of memory stands in the one listing: HBM at its physical address (R225), the scratchpad of core c at
2^56 + c × 2^19 (R219), host memory at 2^64 + address (R405), whirligig rows at 2^66 + virtual address (R236). -/

def scratchBase (core : Nat) : Nat := 2 ^ 56 + core * 2 ^ 19
def hostBase : Nat := 2 ^ 64
def whirlBase : Nat := 2 ^ 66

/-- R225: the slice of a physical address. -/
def sliceOf (pa : Nat) : Nat :=
  (if parity pa [6, 13, 16, 22, 28, 34] then 1 else 0) + (if parity pa [8, 15, 17, 23, 29, 35] then 2 else 0)
  + (if parity pa [7, 12, 15, 18, 24, 30, 36] then 4 else 0)
  + (if parity pa [10, 12, 13, 14, 19, 25, 31, 37] then 8 else 0)
  + (if parity pa [11, 12, 20, 26, 32, 38] then 16 else 0) + (if parity pa [9, 14, 21, 27, 33] then 32 else 0)

/-- R316: the home core of a physical address, as core number within the package. -/
def homeOf (pa : Nat) : Nat := sliceOf pa / 16 * 2048 + pa / 2 ^ 16 % 24 * 64 + pa / 2 ^ 6 % 32

end Sys2Proof.Machine
end

