-- ==== Sys2Proof/Machine/Regs.lean ====
section
/-! DEFINITION. Who is who (R5, R6), the accessors of slots, cores and clusters, and the registers of the slot that
issues: hard-wired x0 and p7 (R73), dirty bits (R329), the guard (R83), special registers (R77). -/

namespace Sys2Proof.Machine

/-! Slot number `sid`: bits 15:0 of a source number (R5). Core number: sid / 8. Cluster number: sid / 512, which is
die × 32 + cluster. -/

def sidCore (sid : Nat) : Nat := sid / 8
def sidNum (sid : Nat) : Nat := sid % 8
def coreNum (core : Nat) : Nat := core % 64
def coreCluster (core : Nat) : Nat := core / 64
def clusterDie (cl : Nat) : Nat := cl / 32
def coreDie (core : Nat) : Nat := core / 2048
def coreTroupe (core : Nat) : Nat := core / 8
def isWorkerCore (core : Nat) : Bool := decide (coreNum core < 32)
def isTsc (core : Nat) : Bool := coreNum core == 32
def isEsc (core : Nat) : Bool := coreNum core == 33
def isSteward (core : Nat) : Bool := decide (34 ≤ coreNum core)

/-- R6, within one package: a core that exists. -/
def coreExists (core : Nat) : Bool :=
  decide (core / 64 % 32 < 24) && decide (core < 8192) &&
    (decide (coreNum core < 34) || (decide (coreNum core < 36) && core / 64 % 32 == 0))

/-- R6: a source number is well formed. -/
def wellFormedSrc (n : Nat) : Bool :=
  decide (n < 2 ^ 26) && decide (n / 2 ^ 16 < 576) && coreExists (n % 2 ^ 16 / 8) &&
    (if isWorkerCore (n % 2 ^ 16 / 8) then decide (n % 8 ≤ 4) else n % 8 == 0)

def State.slotAt (s : State) (sid : Nat) : Slot := tget Slot.reset s.slots sid
def State.setSlot (s : State) (sid : Nat) (t : Slot) : State := { s with slots := tset s.slots sid t }
def State.modSlot (s : State) (sid : Nat) (f : Slot → Slot) : State := s.setSlot sid (f (s.slotAt sid))
def State.coreAt (s : State) (c : Nat) : CoreSt := tget CoreSt.reset s.cores c
def State.modCore (s : State) (c : Nat) (f : CoreSt → CoreSt) : State :=
  { s with cores := tset s.cores c (f (s.coreAt c)) }
def State.clusterAt (s : State) (c : Nat) : Cluster := tget Cluster.reset s.clusters c
def State.modCluster (s : State) (c : Nat) (f : Cluster → Cluster) : State :=
  { s with clusters := tset s.clusters c (f (s.clusterAt c)) }
def State.gangAt (s : State) (t : Nat) : Gang := tget Gang.reset s.gangs t
def State.setGang (s : State) (t : Nat) (g : Gang) : State := { s with gangs := tset s.gangs t g }
def State.dieAt (s : State) (d : Nat) : Die := tget Die.reset s.dies d
def State.modDie (s : State) (d : Nat) (f : Die → Die) : State := { s with dies := tset s.dies d (f (s.dieAt d)) }

/-- The slot that issues. -/
def State.slot (s : State) : Slot := s.slotAt s.cur
def State.mod (s : State) (f : Slot → Slot) : State := s.modSlot s.cur f
def State.core (s : State) : Nat := sidCore s.cur
def State.clusterNo (s : State) : Nat := s.cur / 512
/-- The issuing slot is a worker slot (R392). -/
def State.worker (s : State) : Bool := isWorkerCore s.core

/-- R5: the source number of a slot of this package. -/
def State.srcNum (s : State) (sid : Nat) : W32 := BitVec.ofNat 32 (s.pkg.toNat * 2 ^ 16 + sid)

/-- The GTS copy a core reads (R416). -/
def State.gtsOf (s : State) (die : Nat) : Nat := s.gts.toList.getD (die % 4) 0
def State.gtsNow (s : State) : Nat := s.gtsOf (coreDie s.core)

/-- R69: the job holds the package. -/
def State.jobIn (s : State) (job : W32) : Bool := s.sched.slice.any (fun v => v.job == job)

/-- The package lies in the load-store domain of the job (R32, R315, log 11). -/
def State.inDomain (s : State) (job : W32) (pkg : Nat) : Bool :=
  pkg == s.pkg.toNat || (decide (pkg < 576) && !s.outside.contains (job.toNat, pkg))

/-- R32: the core number of a target word. -/
def targetCore (x : W64) : Nat := bitsAt x.toNat 3 13
/-- R32: the kind of a target word, bits 63:62. -/
def targetKind (x : W64) : Nat := x.toNat / 2 ^ 62

/-! ### Regions and the memory they hold back (R234, R236, R428) -/

/-- R234: the address lies in the region. -/
def Region.has (r : Region) (va : W64) : Bool :=
  decide (r.base ≤ va.toNat) && decide (va.toNat < r.base + r.sizeg * 2 ^ 30)

/-- R234: bytes of a holder package's share and of a slice's part. -/
def Region.share (r : Region) : Nat := r.sizeg * 2 ^ 30 / r.npkg
def Region.part (r : Region) : Nat := r.share / r.sc
/-- R236: rows per slice pair. -/
def Region.rowsPerPair (r : Region) : Nat := r.share / (512 * r.sc / 2)

/-- R236: the address of the row at position `pos` of slice `sl` on package `pkg`. -/
def Region.rowAt (r : Region) (pkg sl pos : Nat) : Nat :=
  let n := (sl + 64 - r.sb) % 64 / 2 * r.rowsPerPair + 2 * pos + sl % 2
  r.base + (pkg - r.first) * r.share + 512 * n

/-- This package holds a share. -/
def State.isHolder (s : State) (r : Region) : Bool := decide (r.first ≤ s.pkg.toNat) && decide (s.pkg.toNat < r.first + r.npkg)

/-- The slices of a holder package that hold a part. -/
def Region.sliceList (r : Region) : List Nat := (List.range r.sc).map (fun i => (r.sb + i) % 64)

/-- The regions this package holds a part of on a slice (R235, R428). -/
def State.heldOn (s : State) (sl : Nat) : List Region := s.regions.filter (fun q => s.isHolder q && q.sliceList.contains sl)

/-- R428: the first local physical address that holds region rows and spares. -/
def State.heldFrom (s : State) : Nat :=
  let u := (List.range 64).foldl (fun m sl =>
    let l := s.heldOn sl
    max m (if l.isEmpty then 0 else l.foldl (fun n q => n + q.part) (2 ^ 21))) 0
  2 ^ 39 - 64 * ((u + 65535) / 65536 * 65536)

/-! ### Registers of the issuing slot -/

def setBit {n : Nat} (x : BitVec n) (i : Nat) : BitVec n := x ||| (1#n <<< i)
def clearBit {n : Nat} (x : BitVec n) (i : Nat) : BitVec n := x &&& ~~~(1#n <<< i)

/-- R73: x0 reads 0. -/
def Slot.getX (t : Slot) (r : BitVec 5) : W64 := if r = 0 then 0 else RegFile.read t.x r
/-- R73: writes to x0 are discarded; R329: the dirty bit of the register is set. -/
def Slot.putX (t : Slot) (r : BitVec 5) (v : W64) : Slot :=
  if r = 0 then t
  else { t with x := RegFile.write t.x r v, dirty := { t.dirty with x := setBit t.dirty.x r.toNat } }
/-- R73: p7 reads 0xFFFF. -/
def Slot.getP (t : Slot) (r : BitVec 3) : BitVec 16 := if r = 7 then 0xFFFF else RegFile.read t.p r
def Slot.putP (t : Slot) (r : BitVec 3) (v : BitVec 16) : Slot :=
  if r = 7 then t
  else { t with p := RegFile.write t.p r v, dirty := { t.dirty with p := setBit t.dirty.p r.toNat } }
def Slot.putV (t : Slot) (r : BitVec 5) (v : Vec) : Slot :=
  { t with v := RegFile.write t.v r v, dirty := { t.dirty with v := setBit t.dirty.v r.toNat } }
def Slot.putE (t : Slot) (r : BitVec 3) (v : W32) : Slot :=
  { t with e := RegFile.write t.e r v, dirty := { t.dirty with e := setBit t.dirty.e r.toNat } }
def Slot.putZ (t : Slot) (r : BitVec 3) (v : Stream) : Slot :=
  { t with z := RegFile.write t.z r v, dirty := { t.dirty with z := setBit t.dirty.z r.toNat } }

def State.x (s : State) (r : BitVec 5) : W64 := s.slot.getX r
def State.setX (s : State) (r : BitVec 5) (v : W64) : State := s.mod (fun t => t.putX r v)
def State.p (s : State) (r : BitVec 3) : BitVec 16 := s.slot.getP r
def State.setP (s : State) (r : BitVec 3) (v : BitVec 16) : State := s.mod (fun t => t.putP r v)
/-- The contents of a vector register; a bound register is read through its stream instead (R74, Operands). -/
def State.v (s : State) (r : BitVec 5) : Vec := RegFile.read s.slot.v r
def State.setV (s : State) (r : BitVec 5) (v : Vec) : State := s.mod (fun t => t.putV r v)
def State.e (s : State) (r : BitVec 3) : W32 := RegFile.read s.slot.e r
def State.setE (s : State) (r : BitVec 3) (v : W32) : State := s.mod (fun t => t.putE r v)
def State.pc (s : State) : W64 := s.slot.pc

/-- The bits FSR and FEN hold (R146, R147); every other bit reads zero. -/
def fsrMask : W32 := 0x33F
def fenMask : W32 := 0x3F

/-- R83: the guard value of a g field. -/
def State.guard (s : State) (g : BitVec 4) : BitVec 16 :=
  if g.getLsbD 3 then ~~~(s.p (g.setWidth 3)) else s.p (g.setWidth 3)

/-- R83: a scalar-guarded instruction executes. -/
def State.runs (s : State) (g : BitVec 4) : Bool := (s.guard g).getLsbD 0

/-- The launch identifier of an image (R28). -/
def Image.launch (i : Image) : W32 := i.w5.extractLsb' 32 32
def Image.cls (i : Image) : Nat := (i.w0.toNat / 64) % 4
def Image.idem (i : Image) : Bool := i.w0.getLsbD 5
def Image.urg (i : Image) : Bool := i.w0.getLsbD 4
def Image.ord (i : Image) : Bool := i.w0.getLsbD 3
/-- R28: the handler address; bits 7:0 zero. -/
def Image.handler (i : Image) : W64 := (i.w0 >>> 8) <<< 8
def Image.none : Image := ⟨0, 0, 0, 0, 0, 0, 0, 0, Option.none, [], 0, 127, false, [], Option.none⟩

def Slot.image (t : Slot) : Image := (t.task.map (·.img)).getD Image.none
def Slot.tid (t : Slot) : Nat := (t.task.map (·.tid)).getD 0
def Slot.launch (t : Slot) : W32 := t.image.launch
def Slot.job (t : Slot) : W32 := t.image.job

/-- The thread is ready (R62): bound, started, and waiting for nothing that an event must bring. -/
def Slot.ready (t : Slot) : Bool := t.task.isSome && t.starting.isNone && t.pend.isNone && t.yielding.isNone

/-- The slot holding a task, if it is bound. -/
def State.slotOfTid (s : State) (tid : Nat) : Option Nat :=
  if tid = 0 then none else (s.slots.find? (fun e => e.2.tid == tid)).map (·.1)

/-- R65: the class a task's launch is raised to in its cluster by barriers at which it has not arrived. -/
def State.raisedClass (s : State) (cl : Nat) (launch : W32) (tid : Nat) (base : Nat) : Nat :=
  (s.clusterAt cl).bars.toList.foldl (fun c b => match b with
    | some b => if b.launch = launch ∧ b.arrived ≠ [] ∧ ¬ tid ∈ b.arrived ∧ b.cls < c then b.cls else c
    | none => c) base

/-- R62: the issue class of a slot. -/
def State.issueClass (s : State) (sid : Nat) : Nat :=
  let t := s.slotAt sid
  s.raisedClass (sid / 512) t.launch t.tid t.prio.toNat

/-- The next free value (log 9). -/
def State.nextFree (s : State) : W32 × State := (Config.freeWord s.free, { s with free := s.free + 1 })

def State.nextFree64 (s : State) : W64 × State :=
  (Config.freeWord s.free ++ Config.freeWord (s.free + 1), { s with free := s.free + 2 })

/-- A number of 64 free bytes. -/
def State.nextFreeLine (s : State) : Nat × State :=
  (packDigits 32 (fun i => (Config.freeWord (s.free + i)).toNat) 16, { s with free := s.free + 16 })

/-- The sub-queue's head is urgent. -/
def urgentHead (c : CoreSt) (k : Nat) : Bool :=
  match RegFile.read c.mail (BitVec.ofNat 2 k) with
  | e :: _ => e.img.urg
  | [] => false

/-- R64: the urgent heads that wait, each at the place 0 of its sub-queue. -/
def urgentHeads (c : CoreSt) : Tbl Nat := ((List.range 4).filter (urgentHead c)).map (fun k => (k, 0))

/-- R64: the window closes in cycle `cyc`. Heads that wait urgently at the close must be bound before another window opens. -/
def closeWindow (cyc : Nat) (c : CoreSt) : CoreSt :=
  { c with opener := none, retired := 0, heldHeads := urgentHeads c, opened := none, closedAt := some cyc }

/-- R64: the window of the slot's core closes if the slot opened it. -/
def State.closeIfOpener (s : State) (sid : Nat) : State :=
  if (s.coreAt (sidCore sid)).opener = some sid then s.modCore (sidCore sid) (closeWindow s.cyc) else s

/-- R64: one retirement of the opening thread counts; the 64th closes the window. -/
def State.countRetired (s : State) (sid : Nat) : State :=
  let c := s.coreAt (sidCore sid)
  if c.opener = some sid then
    s.modCore (sidCore sid) (fun c => if 63 ≤ c.retired then closeWindow s.cyc c else { c with retired := c.retired + 1 })
  else s

/-- A slot's registers after it retires an instruction and goes on at `pc`; the wait it was in ends (R332). -/
def Slot.advance (t : Slot) (pc : W64) : Slot :=
  { t with pc := pc, wait := none, pend := none, deny := [], drain := [], dirty := { t.dirty with x := setBit t.dirty.x 0 } }

/-- The instruction of slot `sid` retires; the thread goes on at `pc`. -/
def State.retireAt (s : State) (sid : Nat) (pc : W64) : State :=
  (s.modSlot sid (fun t => t.advance pc)).countRetired sid

/-- The issuing slot retires an instruction of `len` bytes (R79). -/
def State.retire (s : State) (len : Nat) : State := s.retireAt s.cur (s.pc + BitVec.ofNat 64 len)

end Sys2Proof.Machine
end

