-- ==== Sys2Proof/Machine/Cache.lean ====
section
/-! DEFINITION. The cluster caches and memory slices (R222 to R225), releases and acquires on them (R224), and the reads
and writes of a place: a scratchpad, HBM through the cluster cache, a TSO page, the host's memory. -/

namespace Sys2Proof.Machine

/-- The bit mask of a byte mask. -/
def expandMask (m : BitVec 64) : Vec := BitVec.ofNat 512 (packDigits 8 (fun i => if m.getLsbD i then 255 else 0) 64)

/-- The line with the bytes of `new` where the mask is set. -/
def mergeBytes (old new : Vec) (m : BitVec 64) : Vec := (old &&& ~~~expandMask m) ||| (new &&& expandMask m)

def sliceLine (m : List Host.Cell) (l : Nat) : Vec := BitVec.ofNat 512 (memRead m (64 * l) 64)

/-- R224: the dirty bytes of line `l` go to its slice; the line is kept clean. -/
def State.writeBack (s : State) (cl l : Nat) : State :=
  match tfind (s.clusterAt cl).lines l with
  | none => s
  | some e =>
    if e.dirty = 0 then s
    else
      { s with mem := memWrite s.mem (64 * l) 64 e.dirty.toNat e.line.toNat }.modCluster cl
        (fun c => { c with lines := tset c.lines l { e with dirty := 0 } })

/-- Write back, then drop the line (R223 .uc, R224 atomics, CINV). -/
def State.dropLine (s : State) (cl l : Nat) : State :=
  (s.writeBack cl l).modCluster cl (fun c => { c with lines := tdel c.lines l })

/-- R406: the back-invalidate of a line that the host holds completes, for an access that the device then performs. -/
def State.backInvalidate (s : State) (l : Nat) : State := { s with hostHeld := s.hostHeld.filter (· != l) }

/-- R222: room for line `l` in its set of 16 ways; the least recently used line of a full set is written back, after its
back-invalidate (R406, log 37), and dropped. -/
def State.makeRoom (s : State) (cl l : Nat) : State :=
  let ways := (s.clusterAt cl).lines.filter (fun e => e.1 % 4096 == l % 4096)
  match ways with
  | [] => s
  | w :: ws =>
    if ways.length < 16 then s
    else
      let v := ws.foldl (fun b e => if e.2.used < b.2.used then e else b) w
      (if v.2.dirty = 0 then s else s.backInvalidate v.1).dropLine cl v.1

/-- R223, R224: a load of one line by a reader with stale mark `stale`, and the line as it reads. -/
def State.loadLine (s : State) (cl stale l : Nat) (hint : Nat) : Vec × State :=
  if hint = 2 then
    let s := s.dropLine cl l
    (sliceLine s.mem l, s)
  else match tfind (s.clusterAt cl).lines l with
    | some e =>
      let fresh := match e.filled with
        | some t => decide (stale ≤ t)
        | none => false
      let used := if hint = 0 then s.tick else e.used
      let e' := if fresh then { e with used := used }
        else { e with line := mergeBytes (sliceLine s.mem l) e.line e.dirty, filled := some s.tick, used := used }
      (e'.line, s.modCluster cl (fun c => { c with lines := tset c.lines l e' }))
    | none =>
      let s := s.makeRoom cl l
      let d := sliceLine s.mem l
      (d, s.modCluster cl (fun c =>
        { c with lines := tset c.lines l ⟨d, 0, some s.tick, if hint = 0 then s.tick else 0⟩ }))

/-- R223: a store of the masked bytes of one line; bytes that go straight to the slice are no longer dirty (R285). -/
def State.storeLine (s : State) (cl l : Nat) (hint : Nat) (mask : BitVec 64) (x : Vec) : State :=
  let slice := fun (s : State) => { s with mem := memWrite s.mem (64 * l) 64 mask.toNat x.toNat }
  if hint = 2 then slice (s.dropLine cl l)
  else match tfind (s.clusterAt cl).lines l with
    | some e =>
      let e' := { e with line := mergeBytes e.line x mask }
      if hint = 1 then (slice s).modCluster cl (fun c => { c with lines := tset c.lines l { e' with dirty := e.dirty &&& ~~~mask } })
      else s.modCluster cl (fun c =>
        { c with lines := tset c.lines l { e' with dirty := e.dirty ||| mask, used := s.tick } })
    | none =>
      if hint = 1 then slice s
      else
        let s := s.makeRoom cl l
        s.modCluster cl (fun c => { c with lines := tset c.lines l ⟨mergeBytes 0 x mask, mask, none, s.tick⟩ })

/-- `n` bytes of HBM through the cache, over at most `f` lines. -/
def State.hbmRead (cl stale hint : Nat) : Nat → State → Nat → Nat → Nat × State
  | 0, s, _, _ => (0, s)
  | f + 1, s, pa, n =>
    let o := pa % 64
    let k := min n (64 - o)
    let (d, s) := s.loadLine cl stale (pa / 64) hint
    let lo := bitsAt d.toNat (8 * o) (8 * k)
    if n ≤ k then (lo, s)
    else
      let (hi, s) := State.hbmRead cl stale hint f s (pa + k) (n - k)
      (lo + 2 ^ (8 * k) * hi, s)

def State.hbmWrite (cl hint : Nat) : Nat → State → Nat → Nat → Nat → Nat → State
  | 0, s, _, _, _, _ => s
  | f + 1, s, pa, n, mask, x =>
    let o := pa % 64
    let k := min n (64 - o)
    let m := mask % 2 ^ k
    let s := if m = 0 then s
      else s.storeLine cl (pa / 64) hint (BitVec.ofNat 64 (m * 2 ^ o)) (BitVec.ofNat 512 (x % 2 ^ (8 * k) * 2 ^ (8 * o)))
    if n ≤ k then s else State.hbmWrite cl hint f s (pa + k) (n - k) (mask / 2 ^ k) (x / 2 ^ (8 * k))

/-- The address in the one listing of a place that is not cached. -/
def Place.flat : Place → Nat
  | .scratch c o => scratchBase c + o
  | .hbm pa _ => pa
  | .host pa _ => hostBase + pa
  | .remote _ => 0
  | .link _ => 0
  | .held pa => pa

/-- R428: an access through a leaf into the range that holds rows and spares: it reads free bytes, and a block of the slice's rows,
which the device may have placed there, becomes free (log 57). -/
def State.heldAccess (s : State) (pa : Nat) : Nat × State :=
  let sl := sliceOf pa
  let r := s.nextFreeLine
  let w := r.2.nextFree64
  match nth (s.heldOn sl) (w.1.toNat % 2 ^ 4 % (s.heldOn sl).length) with
  | none => (r.1, w.2)
  | some g =>
    let va := g.rowAt s.pkg.toNat sl (w.1.toNat / 2 ^ 8 % (g.rowsPerPair / 2)) + 64 * (w.1.toNat / 2 ^ 4 % 8)
    let x := w.2.nextFreeLine
    (r.1, { x.2 with mem := memWrite x.2.mem (whirlBase + va) 64 (ones 64) x.1 })

/-- `n` bytes at a place, read by a party of cluster `cl` with stale mark `stale`: TSO pages (R294), scratchpads (R220)
and host memory are read where they lie. -/
def State.readPlace (s : State) (cl stale hint : Nat) (pl : Place) (n : Nat) : Nat × State :=
  match pl with
  | .hbm pa false => State.hbmRead cl stale hint (n / 64 + 2) s pa n
  | .held pa => let r := s.heldAccess pa
    (r.1 % 2 ^ (8 * n), r.2)
  | p => (memRead s.mem p.flat n, s)

/-- The masked bytes of `x` at a place. -/
def State.writePlace (s : State) (cl hint : Nat) (pl : Place) (n mask x : Nat) : State :=
  match pl with
  | .hbm pa false => State.hbmWrite cl hint (n / 64 + 2) s pa n mask x
  | .remote _ => s
  | .link _ => s
  | .held pa => (s.heldAccess pa).2
  | p => { s with mem := memWrite s.mem p.flat n mask x }

/-- The part of a place `k` bytes further on. -/
def Place.plus (k : Nat) : Place → Place
  | .scratch c o => .scratch c (o + k)
  | .hbm pa t => .hbm (pa + k) t
  | .host pa t => .host (pa + k) t
  | .remote p => .remote p
  | .link o => .link (o + k)
  | .held pa => .held (pa + k)

/-- R294: a page shared with a host that follows total store order. -/
def Place.tso : Place → Bool
  | .hbm _ t => t
  | .host _ t => t
  | _ => false

/-- R224: a release at PK or wider by any thread of the cluster writes back every dirty byte of its cache. -/
def State.release (s : State) (cl scope : Nat) : State :=
  if scope < 2 then s else (s.clusterAt cl).lines.foldl (fun s e => s.writeBack cl e.1) s

/-- The latest stale mark of a cluster's cores. -/
def State.clusterStale (s : State) (cl : Nat) : Nat := (List.range 32).foldl (fun n i => max n (s.coreAt (cl * 64 + i)).stale) 0

/-- R224: an acquire at PK or wider sets the core's stale mark. One at CL takes on what the cluster's other cores have acquired,
which a release at CL carries on, and keeps its own (R283, R286, R287). -/
def State.acquire (s : State) (core scope : Nat) : State :=
  if scope = 0 then s
  else s.modCore core (fun c => { c with
    stale := if scope = 1 then max c.stale (s.clusterStale (coreCluster core)) else s.tick })

/-- R406: some line of the range is held by the host, or a release would have to write one back. -/
def State.hostHolds (s : State) (pl : Place) (n : Nat) : Bool :=
  match pl with
  | .hbm pa _ => s.hostHeld.any (fun l => decide (pa / 64 ≤ l) && decide (64 * l < pa + n))
  | _ => false

/-- R324: some 64-byte block of the range was found uncorrectable (log 81); copies of it in a cache are no better. -/
def State.spoiled (s : State) (pl : Place) (n : Nat) : Bool :=
  let bad := s.poison.any (fun l => decide (pl.flat / 64 ≤ l) && decide (64 * l < pl.flat + n))
  match pl with
  | .hbm _ _ => bad
  | .scratch _ _ => bad
  | _ => false

def State.hostBlocks (s : State) (cl scope : Nat) : Bool :=
  decide (2 ≤ scope) && (s.clusterAt cl).lines.any (fun e => e.2.dirty != 0 && s.hostHeld.contains e.1)

/-- R49, R278, R279: the smallest scope containing two cores of the package; CO and CL hold slots of worker cores alone. -/
def scopeBetween (a b : Nat) : Nat :=
  if isWorkerCore a ∧ isWorkerCore b ∧ coreCluster a = coreCluster b then (if a = b then 0 else 1) else 2

end Sys2Proof.Machine
end

