-- ==== Sys2Proof/Machine/Translate.lean ====
section
/-! DEFINITION. Translation (R218, R219, R301 to R307): the fixed windows, the core's TLB, the abstract page tables that
service cores and device agents go by (log 6), and the checks on leaves. -/

namespace Sys2Proof.Machine

/-- What an access needs of a leaf (R307). -/
inductive Acc
  | read | write | atomic | fetch
deriving DecidableEq, Repr

def entKind (e : TlbEntry) : Nat := e.tag.toNat / 2 ^ 62
def entSize (e : TlbEntry) : Nat := e.tag.toNat / 2 ^ 60 % 4
def entAsid (e : TlbEntry) : Nat := e.tag.toNat % 2 ^ 16
/-- log2 of the bytes an entry covers (R304). -/
def sizeLog (k : Nat) : Nat := match k with
  | 0 => 16
  | 1 => 21
  | _ => 30
def entBase (e : TlbEntry) : Nat := e.tag.toNat / 2 ^ 16 % 2 ^ 40 * 2 ^ 16
def entTgt (e : TlbEntry) : Nat := e.word.toNat / 2 ^ 62
def entFrame (e : TlbEntry) : Nat := e.word.toNat / 2 ^ 16 % 2 ^ 40 * 2 ^ 16

/-- R302: the entry covers the address in the address space. -/
def entHit (e : TlbEntry) (asid : Nat) (va : W64) : Bool :=
  entAsid e == asid && entKind e != 0 && va.toNat % 2 ^ 56 / 2 ^ sizeLog (entSize e) == entBase e / 2 ^ sizeLog (entSize e)

/-- R302: a leaf first, then a placement of 2 MiB, then one of 1 GiB. -/
def tlbLookup (l : List TlbEntry) (asid : Nat) (va : W64) : Option TlbEntry :=
  match l.find? (fun e => entHit e asid va && entKind e == 1) with
  | some e => some e
  | none => match l.find? (fun e => entHit e asid va && entSize e == 1) with
    | some e => some e
    | none => l.find? (fun e => entHit e asid va)

/-- R303: two entries of one address space overlap. -/
def entOverlap (a b : TlbEntry) : Bool :=
  entAsid a == entAsid b && decide (entBase a < entBase b + 2 ^ sizeLog (entSize b)) &&
    decide (entBase b < entBase a + 2 ^ sizeLog (entSize a))

/-- R302, R303: the TLB with an entry written: overlapping entries leave, then the least recently used of a full set of
`ways`. -/
def tlbInsert (ways sets : Nat) (l : List TlbEntry) (e : TlbEntry) : List TlbEntry :=
  let l := l.filter (fun x => !entOverlap x e)
  let set := fun (x : TlbEntry) => entBase x / 2 ^ sizeLog (entSize x) % sets
  let same := l.filter (fun x => set x == set e)
  match same with
  | [] => e :: l
  | w :: ws =>
    if same.length < ways then e :: l
    else e :: l.erase (ws.foldl (fun b x => if x.used < b.used then x else b) w)

/-- The job record in force for a job (R396). -/
def State.record (s : State) (job : W32) : List W64 := tget [] s.sched.records job.toNat
def recWord (r : List W64) (i : Nat) : W64 := r.getD i 0
/-- The job's address space on this package (R396 word 3). -/
def State.asid (s : State) (job : W32) : Nat := (recWord (s.record job) 3).toNat % 2 ^ 16

/-- R307: a leaf's permissions. `sup` says that supervisor pages may be accessed (R392). -/
def leafAllows (e : TlbEntry) (acc : Acc) (sup : Bool) : Bool :=
  let w := e.word
  (sup || !w.getLsbD 11) && (match acc with
    | .read => w.getLsbD 8
    | .write => w.getLsbD 9
    | .atomic => w.getLsbD 8 && w.getLsbD 9
    | .fetch => w.getLsbD 10)

/-- Outcome of a translation. -/
inductive Tr
  | ok (pl : Place)
  | fault (c : Cause)
  | miss
deriving DecidableEq, Repr

/-- The place an entry gives an address of a job, after its checks (R305 to R307, R315, R428): a placement that names this
package is a miss, and a LOCAL page that holds region rows and spares has a place of its own. -/
def State.useEntry (s : State) (job : W32) (e : TlbEntry) (acc : Acc) (sup : Bool) (va : W64) : Tr :=
  let off := va.toNat % 2 ^ sizeLog (entSize e)
  if entKind e = 1 then
    if !leafAllows e acc sup then .fault .perm
    else if entTgt e = 2 then .ok (.host (entFrame e + off) (e.word.getLsbD 15))
    else if s.heldFrom ≤ entFrame e + off then .ok (.held (entFrame e + off))
    else .ok (.hbm (entFrame e + off) (e.word.getLsbD 15))
  else if e.word.getLsbD 61 then .fault .perm
  else
    let pkg := e.word.toNat / 2 ^ 16 % 2 ^ 10
    if acc = .fetch then .fault .perm
    else if pkg = s.pkg.toNat then .miss
    else if s.inDomain job pkg then .ok (.remote pkg) else .fault .perm

def State.regionOf (s : State) (job : W32) (va : W64) : Option Region :=
  s.regions.find? (fun r => r.job == job && r.has va)

/-- The scratchpad offset of an address in a window (R219): core and offset. -/
def State.window (core : Nat) (va : W64) : Option (Nat × Nat) :=
  let a := va.toNat
  if 0x7F0000000000 ≤ a ∧ a < 0x7F0000080000 then some (core, a - 0x7F0000000000)
  else if 0x7F0100000000 ≤ a ∧ a < 0x7F0100000000 + 32 * 0x80000 then
    some (core / 64 * 64 + (a - 0x7F0100000000) / 0x80000, (a - 0x7F0100000000) % 0x80000)
  else none

/-- R219: the fixed windows and the reserved range around them. -/
def inReserved (va : W64) : Bool := decide (0x7F0000000000 ≤ va.toNat) && decide (va.toNat < 0x7F0200000000)

/-- R354: the link window. -/
def inLink (va : W64) : Bool := decide (0xFFFFFFF000000000 ≤ va.toNat) && decide (va.toNat < 0xFFFFFFF000001000)

/-- Translation for a slot of a core (R112, R219, R301, R302, R354, R393); the checks ADDR and ALIGN come before. -/
def State.translate (s : State) (core : Nat) (job : W32) (acc : Acc) (va : W64) (size : Nat) : Tr :=
  let worker := isWorkerCore core
  if inReserved va then
    if acc = .fetch ∨ !worker then .fault .perm
    else match State.window core va with
      | none => .fault .perm
      | some (c, o) =>
        if 0x70000 < o + size ∨ (s.coreAt c).fenced then .fault .perm else .ok (.scratch c o)
  else if worker && supervisorHalf va then .fault .perm
  else if inLink va then
    if isSteward core ∧ size = 8 ∧ acc ≠ .fetch then .ok (.link (va.toNat % 4096)) else .fault .perm
  else if (s.regionOf job va).isSome then .fault .perm
  else if worker then
    match tlbLookup (s.coreAt core).tlb (s.asid job) va with
    | none => .miss
    | some e => s.useEntry job e acc false va
  else
    match tlbLookup s.tables (s.asid job) va with
    | none => .fault .page
    | some e => match s.useEntry job e acc true va with
      | .miss => .fault .page
      | r => r

/-- The walk page of an address: its bits 55:16 (R304). -/
def vpnOf (va : W64) : Nat := va.toNat % 2 ^ 56 / 2 ^ 16

/-- The page request that covers a page, if one is outstanding and not answered (R310). -/
def State.pageReqOf (s : State) (job : W32) (vpn : Nat) : Option Nat :=
  firstIdx (fun k => (nth s.pageReqs k).any (fun r =>
    !r.answered && r.job == job && r.vpn * 2 ^ 16 / 2 ^ r.size == vpn * 2 ^ 16 / 2 ^ r.size)) s.pageReqs.length 0

/-- The numbers of the units that walks end for: a lookup, or one of its ranks (`sub` a rank + 1), and a stream of a task. None is a
slot's, and an engine's commands, which wait for their pages (R231), share one that nothing ends for. -/
def lookUnit (id sub : Nat) : Nat := 2 ^ 16 + 2 + 2 * (id * 2048 + sub)
def streamUnit (tid : Nat) (z : BitVec 3) : Nat := 2 ^ 16 + 3 + 2 * (8 * tid + z.toNat)
def engUnit : Nat := 2 ^ 16

/-- Translation for unit `u` that works for a core (R165, R210, R227, R301): the fault its walk of the page ended in (R308, R311);
else the core's TLB, where a miss is PAGE if a page request is outstanding, and else waits for a walk. -/
def State.deviceTr (s : State) (core u : Nat) (job : W32) (acc : Acc) (va : W64) (size : Nat) : Tr :=
  match (s.coreAt core).latched.find? (fun e => e.1 == u && e.2.1 == vpnOf va) with
  | some (_, _, perm) => .fault (if perm then .perm else .page)
  | none => match s.translate core job acc va size with
    | .miss => if (s.pageReqOf job (vpnOf va)).isSome then .fault .page else .miss
    | r => r

/-- Translation by a device agent for a job (log 6): the local place, where the page is present and LOCAL; a place of its own in the
range that holds rows and spares (R428). -/
def State.agentPlace (s : State) (job : W32) (va : W64) : Option Place :=
  match tlbLookup s.tables (s.asid job) va with
  | some e =>
    let pa := entFrame e + va.toNat % 2 ^ sizeLog (entSize e)
    if entKind e = 1 ∧ entTgt e = 0 then some (if s.heldFrom ≤ pa then .held pa else .hbm pa (e.word.getLsbD 15)) else none
  | none => none

/-- The bytes that a device agent finds in the range that holds rows and spares: free, and other ones at each step (R428). -/
def State.heldBytes (s : State) (pa n : Nat) : Nat :=
  packDigits 8 (fun i => (Config.freeWord (2 ^ 64 * (s.tick + 1) + pa + i)).toNat % 256) n

/-- Reads of `n` bytes by a device agent at the slice; 0 where the page is not present. -/
def State.agentRead (s : State) (job : W32) (va : W64) (n : Nat) : Nat :=
  match s.agentPlace job va with
  | some (.held pa) => s.heldBytes pa n
  | some p => memRead s.mem p.flat n
  | none => 0

/-- A device agent's write of `n` bytes at the slice, after the back-invalidates of its lines (R406, log 37). -/
def State.agentWrite (s : State) (job : W32) (va : W64) (n x : Nat) : State :=
  match s.agentPlace job va with
  | some (.held pa) => (s.heldAccess pa).2
  | some p => { s with
      mem := memWrite s.mem p.flat n (ones n) x
      hostHeld := s.hostHeld.filter (fun l => !(decide (p.flat / 64 ≤ l) && decide (64 * l < p.flat + n))) }
  | none => s

/-- R302: the entry used becomes the most recently used. -/
def State.touchTlb (s : State) (core : Nat) (job : W32) (va : W64) : State :=
  if isWorkerCore core && !inReserved va then
    match tlbLookup (s.coreAt core).tlb (s.asid job) va with
    | none => s
    | some e => s.modCore core (fun c => { c with tlb := c.tlb.map (fun x => if x = e then { x with used := s.tick } else x) })
  else s

/-- The pages of a range, by their walk pages. -/
def pagesOf (va n : Nat) : List Nat := (List.range ((va % 2 ^ 16 + n + 65535) / 2 ^ 16)).map (fun i => (va / 2 ^ 16 + i) % 2 ^ 40)

/-- The same for the pages a unit uses of a core's TLB, one address each. -/
def State.touchAll (s : State) (core : Nat) (job : W32) (l : List Nat) : State :=
  l.foldl (fun s va => s.touchTlb core job (BitVec.ofNat 64 va)) s

/-- The same for every page of a range. -/
def State.touchRange (s : State) (core : Nat) (job : W32) (va n : Nat) : State :=
  s.touchAll core job ((pagesOf va n).map (2 ^ 16 * ·))

end Sys2Proof.Machine
end

