-- ==== Sys2Proof/Machine/Launch.lean ====
section
/-! DEFINITION. Images and their delivery (R28 to R36), work counts and completion of launches, graphs and phases
(R43 to R46, R414, R415), host rings (R410 to R413), and the messages the device sends to service cores (R395). -/

namespace Sys2Proof.Machine

/-! ### System memory and the slice table (R396, R419) -/

/-- A read of system memory: an address of address space 0 (log 6). -/
def State.sysRead (s : State) (va : W64) (n : Nat) : Nat :=
  match tlbLookup s.tables 0 va with
  | some e =>
    let pa := entFrame e + va.toNat % 2 ^ sizeLog (entSize e)
    if entKind e = 1 ∧ entTgt e = 0 then (if s.heldFrom ≤ pa then s.heldBytes pa n else memRead s.mem pa n) else 0
  | none => 0
def State.sysWord (s : State) (va : W64) (i : Nat) : W64 := BitVec.ofNat 64 (s.sysRead (va + BitVec.ofNat 64 (8 * i)) 8)

/-- An entry of a slice table: job, record, start and end. -/
structure SliceEntry where
  job : W32
  record : W64
  start : Nat
  stop : Nat
deriving DecidableEq, Repr

def State.tableLen (s : State) (tab : W64) : Nat := (s.sysWord tab 0).toNat / 2 ^ 48
def State.tablePeriod (s : State) (tab : W64) : Nat := (s.sysWord tab 1).toNat
def State.tableEntry (s : State) (tab : W64) (i : Nat) : SliceEntry :=
  let a := tab + BitVec.ofNat 64 (64 + 32 * i)
  ⟨(s.sysWord a 0).setWidth 32, s.sysWord a 1, (s.sysWord a 2).toNat, (s.sysWord a 3).toNat⟩

/-- The jobs a slice table names (R47). -/
def State.tableJobs (s : State) : List W32 :=
  (List.range (min (s.tableLen s.sched.slicetab) 4096)).map (fun i => (s.tableEntry s.sched.slicetab i).job)

/-! ### Host rings -/

def State.ring (s : State) (r : Nat) : Ring := tget Ring.reset s.host.rings r
def State.setRing (s : State) (r : Nat) (v : Ring) : State :=
  { s with host := { s.host with rings := tset s.host.rings r v } }
def Ring.on (r : Ring) : Bool := r.cfg.getLsbD 63
def Ring.log2n (r : Ring) : Nat := bitsAt r.cfg.toNat 51 5
def Ring.full (r : Ring) : Bool := (r.tail + 2 ^ 32 - r.head) % 2 ^ 32 == 2 ^ r.log2n

/-- R412: one entry of seven words and a type at TAIL, then TAIL + 1 and an MSI-X message on VEC. -/
def State.putEntry (s : State) (r : Nat) (ty : Nat) (ws : List W64) : State :=
  let g := s.ring r
  let phase := 1 - g.tail / 2 ^ g.log2n % 2
  let words := (List.range 7).map (fun i => ws.getD i 0) ++ [BitVec.ofNat 64 (ty * 2 ^ 56 + phase)]
  let a := hostBase + g.base.toNat + 64 * (g.tail % 2 ^ g.log2n)
  let s := { s with mem := memWrite s.mem a 64 (ones 64) (ofWords words) }
  let s := s.setRing r { g with tail := (g.tail + 1) % 2 ^ 32 }
  { s with host := { s.host with msix := s.host.msix ++ [(bitsAt g.cfg.toNat 56 7, bitsAt g.cfg.toNat 42 6)] } }

/-- R413: the entries a ring holds are written in order while it has room; `f` bounds their number. A held entry carries
its type as its first word. -/
def State.flushRing : Nat → State → Nat → State
  | 0, s, _ => s
  | f + 1, s, r =>
    let g := s.ring r
    match g.held with
    | [] => s
    | e :: rest =>
      if g.on && !g.full then
        State.flushRing f ((s.setRing r { g with held := rest }).putEntry r (recWord e 0).toNat e.tail) r
      else s

/-- R413: an entry of a type the device never drops: to ring 0 when its ring is not enabled, held in order when its ring
is full or ring 0 is not enabled either. -/
def State.ringEntry (s : State) (r : Nat) (ty : Nat) (ws : List W64) : State :=
  let r := if (s.ring r).on then r else 0
  let g := s.ring r
  let s := s.setRing r { g with held := g.held ++ [BitVec.ofNat 64 ty :: ws] }
  State.flushRing (g.held.length + 1) s r

/-- R426: before step 5 the package is absent to the host, and a host's access does nothing. -/
def State.fromHost (s t : State) : State := if s.health.step < 5 then s else t

/-- R421: units to be tested. -/
def State.addTodo (s : State) (l : List W64) : State := { s with health := { s.health with todo := s.health.todo ++ l } }

/-- R421: a page of HBM, or a bank of a scratchpad (R221), that gave an uncorrectable error is to be tested (its unit word, R401).
-/
def State.reportPage (s : State) (p : Place) : State :=
  match p with
  | .hbm pa _ => s.addTodo [BitVec.ofNat 64 (3 * 2 ^ 56 + pa / 2 ^ 16)]
  | .scratch c o => s.addTodo [BitVec.ofNat 64 (2 * 2 ^ 56 + c * 512 + o / 8 % 512)]
  | _ => s

/-- R324, R421: the page of uncorrectable data that slot `sid` consumes is to be tested. -/
def State.reportAt (s : State) (sid : Nat) (c : Cause) (va : W64) : State :=
  if c = .mcheck then match s.translate (sidCore sid) (s.slotAt sid).job .read va 1 with
    | .ok p => s.reportPage p
    | _ => s
  else s

@[simp] theorem reportAt_other (s : State) (sid : Nat) (c : Cause) (va : W64) (h : c ≠ .mcheck) : s.reportAt sid c va = s :=
  if_neg h

/-- R418: the pod-wide order of two events by the GTS of the copy and the source number where each takes place. -/
def eventBefore (a b : Nat × W32) : Bool := decide (a.1 < b.1) || (a.1 == b.1 && decide (a.2 < b.2))
/-- R418, R29: the source number a host submission of a function counts under. -/
def hostSource (fn : Nat) : W32 := BitVec.ofNat 32 (0xFC000000 + fn)

def State.gtsWord (s : State) : W64 := BitVec.ofNat 64 (s.gtsOf 0)

/-- R412: an ERROR entry. -/
def State.errorEntry (s : State) (r code : Nat) (d1 d2 : W64) : State :=
  s.ringEntry r 3 [BitVec.ofNat 64 code, d1, d2, s.gtsWord]

/-! ### Images -/

/-- R29: the creator's release sequence counts one per creation, 29 bits; 0 is kept for the device's own messages. -/
def State.relTag (s : State) (sid scope : Nat) : W32 × State :=
  let n := tget 0 s.relSeq sid % (2 ^ 29 - 1) + 1
  (BitVec.ofNat 32 (scope * 2 ^ 29 + n), { s with relSeq := tset s.relSeq sid n })

/-- R29: words 5 and 6 of an image a slot creates. -/
def State.fillImage (s : State) (sid : Nat) (index : Nat) (scope : Nat) (words : List W64) (w7 : W64) : Image × State :=
  let t := s.slotAt sid
  let (tag, s) := s.relTag sid scope
  (⟨recWord words 0, recWord words 1, recWord words 2, recWord words 3, recWord words 4,
    t.launch ++ BitVec.ofNat 32 index, s.srcNum sid ++ tag, w7, none, [], t.job, t.image.fn, false, [], none⟩, s)

/-- R32: an image for a fenced core goes to the lowest-numbered live worker core of its cluster. Where every worker core of the
cluster is fenced the specification names none, and the image stays with its core: the model's choice (log 88). -/
def State.liveCore (s : State) (core : Nat) : Nat :=
  if isWorkerCore core && (s.coreAt core).fenced then
    match firstIdx (fun i => !(s.coreAt (coreCluster core * 64 + i)).fenced) 32 0 with
    | some i => coreCluster core * 64 + i
    | none => core
  else core

def subQueue (c : CoreSt) (k : Nat) : List QEntry := RegFile.read c.mail (BitVec.ofNat 2 k)
def setSub (c : CoreSt) (k : Nat) (q : List QEntry) : CoreSt := { c with mail := RegFile.write c.mail (BitVec.ofNat 2 k) q }

/-- R34: the sub-queue has room, messages on their way to it counted. -/
def State.hasRoom (s : State) (core k : Nat) : Bool :=
  decide ((subQueue (s.coreAt core) k).length
    + (s.flight.filter (fun m => m.dest == core && m.img.cls == k)).length < 64)

/-- An entry of age zero: its age counts while its job holds the package (R59). -/
def State.entry (s : State) (i : Image) (fan : Option (Nat × Nat)) : QEntry :=
  ⟨i, fan, if s.jobIn i.job then s.cyc else 0, 0⟩

/-- R59: the age of an entry. -/
def State.age (s : State) (e : QEntry) : Nat := if s.jobIn e.img.job then s.cyc - e.since else e.since

/-- An entry at a new place: its age counts from zero (R59). -/
def State.anew (s : State) (e : QEntry) : QEntry := { e with since := if s.jobIn e.img.job then s.cyc else 0, promo := 0 }

/-- R70: the saved queue state of a job. -/
def State.saveOf (s : State) (job : W32) : JobSave :=
  (s.sched.saves.find? (fun v => v.job == job)).getD ⟨job, [], [], [], [], [], [], [], []⟩
def State.putSave (s : State) (v : JobSave) : State :=
  { s with sched := { s.sched with saves := s.sched.saves.filter (fun w => w.job != v.job) ++ [v] } }

/-- R34: at the tail of a sub-queue. -/
def State.enqueue (s : State) (core : Nat) (e : QEntry) : State :=
  s.modCore core (fun c => setSub c e.img.cls (subQueue c e.img.cls ++ [e]))

/-- At the head of a sub-queue: an urgent head that holds UMASK off there stands one place further on (R64). -/
def pushHead (c : CoreSt) (e : QEntry) : CoreSt :=
  { setSub c e.img.cls (e :: subQueue c e.img.cls) with
    heldHeads := c.heldHeads.map (fun h => if h.1 = e.img.cls then (h.1, h.2 + 1) else h) }

/-- An image on its way to a core (R34); `agent`: sent by a hardware agent, which never drops it. -/
def State.post (s : State) (core : Nat) (i : Image) (agent : Bool) : State :=
  { s with flight := s.flight ++ [⟨s.liveCore core, i, agent, none⟩] }

/-- A message the device itself sends: class 0, handler and four arguments, no launch (R323, R395). -/
def State.deviceImage (s : State) (src : Nat) (handler : W64) (job : W32) (fn : BitVec 7) (a b c d : W64) : Image :=
  ⟨(handler >>> 8) <<< 8, a, b, c, d, 0, s.srcNum src ++ BitVec.ofNat 32 (2 * 2 ^ 29), 0, none, [], job, fn, false, [], none⟩

/-- R395: a message to the ESC or TSC of a cluster at the entry of the job record. -/
def State.toEsc (s : State) (cl src : Nat) (job : W32) (fn : BitVec 7) (a b c d : W64) : State :=
  s.post (cl * 64 + 33) (s.deviceImage src (recWord (s.record job) 0) job fn a b c d) true
def State.toTsc (s : State) (cl src : Nat) (job : W32) (fn : BitVec 7) (a b c d : W64) : State :=
  s.post (cl * 64 + 32) (s.deviceImage src (recWord (s.record job) 1) job fn a b c d) true

/-! ### Work counts -/

/-- R44: the launch's home is this package. -/
def State.homeHere (s : State) (l : W32) : Bool := l.toNat / 2 ^ 22 == s.pkg.toNat

def State.modLaunch (s : State) (l : W32) (f : Launch → Launch) : State :=
  match tfind s.launches l.toNat with
  | some v => { s with launches := tset s.launches l.toNat (f v) }
  | none => s

/-- R45: `n` images of the launch come to exist. -/
def State.countUp (s : State) (l : W32) (n : Nat) : State := s.modLaunch l (fun v => { v with work := v.work + n })

/-- R44: the next sequence number that no uncompleted launch holds; `f` bounds the search. -/
def State.freeSeq : Nat → State → Nat → Nat
  | 0, _, n => n
  | f + 1, s, n =>
    let n := if n = 0 ∨ 2 ^ 22 ≤ n then 1 else n
    if thas s.launches (s.pkg.toNat * 2 ^ 22 + n) then State.freeSeq f s (n + 1) else n

/-- A launch begins; marks of an earlier launch with its identifier are gone. -/
def State.newLaunch (s : State) (v : Launch) : W32 × State :=
  let n := State.freeSeq (s.launches.length + 2) s s.nextLaunch
  let id := s.pkg.toNat * 2 ^ 22 + n
  (BitVec.ofNat 32 id, { s with
    launches := tset s.launches id v, nextLaunch := if n + 1 = 2 ^ 22 then 1 else n + 1
    cores := s.cores.map (fun c => (c.1, { c.2 with cancelled := c.2.cancelled.filter (· != BitVec.ofNat 32 id) })) })

def State.queue (s : State) (q : Nat) : WorkQueue := tget WorkQueue.reset s.host.queues q
def State.setQueue (s : State) (q : Nat) (v : WorkQueue) : State :=
  { s with host := { s.host with queues := tset s.host.queues q v } }
def State.setGraphs (s : State) (g : List Graph) : State := { s with host := { s.host with graphs := g } }
def State.setPhases (s : State) (p : List Phase) : State := { s with host := { s.host with phases := p } }

/-- A free slot of a work queue (R56). -/
def WorkQueue.freeSlot (q : WorkQueue) : Option Nat := firstIdx (fun i => !thas q.slots i) 64 0

/-- R414: a launch of a graph may start: every predecessor is complete. -/
def GLaunch.ready (g : Graph) (l : GLaunch) : Bool :=
  l.st == 0 && (List.range 64).all (fun j => !l.pred.getLsbD j || (nth g.launches j).any (fun p => p.st == 2))

/-- R47, R414: a successor of a cancelled launch is cancelled without starting. PRED names lower indices only, so one pass in
ascending index reaches every successor; `done` are the launches before. -/
def spreadFrom : List GLaunch → List GLaunch → List GLaunch
  | done, [] => done
  | done, l :: r =>
    let hit := l.st == 0 && (List.range 64).any (fun j => l.pred.getLsbD j && (nth done j).any (fun p => p.st == 3))
    spreadFrom (done ++ [if hit then { l with st := 3 } else l]) r

def Graph.spread (g : Graph) : Graph := { g with launches := spreadFrom [] g.launches }

/-- R414: ready launches of a graph go into free slots of its queue, in ascending index. Each takes a SEQ of its queue as a
reservation by the host would (log 76). -/
def State.submitFrom : Nat → State → Graph → Nat → Graph × State
  | 0, s, g, _ => (g, s)
  | f + 1, s, g, k =>
    match nth g.launches k with
    | none => (g, s)
    | some l =>
      if l.ready g then
        let q := s.queue g.queue
        match q.freeSlot with
        | none => (g, s)
        | some i =>
          let q' := { q with seq := (q.seq + 1) % 2 ^ 24, slots := tset q.slots i (.filled q.seq l.words (some (g.id, k))) }
          State.submitFrom f (s.setQueue g.queue q') { g with launches := modAt (fun l => { l with st := 1 }) g.launches k } (k + 1)
      else State.submitFrom f s g (k + 1)

/-- R43, R414, R415: every graph submits what it can; a graph with nothing left completes, reports, and counts off its
phase. -/
def State.graphsGo (s : State) : State :=
  s.host.graphs.foldl (fun s g =>
    let (g, s) := State.submitFrom 65 s g.spread 0
    if g.launches.all (fun l => decide (2 ≤ l.st)) then
      let s := s.setGraphs (s.host.graphs.filter (fun h => !(h.id == g.id && h.job == g.job)))
      let s := s.ringEntry g.ring 2 [BitVec.ofNat 64 (2 ^ 62 + g.id.toNat), if g.launches.any (fun l => l.st == 3) then 1 else 0, s.gtsWord]
      s.setPhases (s.host.phases.map (fun p => if p.id == g.phase && p.job == g.job then
        { p with left := p.left - 1, cancelled := p.cancelled || g.launches.any (fun l => l.st == 3) } else p))
    else s.setGraphs (s.host.graphs.map (fun h => if h.id == g.id && h.job == g.job then g else h))) s

/-- R46, R48: the launch completes when both counts are zero, or when it is cancelled and its work count is zero. -/
def State.completeLaunch (s : State) (l : W32) : State :=
  match tfind s.launches l.toNat with
  | none => s
  | some v =>
    if v.work = 0 ∧ (v.counter = 0 ∨ v.cancelled) then
      let s := { s with launches := tdel s.launches l.toNat }
      let st : Nat := if v.cancelled then 1 else 0
      let s := match v.root with
        | some r => s.ringEntry r 2 [l.setWidth 64, BitVec.ofNat 64 st, s.gtsWord]
        | none => s
      match v.graph with
      | some (gid, k) =>
        (s.setGraphs (s.host.graphs.map (fun g => if g.id == gid && g.job == v.job then
          { g with launches := modAt (fun x => { x with st := 2 + st }) g.launches k } else g))).graphsGo
      | none => s
    else s

/-- R45: an image or task of the launch ends. -/
def State.countDown (s : State) (l : W32) (n : Nat) : State :=
  (s.modLaunch l (fun v => { v with work := v.work - n })).completeLaunch l

/-- R48: the launch is marked cancelled on a core of this package. -/
def State.isCancelled (s : State) (core : Nat) (l : W32) : Bool := (s.coreAt core).cancelled.contains l

/-- R39: a discarded image goes back with age zero, to the job's saved state while the job is out; one whose launch's cancellation
has reached the core that takes it is removed (R48). -/
def State.requeueHead (s : State) (core : Nat) (i : Image) : State :=
  if s.isCancelled (s.liveCore core) i.launch then s.countDown i.launch 1
  else if isWorkerCore core && !s.jobIn i.job then
    s.putSave { s.saveOf i.job with dropped := (s.saveOf i.job).dropped ++ [(core, i)] }
  else s.modCore (s.liveCore core) (fun c => pushHead c (s.entry i none))

/-- R47, R48: the mark at the home; it then reaches every core by its own arrival event. -/
def State.cancelLaunch (s : State) (l : W32) : State :=
  (s.modLaunch l (fun v => { v with cancelled := true })).completeLaunch l

/-- The launches of a graph that stand in its queue without a launch identifier leave it. -/
def State.dropFilled (s : State) (g : Graph) : State :=
  let q := s.queue g.queue
  s.setQueue g.queue { q with slots := q.slots.filter (fun e => match e.2 with
    | .filled _ _ (some (i, _)) => i != g.id
    | _ => true) }

/-- The launches of a graph, of a phase, of a job (R47). -/
def State.cancelGraph (s : State) (gid job : W32) : State :=
  let s := (s.host.graphs.filter (fun g => g.id == gid && g.job == job)).foldl (fun s g => s.dropFilled g) s
  let s := s.setGraphs (s.host.graphs.map (fun g => if g.id == gid && g.job == job then
    { g with launches := g.launches.map (fun l => if l.st = 0 ∨ (l.st = 1 ∧ l.launch = 0) then { l with st := 3 } else l) } else g))
  let ids := (s.launches.filter (fun e => e.2.job == job && (match e.2.graph with
    | some (i, _) => i == gid
    | none => false))).map (·.1)
  (ids.foldl (fun s i => s.cancelLaunch (BitVec.ofNat 32 i)) s).graphsGo

/-- The jobs that hold a work name by the records of this package (R47): launches of its own, graphs submitted through its
queues, phases announced on it, jobs of its slice table. -/
def State.nameJobs (s : State) (name : W64) : List W32 :=
  let id : W32 := name.setWidth 32
  match name.toNat / 2 ^ 62 with
  | 0 => ((tfind s.launches id.toNat).map (·.job)).toList
  | 1 => (s.host.graphs.filter (fun g => g.id == id)).map (·.job)
  | 2 => (s.host.phases.filter (fun p => p.id == id)).map (·.job)
  | _ => if s.tableJobs.contains id then [id] else []

/-- R47: what the name covers of one job is cancelled. -/
def State.cancelOf (s : State) (name : W64) (job : W32) : State :=
  let id : W32 := name.setWidth 32
  match name.toNat / 2 ^ 62 with
  | 0 => s.cancelLaunch id
  | 1 => s.cancelGraph id job
  | 2 =>
    let s := s.setPhases (s.host.phases.map (fun p => if p.id == id && p.job == job then { p with cancelled := true } else p))
    (s.host.graphs.filter (fun g => g.phase == id && g.job == job)).foldl (fun s g => s.cancelGraph g.id job) s
  | _ =>
    let s := s.setPhases (s.host.phases.map (fun p => if p.job == job then { p with cancelled := true } else p))
    let s := { s with host := { s.host with jobsCancelled := job :: s.host.jobsCancelled.filter (· != job) } }
    let s := (s.host.graphs.filter (fun g => g.job == job)).foldl (fun s g => s.cancelGraph g.id job) s
    ((s.launches.filter (fun e => e.2.job == job)).map (·.1)).foldl (fun s i => s.cancelLaunch (BitVec.ofNat 32 i)) s

/-- R47: the name is cancelled for those of the jobs holding it that `which` picks. -/
def State.cancelName (s : State) (name : W64) (which : W32 → Bool) : State :=
  ((s.nameJobs name).filter which).foldl (fun s j => s.cancelOf name j) s

end Sys2Proof.Machine
end

