-- ==== Sys2Proof/Machine/MatrixUnit.lean ====
section
/-! DEFINITION. The matrix unit (R154 to R156, R364 to R374, R382): tiles in Z-order, latches, the sums and roundings of
every pair, the command queue, and the troupe's ring. -/

namespace Sys2Proof.Machine

/-! ### Layout words and tiles (R364 to R368) -/

def layFmt (l : W64) : Nat := l.toNat % 16
def layT (l : W64) : Bool := l.getLsbD 4
def layHi (l : W64) : Bool := l.getLsbD 5
def layNosc (l : W64) : Bool := l.getLsbD 6
def layRows (l : W64) : Nat := bitsAt l.toNat 11 6
def layCols (l : W64) : Nat := bitsAt l.toNat 17 7

/-- Bytes of an element, and of a tile, by format code (R364); a Q16N element is half a byte. -/
def fmtBytes (f : Nat) : Nat := match f with
  | 3 => 2
  | 4 => 2
  | 5 => 4
  | 6 => 8
  | _ => 1
def tileBytes (f : Nat) : Nat := 1024 * fmtBytes f
/-- R375: the bytes a load reads: the tile, its codes and its super-scale. -/
def loadBytes (l : W64) : Nat :=
  tileBytes (layFmt l) + (if layNosc l then 0 else match layFmt l with
    | 0 => 32
    | 1 => 32
    | 2 => 36
    | _ => 0)

/-- R366: the layout word is refused. -/
def layoutBad (toB : Bool) (l : W64) : Bool :=
  bitsAt l.toNat 24 40 != 0 || bitsAt l.toNat 7 4 != 0 || decide (8 ≤ layFmt l) || decide (32 < layRows l) ||
    decide ((if layFmt l = 2 then 64 else 32) < layCols l) || (layT l && layFmt l == 2) || (toB && layFmt l == 2) ||
    (layHi l && !toB) || (layHi l && layFmt l != 0)

/-- R365: Z(m, n). -/
def zOrder (m n : Nat) : Nat :=
  bitsAt m 4 1 * 512 + bitsAt n 4 1 * 256 + bitsAt m 3 1 * 128 + bitsAt n 3 1 * 64 + bitsAt m 2 1 * 32 + bitsAt n 2 1 * 16
    + m % 4 * 4 + n % 4

/-- The stored bits of element (m, n). -/
def storedBits (t : Latch) (m n : Nat) : Nat :=
  if layFmt t.layout = 2 then bitsAt t.tile (8 * zOrder m (n / 2) + 4 * (n % 2)) 4
  else
    let k := 8 * fmtBytes (layFmt t.layout)
    bitsAt t.tile (k * zOrder m n) k

/-- R365, R368: the bits and block code that a latch read of (i, j) gives; outside the bounds +0 with code 127. -/
def latchElem (t : Latch) (i j : Nat) : Option (Nat × Nat) :=
  let m := if layT t.layout then j else i
  let n := if layT t.layout then i else j
  if m < layRows t.layout ∧ n < layCols t.layout then some (storedBits t m n, t.codes.getD m 127) else none

/-- E8M0 (R141): the value times 2^(c − 127); code 0xFF makes a NaN. -/
def scaleCode (v : FVal) (c : Nat) : FVal :=
  if c = 255 then .nan false else (mulX v (.fin false 1 ((c : Int) - 127))).1

/-- The exact value of an element with its block code. -/
def latchVal (t : Latch) (i j : Nat) : FVal :=
  match latchElem t i j with
  | none => .fin false 0 0
  | some (b, c) => match layFmt t.layout with
    | 0 => scaleCode (unpack e4m3 b) c
    | 1 => scaleCode (unpack e5m2 b) c
    | 2 => unpack fp32 (q16Elem (q16Scale t.super c) b).toNat
    | 3 => unpack bf16 b
    | 4 => unpack fp16 b
    | 5 => unpack fp32 b
    | 6 => unpack fp64 b
    | _ => FVal.ofInt (signed 8 b) 0

/-! ### Pairs (R154, R155, R378) -/

def pairA (p : Nat) : Nat := match p with
  | 0 => 0
  | 1 => 0
  | 2 => 1
  | 3 => 1
  | 4 => 2
  | 5 => 3
  | 6 => 4
  | 7 => 5
  | 8 => 6
  | _ => 7
def pairB (p : Nat) : Nat := match p with
  | 0 => 0
  | 1 => 1
  | 2 => 0
  | 3 => 1
  | 4 => 0
  | 5 => 3
  | 6 => 4
  | 7 => 5
  | 8 => 6
  | _ => 7
def pairK (p : Nat) : Nat := if p = 4 then 64 else 32
/-- Length of a K segment; the FP64 and INT8 forms add one product at a time. -/
def pairSeg (p : Nat) : Nat := match p with
  | 4 => 64
  | 5 => 16
  | 6 => 16
  | 7 => 4
  | 8 => 1
  | 9 => 1
  | _ => 32

/-- B(k, j) over the two halves of the latch (R369). -/
def bVal (lo hi : Option Latch) (k j : Nat) : FVal :=
  match (if k < 32 then lo else hi) with
  | some t => latchVal t (k % 32) j
  | none => .fin false 0 0

/-- f := RNE(eA × eB) for the forms with scales (R154). -/
def pairScale (p : Nat) (ea eb : W32) : Nat := if p ≤ 4 then (fmulR fp32 .rne ea.toNat eb.toNat).1 else 0x3F800000

/-- One FP32 segment added to an accumulator element (R154). The sum is multiplied by f as FP32 numbers are: a negative f turns the
sign of an infinity, and an infinity times 0 is NaN, of which the rule says nothing (DESIGN CHOICE, log 90). -/
def addSeg (a : Latch) (lo hi : Option Latch) (f i j k0 n : Nat) (acc : Nat) : Nat :=
  let P := sumX ((List.range n).map (fun k => (mulX (latchVal a i (k0 + k)) (bVal lo hi (k0 + k) j)).1))
  let t := (roundF fp32 .rne (mulX P (unpack fp32 f)).1).1
  (faddR fp32 .rne acc t).1

/-- The segments of one FP32 accumulator element in ascending K. -/
def accF32 (p : Nat) (a : Latch) (lo hi : Option Latch) (f i j acc : Nat) : Nat :=
  (List.range (pairK p / pairSeg p)).foldl (fun acc s => addSeg a lo hi f i j (s * pairSeg p) (pairSeg p) acc) acc

/-- R155, MMA.F64: one rounding per K step. -/
def accF64 (a : Latch) (lo hi : Option Latch) (i j acc : Nat) : Nat :=
  (List.range 32).foldl (fun acc k =>
    (opR fp64 .rne (let p := mulX (latchVal a i k) (bVal lo hi k j)
      let s := addX .rne p.1 (unpack fp64 acc)
      (s.1, 0))).1) acc

def intOf (v : FVal) : Int := match v with
  | .fin n m e => signInt n (m * 2 ^ e.toNat)
  | _ => 0

/-- R155, MMA.I8: the products summed modulo 2^32. -/
def accI8 (a : Latch) (lo hi : Option Latch) (i j acc : Nat) : Nat :=
  (((acc : Int) + (List.range 32).foldl (fun t k => t + intOf (latchVal a i k) * intOf (bVal lo hi k j)) 0) % 2 ^ 32).toNat

/-- Element (r, c) of an accumulator (R75). -/
def accElem (a : BitVec 32768) (r c : Nat) : W32 := a.extractLsb' (32 * (32 * r + c)) 32
def accOf (f : Nat → Nat → W32) : BitVec 32768 :=
  BitVec.ofNat 32768 (packDigits 32 (fun k => f (k / 32) (k % 32)) 1024)

def CoreSt.getAcc (c : CoreSt) (d : BitVec 3) : BitVec 32768 := RegFile.read c.acc d
def CoreSt.putAcc (c : CoreSt) (d : BitVec 3) (v : BitVec 32768) : CoreSt := { c with acc := RegFile.write c.acc d v }

/-- acc := acc + A × B on a core, with the pair's sums (R154 to R156). A latch with uncorrectable data gives free values
(R374): `fr` counts them. -/
def mmaInto (c : CoreSt) (fr : Nat) (p : Nat) (d : BitVec 3) (f : Nat) (a lo hi : Option Latch) : CoreSt :=
  match a with
  | none => c
  | some a =>
    let bad := a.bad.isSome || (lo.any (·.bad.isSome)) || (p == 4 && hi.any (·.bad.isSome))
    let free := accOf (fun r k => Config.freeWord (fr + 32 * r + k))
    if p = 8 then
      let d1 := d + 1
      let old := fun i j => (accElem (c.getAcc d1) i j).toNat * 2 ^ 32 + (accElem (c.getAcc d) i j).toNat
      let new := fun i j => accF64 a lo hi i j (old i j)
      if bad then (c.putAcc d free).putAcc d1 (accOf (fun r k => Config.freeWord (fr + 1024 + 32 * r + k)))
      else (c.putAcc d (accOf (fun i j => BitVec.ofNat 32 (new i j)))).putAcc d1 (accOf (fun i j => BitVec.ofNat 32 (new i j / 2 ^ 32)))
    else if bad then c.putAcc d free
    else
      let old := c.getAcc d
      c.putAcc d (accOf (fun i j =>
        let x := (accElem old i j).toNat
        BitVec.ofNat 32 (if p = 9 then accI8 a lo hi i j x else accF32 p a lo hi f i j x)))

/-! ### Commands (R371 to R377) -/

/-- `n` bytes from `va` up through the translations made at issue, one per 64 KiB page. -/
def State.readPages (cl stale : Nat) : List Place → State → Nat → Nat → Nat × State
  | [], s, _, _ => (0, s)
  | p :: ps, s, va, n =>
    let k := min n (2 ^ 16 - va % 2 ^ 16)
    let (lo, s) := s.readPlace cl stale 0 p k
    if n ≤ k then (lo, s)
    else
      let (hi, s) := State.readPages cl stale ps s (va + k) (n - k)
      (lo + 2 ^ (8 * k) * hi, s)

def State.writePages (cl : Nat) : List Place → State → Nat → Nat → Nat → State
  | [], s, _, _, _ => s
  | p :: ps, s, va, n, x =>
    let k := min n (2 ^ 16 - va % 2 ^ 16)
    let s := s.writePlace cl 0 p k (ones k) (x % 2 ^ (8 * k))
    if n ≤ k then s else State.writePages cl ps s (va + k) (n - k) (x / 2 ^ (8 * k))

/-- The first line of uncorrectable data in `n` bytes from `va` up, over the pages as `readPages` takes them. -/
def poisonIn (poison : List Nat) : List Place → Nat → Nat → Option W64
  | [], _, _ => none
  | p :: ps, va, n =>
    let k := min n (2 ^ 16 - va % 2 ^ 16)
    match firstIdx (fun i => poison.contains (p.flat / 64 + i)) ((k + 63) / 64) 0 with
    | some i => some (BitVec.ofNat 64 (va + 64 * i))
    | none => poisonIn poison ps (va + k) (n - k)

/-- The interleaved FP64 elements of a pair (R377 MST.W). -/
def wideStore (lo hi : BitVec 32768) : Nat :=
  packDigits 64 (fun k => accElem hi (k / 32) (k % 32) ++ accElem lo (k / 32) (k % 32)) 1024

/-- R329: the accumulators a command writes are dirty units of its task. -/
def State.dirtyAcc (s : State) (tid : Nat) (m : BitVec 8) : State :=
  match s.slotOfTid tid with
  | some sid => s.modSlot sid (fun t => { t with dirty := { t.dirty with a := t.dirty.a ||| m } })
  | none => s

/-- R374: a latch's load that met an uncorrectable error marks its task, whose commands all run before it is saved (R330). -/
def State.noteLatch (s : State) (tid : Nat) (bad : Option W64) : State :=
  match bad, s.slotOfTid tid with
  | some va, some sid => s.modSlot sid (fun t => { t with latchErr := some (t.latchErr.getD va) })
  | _, _ => s

def accMask (d : BitVec 3) : BitVec 8 := 1#8 <<< d.toNat

/-- A queued command other than RMMA executes on core `core` (R371). -/
def State.runCmd (s : State) (core : Nat) (m : MCmd) : State :=
  let cl := coreCluster core
  let c := s.coreAt core
  match m.op with
  | .load toB lay va pages =>
    let (x, s) := State.readPages cl c.stale pages s va.toNat (loadBytes lay)
    let tb := tileBytes (layFmt lay)
    let codes := if layNosc lay then [] else (List.range 32).map (fun i => bitsAt x (8 * (tb + i)) 8)
    let super : W32 := if layNosc lay then 0x3F800000 else BitVec.ofNat 32 (bitsAt x (8 * (tb + 32)) 32)
    let l : Latch := ⟨lay, m.sid, m.run, x % 2 ^ (8 * tb), if layFmt lay ≤ 2 then codes else [], super,
      poisonIn s.poison pages va.toNat (loadBytes lay)⟩
    let s := s.noteLatch m.tid l.bad
    s.modCore core (fun c =>
      if !toB then { c with latchA := some l }
      else if layHi lay then { c with latchBhi := some l }
      else { c with latchB := some l })
  | .zero d => (s.modCore core (fun c => c.putAcc d 0)).dirtyAcc m.tid (accMask d)
  | .store wide d va pages =>
    if wide then State.writePages cl pages s va.toNat 8192 (wideStore (c.getAcc d) (c.getAcc (d + 1)))
    else State.writePages cl pages s va.toNat 4096 (c.getAcc d).toNat
  | .row d line sel =>
    (s.modCore core (fun c =>
      let old := c.getAcc d
      c.putAcc d (accOf (fun i j =>
        if i = sel % 32 ∧ j / 16 = sel / 32 then laneOf 32 line (j % 16) else accElem old i j)))).dirtyAcc m.tid (accMask d)
  | .mma p d ea eb =>
    let s := { s with free := s.free + 2048 }
    (s.modCore core (fun c => mmaInto c s.free p d (pairScale p ea eb) c.latchA c.latchB c.latchBhi)).dirtyAcc m.tid
      (if p = 8 then accMask d ||| accMask (d + 1) else accMask d)
  | .rmma _ _ _ => s

def isRmma (m : MCmd) : Bool := match m.op with
  | .rmma _ _ _ => true
  | _ => false

/-- A command names an accumulator (R370). -/
def MOp.names (o : MOp) (d : BitVec 3) : Bool := match o with
  | .load _ _ _ _ => false
  | .zero e => e == d
  | .store wide e _ _ => e == d || (wide && e + 1 == d)
  | .row e _ _ => e == d
  | .mma p e _ _ => e == d || (p == 8 && e + 1 == d)
  | .rmma _ _ _ => true

/-- R370: claims that MFREE returned, whose last queued command has completed, are free. -/
def CoreSt.settle (c : CoreSt) : CoreSt :=
  let go := fun (i : Nat) => c.freeing.getLsbD i &&
    !(c.cmds.any (fun m => some m.tid == RegFile.read c.claim (BitVec.ofNat 3 i) && m.op.names (BitVec.ofNat 3 i)))
  if c.freeing = 0 then c
  else { c with
    claim := Vector.ofFn (fun i : Fin (2 ^ 3) => if go i.val then none else c.claim[i])
    freeing := BitVec.ofNat 8 (packDigits 1 (fun i => BitVec.ofBool (c.freeing.getLsbD i && !go i)) 8) }

/-- The head of the queue executes and leaves it; an RMMA waits for its ring (R382). -/
def State.runHead (s : State) (core : Nat) : State :=
  match (s.coreAt core).cmds with
  | [] => s
  | m :: rest => if isRmma m then s else (s.runCmd core m).modCore core (fun c => { c with cmds := rest }.settle)

def headRmma (c : CoreSt) : Option (Nat × W32 × W32 × Nat) := match c.cmds with
  | m :: _ => match m.op with
    | .rmma p a b => some (p, a, b, m.tid)
    | _ => none
  | [] => none

/-- R382: all eight RMMAs are at the heads of their queues, those of a gang that has dissolved since they queued too. -/
def State.ringReady (s : State) (tr : Nat) : Bool :=
  (List.range 8).all (fun p => (headRmma (s.coreAt (tr * 8 + p))).isSome)

/-- The gang dissolves or breaks; a ring of its RMMAs that runs goes on. -/
def Gang.dissolve (g : Gang) : Gang := { g with seats := [], formed := false }

/-- R382: one step of the ring: a[q] += A of p × B tile of q on every core, then every B tile moves from position q to
q − 1. After step 7 the RMMAs complete and their gang dissolves. -/
def State.ringStep (s : State) (tr : Nat) : State :=
  if s.ringReady tr then
    let g := s.gangAt tr
    let at_ := fun p => s.coreAt (tr * 8 + p % 8)
    let s0 := { s with free := s.free + 8192 }
    let s1 := (List.range 8).foldl (fun st p =>
      let q := (p + g.step) % 8
      match headRmma (at_ p), headRmma (at_ q) with
      | some (pr, ea, _, tid), some (_, _, eb, _) =>
        let c := at_ p
        let c' := mmaInto c (s.free + 1024 * p) pr (BitVec.ofNat 3 q) (pairScale pr ea eb) c.latchA c.latchB c.latchBhi
        let nxt := at_ (p + 1)
        let c' := { c' with latchB := nxt.latchB, latchBhi := nxt.latchBhi, cmds := if g.step = 7 then c.cmds.tail else c.cmds }
        (st.modCore (tr * 8 + p) (fun _ => c'.settle)).dirtyAcc tid (accMask (BitVec.ofNat 3 q))
      | _, _ => st) s0
    let own := g.formed && g.seats.all (fun e => (headRmma (at_ e.1)).any (fun h => h.2.2.2 == e.2))
    s1.setGang tr (if g.step = 7 then (if own then Gang.reset else { g with step := 0, running := false })
      else { g with step := g.step + 1, running := true })
  else s

/-- R330: the queued commands of a task execute; a ring already in the queues completes. -/
def State.drainCmds : Nat → State → Nat → Nat → State
  | 0, s, _, _ => s
  | f + 1, s, core, tid =>
    let c := s.coreAt core
    if c.cmds.any (fun m => m.tid == tid) then
      match headRmma c with
      | none => State.drainCmds f (s.runHead core) core tid
      | some _ =>
        let tr := coreTroupe core
        let s := (List.range 8).foldl (fun s p => (s.runHead (tr * 8 + p)).runHead (tr * 8 + p)) s
        State.drainCmds f ((List.range 8).foldl (fun s _ => s.ringStep tr) s) core tid
    else s

end Sys2Proof.Machine
end

