-- ==== Sys2Proof/Machine/Frame.lean ====
section
/-! DEFINITION. The life of a task on its slot: handler start state (R37), its end (R42), discard (R39), save to and
restore from its frame (R326 to R330), gangs that break (R383), barriers that lose an arrival (R269). -/

namespace Sys2Proof.Machine

/-- R37: the slot of a task whose image is bound. -/
def Slot.start (i : Image) (tid : Nat) : Slot :=
  let r := i.regs.getD []
  let x0 : RegFile 5 W64 := Vector.replicate 32 0
  let x1 := RegFile.write (RegFile.write (RegFile.write (RegFile.write x0 1 i.w1) 2 i.w2) 3 i.w3) 4 i.w4
  let x2 := RegFile.write (RegFile.write (RegFile.write (RegFile.write x1 5 (recWord r 0)) 6 (recWord r 1)) 7 (recWord r 2)) 8 (recWord r 3)
  { Slot.reset with
    task := some ⟨tid, i⟩
    x := x2
    pc := i.handler
    prio := BitVec.ofNat 2 i.cls
    cmtd := !i.idem
    run := tid }

/-! ### Frames (R326 to R329) -/

/-- Frames and extensions in use by tasks of a job. -/
def State.framesUsed (s : State) (job : W32) : List Nat :=
  (s.slots.filter (fun e => e.2.task.isSome && e.2.job == job)).map (·.2.frame) ++
    (s.saved.filter (fun e => e.2.slot.job == job)).map (·.2.slot.frame)
def State.extsUsed (s : State) (job : W32) : List Nat :=
  (s.slots.filter (fun e => e.2.task.isSome && e.2.job == job)).map (·.2.ext) ++
    (s.saved.filter (fun e => e.2.slot.job == job)).map (·.2.slot.ext)

/-- R326: the lowest free frame of the job's pool (log 14), 0 when none is free. -/
def State.freeFrame (s : State) (job : W32) : Nat :=
  let r := s.record job
  let used := s.framesUsed job
  match firstIdx (fun i => !used.contains ((recWord r 2).toNat + 4096 * i)) ((recWord r 3).toNat / 2 ^ 32) 0 with
  | some i => (recWord r 2).toNat + 4096 * i
  | none => 0

/-- R330: the lowest free accumulator extension. -/
def State.freeExt (s : State) (job : W32) : Nat :=
  let r := s.record job
  let used := s.extsUsed job
  match firstIdx (fun i => !used.contains ((recWord r 4).toNat + 32768 * i)) ((recWord r 5).toNat / 2 ^ 32) 0 with
  | some i => (recWord r 4).toNat + 32768 * i
  | none => 0

def State.frameW (s : State) (t : Slot) (off n x : Nat) : State :=
  s.agentWrite t.job (BitVec.ofNat 64 (t.frame + off)) n x
def State.frameR (s : State) (t : Slot) (off n : Nat) : Nat := s.agentRead t.job (BitVec.ofNat 64 (t.frame + off)) n

/-- The accumulators a task holds, as a mask (R370). -/
def claimMask (c : CoreSt) (tid : Nat) : BitVec 8 :=
  BitVec.ofNat 8 (packDigits 1 (fun i => BitVec.ofBool (RegFile.read c.claim (BitVec.ofNat 3 i) == some tid && !c.freeing.getLsbD i)) 8)

/-- R327: the words of a stream name. -/
def streamWords (z : Stream) : List W64 :=
  match z.cfg with
  | none => [0, 0, 0, 0, 0, 0, 0xFF00, 0]
  | some c => [c.base, BitVec.ofNat 64 (c.cnt1 * 2 ^ 32 + c.cnt0), BitVec.ofNat 64 c.cnt2, c.str0, c.str1, c.str2,
      BitVec.ofNat 64 (c.hint.toNat + (match z.reg with
        | some r => r.toNat
        | none => 0xFF) * 2 ^ 8 + 2 ^ 16 + z.i2 * 2 ^ 32), BitVec.ofNat 64 (z.i0 + z.i1 * 2 ^ 32)]

/-- The stream name that those words give; a bound register is one of v24 to v31. -/
def streamOf (x : Nat) : Stream :=
  let w := fun i => word64 x i
  let r := bitsAt (w 6).toNat 8 8
  if (w 6).getLsbD 16 then
    { Stream.none with
      cfg := some ⟨w 0, (w 1).toNat % 2 ^ 32, (w 1).toNat / 2 ^ 32, (w 2).toNat % 2 ^ 32, w 3, w 4, w 5, (w 6).setWidth 2⟩
      i0 := (w 7).toNat % 2 ^ 32
      i1 := (w 7).toNat / 2 ^ 32
      i2 := (w 6).toNat / 2 ^ 32
      reg := if 24 ≤ r ∧ r ≤ 31 then some (BitVec.ofNat 5 r) else none }
  else Stream.none

/-- R328: the header words. -/
def headerWords (s : State) (sid st : Nat) (trap : Option (Cause × W64)) (t : Slot) : List W64 :=
  let code := (trap.map (·.1.code)).getD 0
  [BitVec.ofNat 64 (2 ^ 56 + code * 2 ^ 16 + (if t.cmtd then 2 ^ 8 else 0) + st), t.image.w0, t.image.w5, t.image.w6,
    s.srcNum sid ++ BitVec.ofNat 32 t.failCause, (match t.wait with
      | some w => BitVec.ofNat 64 (w.kind * 2 ^ 56 + w.operand.toNat % 2 ^ 56)
      | none => 0), (match t.wait with
      | some w => if w.kind = 1 then w.expect else 0
      | none => 0), (match trap with
      | some (_, v) => v
      | none => t.failAddr)]

/-- The special bytes at 0x170 (R327) of a task of cluster `cl`, with its own issue class (R62). -/
def specialBytes (s : State) (cl : Nat) (t : Slot) : Nat :=
  t.fsr.toNat + t.fen.toNat * 2 ^ 32 + t.rnrlim.toNat * 2 ^ 64 + t.prio.toNat * 2 ^ 72
    + s.raisedClass cl t.launch t.tid t.prio.toNat * 2 ^ 80 + t.laneDone.toNat * 2 ^ 96

/-- Writes those of `n` units of `k` bytes whose mask bit is set. -/
def State.frameUnits (s : State) (t : Slot) (off k : Nat) (mask : Nat) (f : Nat → Nat) (n : Nat) : State :=
  (List.range n).foldl (fun s i => if mask.testBit i then s.frameW t (off + k * i) k (f i) else s) s

/-- R327, R329: every dirty unit of the register images. -/
def State.writeUnits (s : State) (sid : Nat) (t : Slot) : State :=
  let d := t.dirty
  let s := s.frameUnits t 0x040 8 d.x.toNat (fun i => if i = 0 then t.pc.toNat else (t.getX (BitVec.ofNat 5 i)).toNat) 32
  let s := s.frameUnits t 0x140 2 (d.p.toNat ||| 128) (fun i => (t.getP (BitVec.ofNat 3 i)).toNat) 8
  let s := s.frameUnits t 0x150 4 d.e.toNat (fun i => (RegFile.read t.e (BitVec.ofNat 3 i)).toNat) 8
  let s := if d.x.getLsbD 0 then s.frameW t 0x170 16 (specialBytes s (sid / 512) t) else s
  let s := s.frameUnits t 0x180 64 d.v.toNat (fun i => (RegFile.read t.v (BitVec.ofNat 5 i)).toNat) 32
  let s := s.frameUnits t 0x980 64 d.z.toNat (fun i => ofWords (streamWords (RegFile.read t.z (BitVec.ofNat 3 i)))) 8
  s.frameW t 0xB80 256 (ofWords (t.compl.flatMap (fun e => [e.1.setWidth 64, e.2])))

/-- R327: the 2-bit answer codes of the lanes (log 27): 0 outstanding, 1 answered, 2 failed. -/
def laneCodes (fail : Option (Nat × Cause × W64)) (done : BitVec 16) : Nat :=
  packDigits 2 (fun i => if done.getLsbD i then 1 else if fail.any (fun f => f.1 == i) then 2 else 0) 16

/-- The lanes that a request's answer serves; an instruction that is no vector form counts as lane 0. -/
def Cont.laneMask : Cont → BitVec 16
  | .lanes _ _ _ which => which.foldl (fun m x => setBit m x.1) 0
  | .load _ _ _ => 1
  | .waitm _ _ => 1
  | .store => 1
  | .atomic _ _ => 1
  | .block => 1
  | .msg _ => 1
  | .row _ _ _ => 0
  | .tile _ _ _ _ => 0
  | .stream _ => 0
  | .whirl _ => 0
  | .keys _ _ => 0

/-- R327: the lanes whose requests are outstanding. -/
def State.lanesOut (s : State) (rids : List Nat) : BitVec 16 :=
  (s.reqs.filter (fun r => rids.contains r.rid)).foldl (fun m r => m ||| r.cont.laneMask) 0

/-- R327: the pending-instruction block: the instruction words, the lanes outstanding and their answer codes (log 27); of a WREAD
the word, and its one answer outstanding. -/
def State.writePending (s : State) (t : Slot) : State :=
  match t.pend with
  | some (.remote _ _ rids fail done _) =>
    s.frameW t 0xC80 64 (t.word.toNat + (s.lanesOut rids).toNat * 2 ^ 64 + laneCodes fail done * 2 ^ 96)
  | some (.wread _ _ _) => s.frameW t 0xC80 64 (t.word.toNat + 2 ^ 64)
  | _ => s.frameW t 0xC80 64 0

/-- R327 to R330: the header, then every dirty unit, the last-save masks (of accumulators, the held ones alone), claims and the
extension. -/
def State.writeFrame (s : State) (sid st : Nat) (trap : Option (Cause × W64)) (t : Slot) : State :=
  if t.frame = 0 then s
  else
    let d := t.dirty
    let c := s.coreAt (sidCore sid)
    let s := s.frameW t 0 64 (ofWords (headerWords s sid st trap t))
    let s := (s.writeUnits sid t).writePending t
    let s := s.frameW t 0xCC0 704 0
    let m := claimMask c t.tid ||| t.owed
    let s := s.frameW t 0xF80 32 (d.x.toNat + d.v.toNat * 2 ^ 32
      + (d.p.toNat % 128 + d.e.toNat * 2 ^ 8 + d.z.toNat * 2 ^ 16 + (d.a &&& m).toNat * 2 ^ 24) * 2 ^ 64)
    let s := s.frameW t 0xFC0 64 (m.toNat + t.ext * 2 ^ 64)
    (List.range 8).foldl (fun s i => if (m &&& d.a).getLsbD i then
      s.agentWrite t.job (BitVec.ofNat 64 (t.ext + 4096 * i)) 4096 (c.getAcc (BitVec.ofNat 3 i)).toNat else s) s

/-- R328: the header of a saved task's frame is written again, as the task now stands. -/
def State.putHeader (s : State) (v : Saved) : State :=
  if v.slot.frame = 0 then s
  else s.frameW v.slot 0 64 (ofWords (headerWords s (v.core * 8 + v.num) v.st v.trap v.slot))

/-- A saved task's record changes, and the header of its frame with it (R328). -/
def State.putSaved (s : State) (tid : Nat) (v : Saved) : State := { s with saved := tset s.saved tid v }.putHeader v

/-- R329: what a restore reads: every unit of the frame that lies at a present page; a frame system software has not
mapped gives the saved values (log 6). The bits that every register lacks read zero, whatever the ESC wrote there (R73, R77,
R78, R146, R147). -/
def State.readFrame (s : State) (t : Slot) : Slot :=
  if t.frame = 0 ∨ (s.agentPlace t.job (BitVec.ofNat 64 t.frame)).isNone then t
  else
    let sp := s.frameR t 0x170 16
    { t with
      x := Vector.ofFn (fun i : Fin (2 ^ 5) => if i.val = 0 then 0 else BitVec.ofNat 64 (s.frameR t (0x040 + 8 * i.val) 8))
      pc := BitVec.ofNat 64 (s.frameR t 0x040 8 / 4 * 4)
      p := Vector.ofFn (fun i : Fin (2 ^ 3) => BitVec.ofNat 16 (s.frameR t (0x140 + 2 * i.val) 2))
      e := Vector.ofFn (fun i : Fin (2 ^ 3) => BitVec.ofNat 32 (s.frameR t (0x150 + 4 * i.val) 4))
      v := Vector.ofFn (fun i : Fin (2 ^ 5) => BitVec.ofNat 512 (s.frameR t (0x180 + 64 * i.val) 64))
      z := Vector.ofFn (fun i : Fin (2 ^ 3) => streamOf (s.frameR t (0x980 + 64 * i.val) 64))
      fsr := BitVec.ofNat 32 sp &&& fsrMask
      fen := BitVec.ofNat 32 (sp / 2 ^ 32) &&& fenMask
      rnrlim := if sp / 2 ^ 64 % 16 = 0 then 1 else BitVec.ofNat 4 (sp / 2 ^ 64)
      prio := BitVec.ofNat 2 (sp / 2 ^ 72)
      laneDone := BitVec.ofNat 16 (sp / 2 ^ 96) }

/-! ### Gangs, barriers, claims -/

/-- R383: the gang of a troupe breaks: members standing at an RMMA trap ILLEGAL, arrivals and seats are withdrawn. -/
def State.breakGang (s : State) (tr : Nat) : State :=
  let g := s.gangAt tr
  let s := s.setGang tr g.dissolve
  let drop := fun (t : Slot) => match t.pend with
    | some (.ring _ _ _ w) => { t with pend := none, forced := some (.illegal, w.setWidth 64) }
    | some .gang => { t with pend := none }
    | _ => t
  g.seats.foldl (fun s e => match s.slotOfTid e.2 with
    | some sid => s.modSlot sid drop
    | none => { s with saved := s.saved.map (fun v => if v.1 = e.2 then (v.1, { v.2 with slot := drop v.2.slot }) else v) }) s

/-- A task that leaves a gang not formed stands at its MGANG no more: it executes it again (R383). -/
def Slot.unseat (t : Slot) : Slot := if t.pend = some .gang then { t with pend := none } else t

def State.unseat (s : State) (tid : Nat) : State :=
  match s.slotOfTid tid with
  | some sid => s.modSlot sid Slot.unseat
  | none => { s with saved := s.saved.map (fun v => if v.1 = tid then (v.1, { v.2 with slot := v.2.slot.unseat }) else v) }

/-- The task has a seat and has not reached its RMMA in the queue. -/
def State.leaveGang (s : State) (core tid : Nat) : State :=
  let tr := coreTroupe core
  let g := s.gangAt tr
  if g.seats.any (fun e => e.2 == tid) && !((s.coreAt core).cmds.any (fun m => isRmma m && m.tid == tid)) then
    if g.formed then s.breakGang tr else (s.setGang tr { g with seats := g.seats.filter (fun e => e.2 != tid) }).unseat tid
  else s

/-- R383: a saved task leaves its gang, also where that is saved. -/
def State.leaveSavedGang (s : State) (core tid : Nat) : State :=
  let drop := fun (g : Gang) => if g.seats.any (fun e => e.2 == tid) then
    (if g.formed then g.dissolve else { g with seats := g.seats.filter (fun e => e.2 != tid) }) else g
  let s1 := (s.leaveGang core tid).unseat tid
  { s1 with sched := { s1.sched with saves := s1.sched.saves.map (fun v => { v with gangs := v.gangs.map (fun x => (x.1, drop x.2)) }) } }

/-- R269: an arrival is withdrawn; the generation keeps it until the cycle is over, in which an opening would win. -/
def State.withdraw (s : State) (cl tid : Nat) : State :=
  s.modCluster cl (fun c => { c with bars := c.bars.map (fun b => b.map (fun b =>
    if b.arrived.contains tid then { b with arrived := b.arrived.filter (· != tid), lost := b.lost ++ [(tid, s.cyc)] } else b)) })

/-- R370: claims are released. -/
def State.releaseClaims (s : State) (core tid : Nat) : State :=
  s.modCore core (fun c => { c with
    claim := c.claim.map (fun o => if o = some tid then none else o)
    freeing := BitVec.ofNat 8 (packDigits 1 (fun i => BitVec.ofBool
      (c.freeing.getLsbD i && RegFile.read c.claim (BitVec.ofNat 3 i) != some tid)) 8) })

/-- R369: the latch records of a slot are cleared. -/
def State.clearLatch (s : State) (core sid : Nat) : State :=
  let f := fun (o : Option (Nat × Nat × Nat)) => match o with
    | some (a, b, c) => if b = sid then none else some (a, b, c)
    | none => none
  s.modCore core (fun c => { c with ownA := f c.ownA, ownB := f c.ownB, ownBhi := f c.ownBhi })

/-- R124: the task leaves the waiting order of the queues. -/
def State.leaveQueues (s : State) (core sid : Nat) : State :=
  s.modCore core (fun c => { c with qWait := c.qWait.map (fun l => l.filter (fun k => k / 2 != sid)) })

/-- R124: a waiting QPOP (`push` 0) or QPUSH (1) takes its place by the time its wait began. -/
def State.joinQueue (s : State) (core sid q push : Nat) : State :=
  let since := fun k => match (s.slotAt (k / 2)).wait with
    | some w => w.since
    | none => s.cyc
  let ins := fun (l : List Nat) => l.filter (fun k => decide (since k ≤ since (2 * sid))) ++ [2 * sid + push]
    ++ l.filter (fun k => !decide (since k ≤ since (2 * sid)))
  s.modCore core (fun c => { c with qWait := RegFile.write c.qWait (BitVec.ofNat 2 q) (ins (RegFile.read c.qWait (BitVec.ofNat 2 q))) })

/-- R208, R212: fetches under way for a stream of a slot, or for all, bring nothing any more. -/
def State.dropStreamReqs (s : State) (sid : Nat) (k : Option (BitVec 3)) : State :=
  { s with reqs := s.reqs.filter (fun r => !(r.sid == sid && (match r.cont with
    | .stream j => k.isNone || k == some j
    | _ => false))) }

/-- What every end of a run on a slot does: urgent window (R64), latch records (R369), waiting orders, fetches. -/
def State.vacate (s : State) (sid : Nat) : State :=
  let core := sidCore sid
  ((((s.dropStreamReqs sid none).closeIfOpener sid).clearLatch core sid).leaveQueues core sid).setSlot sid Slot.reset

/-- R42, R204, R370: the task on a slot ends: its queued commands complete, its claims are released, its gang breaks
under R383, its streams and completions go, the slot frees, and the end is counted (R45). -/
def State.endTask (s : State) (sid : Nat) : State :=
  let t := s.slotAt sid
  let core := sidCore sid
  let s := s.leaveGang core t.tid
  let s := State.drainCmds 16 s core t.tid
  let s := (s.releaseClaims core t.tid).vacate sid
  s.countDown t.launch 1

/-- R72: a DONE or HOP ends a task of the job in this cycle. -/
def State.noteEnd (s : State) (job : W32) : State :=
  { s with sched := { s.sched with slice := s.sched.slice.map (fun v => if v.job = job then { v with ended := some s.cyc } else v) } }

/-- The task on a slot ends by its own DONE or HOP. -/
def State.doneTask (s : State) (sid : Nat) : State := (s.noteEnd (s.slotAt sid).job).endTask sid

/-- R39: the image of an uncommitted task as it stood when bound; the slot frees, nothing in memory is undone. -/
def State.dropTask (s : State) (sid : Nat) : State :=
  let t := s.slotAt sid
  let core := sidCore sid
  let s := s.withdraw (coreCluster core) t.tid
  let s := s.leaveGang core t.tid
  let s := State.drainCmds 16 s core t.tid
  (s.releaseClaims core t.tid).vacate sid

/-- R39: discard for an error or at the ESC's request: the image goes to the head of its class sub-queue. -/
def State.discard (s : State) (sid : Nat) (mark : Bool) : State :=
  let i := (s.slotAt sid).image
  (s.dropTask sid).requeueHead (sidCore sid) { i with marked := i.marked || mark }

/-- R41, R326 to R330: the task on a slot is saved with a header state, and the slot frees. -/
def State.saveTask (s : State) (sid st : Nat) (trap : Option (Cause × W64)) (ready : Bool) : State :=
  let core := sidCore sid
  let tid := (s.slotAt sid).tid
  let s := State.drainCmds 16 s core tid
  let t := s.slotAt sid
  let s := s.writeFrame sid st trap t
  let z := t.z.map (fun z => { z with buf := [], engine := false })
  let pend := match t.pend with
    | some .tlb => none
    | some (.ring _ _ _ _) => none
    | p => p
  let t' := { t with z := z, dirty := ⟨0, 0, 0, 0, 0, 0⟩, pend := pend }
  let s := { s with saved := tset s.saved tid ⟨st, core, sidNum sid, t', trap, ready, s.cyc, 0⟩ }
  (s.releaseClaims core tid).vacate sid

/-- R330: accumulator `i` is claimed again and loaded from the extension. -/
def State.retake (s : State) (sid : Nat) (i : Nat) : State :=
  let t := s.slotAt sid
  s.modCore (sidCore sid) (fun c =>
    { c.putAcc (BitVec.ofNat 3 i) (BitVec.ofNat 32768 (s.agentRead t.job (BitVec.ofNat 64 (t.ext + 4096 * i)) 4096)) with
      claim := RegFile.write c.claim (BitVec.ofNat 3 i) (some t.tid) })

/-- R330: a task takes the accumulators it held again, once no other task holds any of them. -/
def State.reclaim (s : State) (sid : Nat) : State :=
  let m := (s.slotAt sid).owed
  if m ≠ 0 ∧ (List.range 8).all (fun i => !m.getLsbD i || (RegFile.read (s.coreAt (sidCore sid)).claim (BitVec.ofNat 3 i)).isNone) = true then
    ((List.range 8).foldl (fun s i => if m.getLsbD i then s.retake sid i else s) s).modSlot sid (fun t => { t with owed := 0 })
  else s

/-- R212, R326, R329, R330: a saved task resumes in a slot of its core: registers from its frame, its accumulators as soon as
they are free, a new run of the latches. -/
def State.restoreTask (s : State) (sid : Nat) (v : Saved) : State :=
  let core := sidCore sid
  let t := s.readFrame v.slot
  let clean := decide (t.laneDone ≠ 0) && t.pc != t.lanePc
  let t := { t with
    run := s.nextTid
    laneDone := if clean then 0 else t.laneDone
    yielding := none
    forced := v.trap
    wait := t.wait.map (fun (w : WaitRec) => if w.kind = 7 then { w with expect := BitVec.allOnes 64 } else w)
    owed := if t.ext = 0 then 0 else BitVec.ofNat 8 (s.frameR t 0xFC0 1) }
  let s := { s with nextTid := s.nextTid + 1, saved := tdel s.saved t.tid }
  let s := (s.setSlot sid t).modCore core (fun c => { c with parkTo := tdel c.parkTo (sidNum sid) })
  let s := match t.wait with
    | some w => if w.kind = 3 then s.joinQueue core sid w.operand.toNat w.expect.toNat else s
    | none => s
  s.reclaim sid

end Sys2Proof.Machine
end

