-- ==== Sys2Proof/Machine/Ops.lean ====
section
/-! DEFINITION. How an instruction ends: it retires, waits, misses a translation, or takes an exception. The one trap
entry (R321 to R324, R393) and the return from it (R325); commit (R38, R326); translation misses and page requests (R303,
R310, R311, R395); what a remote answer does to a task that is bound or saved (R114). -/

namespace Sys2Proof.Machine

/-- Why an instruction does not retire. -/
inductive Stop
  /-- the trap of a cause, with its TRAPVAL (R321) -/
  | trap (c : Cause) (v : W64)
  /-- a trap for which no TRAPVAL is stated (log 18): a free value -/
  | unstated (c : Cause)
  /-- an enabled floating-point event: the flags raised (R150) -/
  | fp (fl : Flags)
  /-- a translation miss (R303) -/
  | miss (acc : Acc) (va : W64)
  /-- a wait of a kind of R332 (0: a stall that is not counted), with its operand and WAITM's expected value -/
  | wait (kind : Nat) (operand expect : W64)
deriving DecidableEq, Repr

/-- The result of an instruction: the state after it, or why it does not retire. -/
abbrev Res := Except Stop

/-- A check of an instruction's entry: `bad` ends it with the trap. -/
def trapIf (bad : Bool) (c : Cause) (v : W64) : Res Unit := if bad then .error (.trap c v) else .ok ()

/-- A check whose trap has no stated TRAPVAL (log 18). -/
def openIf (bad : Bool) (c : Cause) : Res Unit := if bad then .error (.unstated c) else .ok ()

def waitIf (w : Bool) (kind : Nat) (operand : W64) : Res Unit := if w then .error (.wait kind operand 0) else .ok ()

/-- The TRAPVAL of ILLEGAL and PRIV: the instruction word (R321). -/
def State.irVal (s : State) : W64 := s.ir.setWidth 64

def State.illegalIf (s : State) (bad : Bool) : Res Unit := trapIf bad .illegal s.irVal
/-- R86 step 2. -/
def State.privIf (s : State) (bad : Bool) : Res Unit := trapIf bad .priv s.irVal

/-! ### Commit -/

/-- R38, R326: an uncommitted task commits, reserving a frame if it has none; while no frame is free it stalls. -/
def State.commit (s : State) : Res State :=
  let t := s.slot
  if t.cmtd then .ok s
  else
    let f := if t.frame ≠ 0 then t.frame else s.freeFrame t.job
    if f = 0 then .error (.wait 10 0 0) else .ok (s.mod (fun t => { t with cmtd := true, frame := f }))

/-! ### Taking an exception -/

/-- R393: a trap on a service core ends its task and goes to a steward of the die. -/
def State.serviceTrap (s : State) (sid : Nat) (c : Cause) (v : W64) : State :=
  let t := s.slotAt sid
  let die := coreDie (sidCore sid)
  let dst := die * 2048 + (if sidCore sid = die * 2048 + 34 then 35 else 34)
  let i := s.deviceImage sid Config.stewardTrapEntry t.job t.image.fn
    (s.srcNum sid ++ BitVec.ofNat 32 c.code) t.pc v 0
  (s.endTask sid).post dst i true

/-- R323 step 3: the trap message. -/
def State.trapMessage (s : State) (sid : Nat) (t : Slot) (c : Cause) (v : W64) (held : Bool) (frame : Nat) : State :=
  s.toEsc (coreCluster (sidCore sid)) sid t.job t.image.fn
    (s.srcNum sid ++ BitVec.ofNat 32 (c.code + if held then 256 else 0)) t.pc v (BitVec.ofNat 64 frame)

/-- Taking an exception (R322 to R324, R393): the task of slot `sid` traps at its PC with a cause and TRAPVAL. -/
def State.takeTrap (s : State) (sid : Nat) (c : Cause) (v : W64) : State :=
  let t := s.slotAt sid
  if !isWorkerCore (sidCore sid) then s.serviceTrap sid c v
  else if c = .mcheck ∧ t.cmtd = false ∧ t.image.marked = false then s.discard sid true
  else
    let frame := if t.frame ≠ 0 ∨ t.cmtd then t.frame else s.freeFrame t.job
    if frame = 0 ∧ t.cmtd = false then (s.discard sid false).trapMessage sid t c v false 0
    else
      let s1 := s.modSlot sid (fun t => { t with
        frame := frame, pend := none, starting := none, forced := none, deny := [], blk := none
        wait := if c = .watchdog then t.wait else none })
      (s1.saveTask sid 4 (some (c, v)) false).trapMessage sid t c v true frame

/-! ### Return from an exception -/

/-- The trapped task of a cluster whose frame is at the address (R397): its state is TRAPPED, or was when its job's slice
ended (R331). -/
def State.trappedAt (s : State) (cl : Nat) (frame : Nat) : Option (Nat × Saved) :=
  s.saved.find? (fun e => (e.2.st == 4 || (e.2.st == 1 && e.2.old == 4)) && e.2.slot.frame == frame && frame != 0
    && coreCluster e.2.core == cl)

/-- R325 RESUME: the task continues from its frame; its pending trap is gone. -/
def Saved.resume (v : Saved) : Saved :=
  { v with st := 1, old := 0, trap := none, ready := true, slot := { v.slot with forced := none, wait := none, blk := none } }

/-- R325 END: as DONE, without running further. -/
def State.endSaved (s : State) (tid : Nat) : State :=
  match tfind s.saved tid with
  | none => s
  | some v =>
    let s := { s with saved := tdel s.saved tid }.leaveSavedGang v.core tid
    let s := s.withdraw (coreCluster v.core) tid
    s.countDown v.slot.launch 1

/-- R325 DISCARD: the frame is free and the image goes to the head of its sub-queue. -/
def State.discardSaved (s : State) (tid : Nat) : State :=
  match tfind s.saved tid with
  | none => s
  | some v =>
    let s := { s with saved := tdel s.saved tid }.leaveSavedGang v.core tid
    (s.withdraw (coreCluster v.core) tid).requeueHead v.core v.slot.image

/-- The dispositions of R325, as ACTION codes: applied at once while the job holds the package, and at its next slice
otherwise (R331), when `old` keeps 8 + ACTION. -/
def State.dispose (s : State) (tid action : Nat) : State :=
  match tfind s.saved tid with
  | none => s
  | some v =>
    if v.st = 1 then { s with saved := tset s.saved tid { v with old := 8 + action } }
    else match action with
      | 0 => { s with saved := tset s.saved tid v.resume }
      | 1 => s.endSaved tid
      | _ => s.discardSaved tid

/-- Return from an exception (R325, R397): the release at PK, then the action on the trapped task whose frame is named. -/
def State.returnFrom (s : State) (frame : W64) (action : Nat) : Res State :=
  if s.hostBlocks s.clusterNo 2 then .error (.wait 0 0 0)
  else
    let s' := s.release s.clusterNo 2
    match s'.trappedAt s'.clusterNo frame.toNat with
    | none => .ok s'
    | some (tid, v) =>
      if action = 2 ∧ v.slot.cmtd = true then .error (.trap .illegal s.irVal) else .ok (s'.dispose tid action)

/-! ### Translation misses -/

/-- R395: bits 2:0 of x2 of a miss image. -/
def Acc.code : Acc → Nat
  | .read => 1
  | .write => 2
  | .atomic => 3
  | .fetch => 4

/-- R311: the task of a slot joins page request `k` of the list: a committed task is saved, an uncommitted one is
discarded and its image parked on the request. The wait of a WAITM runs on: its record keeps the cycle it began, marked by an
expected value of 1 (R133). -/
def State.joinPage (s : State) (k sid vpn : Nat) : State :=
  let t := s.slotAt sid
  match nth s.pageReqs k with
  | none => s
  | some r =>
    let join := fun (s : State) (j : Joined) =>
      { s with pageReqs := modAt (fun r => { r with joined := r.joined ++ [j] }) s.pageReqs k }
    if t.cmtd then
      let s := s.modSlot sid (fun t => { t with pend := none, starting := none, wait := some (match t.wait with
        | some w => if w.kind = 1 then WaitRec.mk 9 (BitVec.ofNat 64 r.prid) 1 w.since else WaitRec.mk 9 (BitVec.ofNat 64 r.prid) 0 s.cyc
        | none => WaitRec.mk 9 (BitVec.ofNat 64 r.prid) 0 s.cyc) })
      join (s.saveTask sid 3 none false) (.task t.tid vpn)
    else join (s.dropTask sid) (.image (sidCore sid) t.image vpn)

/-- A request of another package joins a page request (R310, R311). -/
def State.joinRemote (s : State) (k die src va : Nat) : State :=
  { s with pageReqs := modAt (fun r =>
      if r.joined.contains (.remote die src va) then r else { r with joined := r.joined ++ [.remote die src va] }) s.pageReqs k }

/-- R395: the miss image of a walk, to the TSC of its cluster; `src` is the source number of the requester. -/
def State.sendMiss (s : State) (cl sel : Nat) (src : W32) (job : W32) (fn : BitVec 7) (acc : Nat) (va : W64) : State :=
  s.toTsc cl (src.toNat % 2 ^ 16) job fn va (src ++ BitVec.ofNat 32 (acc + if sel = 63 then 8 else 0)) (BitVec.ofNat 64 sel) 0

/-- R303, R395: a miss joins the walk of its page, or begins one with the miss image to the TSC of cluster `cl`. `waiter` is the
slot and its task, a unit's number, or the source number and address of a remote request (selector 63); a PREF waits for none. -/
def State.addWalk (s : State) (cl sel : Nat) (src : W32) (job : W32) (fn : BitVec 7) (acc : Acc) (va : W64)
    (waiter : Option (Nat × Nat)) : State :=
  let ws := waiter.toList.map (fun w => (sel, w))
  let more := fun (l : List (Nat × Nat × Nat)) => l ++ ws.filter (fun x => !l.contains x)
  match firstIdx (fun k => (nth s.walks k).any (fun w => w.tsc == cl && w.job == job && w.vpn == vpnOf va)) s.walks.length 0 with
  | some k => { s with walks := modAt (fun w => { w with waiters := more w.waiters }) s.walks k }
  | none =>
    { s with walks := s.walks ++ [Walk.mk cl (vpnOf va) job fn acc.code sel src ws] }.sendMiss cl sel src job fn acc.code va

/-- R301: unit `u` of a core, at work for slot `sid`, has its TSC walk a page; it tries again. -/
def State.unitWalk (s : State) (sid : Nat) (job : W32) (fn : BitVec 7) (acc : Acc) (va : W64) (u : Nat) : State :=
  s.addWalk (coreCluster (sidCore sid)) (coreNum (sidCore sid)) (s.srcNum sid) job fn acc va (some (u, 0))

/-- R308, R311: a unit meets the fault that its walk of the page ended in. -/
def State.meetLatched (s : State) (core u : Nat) (va : W64) : State :=
  s.modCore core (fun c => { c with latched := c.latched.filter (fun e => !(e.1 == u && e.2.1 == vpnOf va)) })

/-- R211: what the bound streams of a slot have fetched ahead is fetched again. -/
def State.dropAhead (s : State) (sid : Nat) : State :=
  (s.dropStreamReqs sid none).modSlot sid (fun t => { t with z := t.z.map (fun z => { z with buf := [] }) })

/-- R210: some element that the slot's streams hold met an absent page. -/
def Slot.holdsPage (t : Slot) : Bool := t.z.toList.any (fun z => z.buf.any (fun e => e.fault.any (fun f => f.1 == .page)))

/-- R303: the access of slot `sid` missed: it joins an outstanding page request, or stalls while its page is walked; the wait of a
WAITM runs on meanwhile (R133). -/
def State.startMiss (s : State) (sid : Nat) (acc : Acc) (va : W64) : State :=
  let t := s.slotAt sid
  match s.pageReqOf t.job (vpnOf va) with
  | some k => s.joinPage k sid (vpnOf va)
  | none =>
    let s := if t.holdsPage then s.dropAhead sid else s
    let s := s.modSlot sid (fun t => { t with
      pend := some .tlb, wait := if t.wait.any (·.kind == 1) then t.wait else some (WaitRec.mk 9 va 0 s.cyc) })
    s.addWalk (coreCluster (sidCore sid)) (coreNum (sidCore sid)) (s.srcNum sid) t.job t.image.fn acc va
      (some (sid, t.tid))

/-! ### Waits -/

/-- The waits of R55 that close an urgent window (R64): WAITM, WAITC, queues, BAR. -/
def closesWindow (kind : Nat) : Bool := kind == 1 || kind == 2 || kind == 3 || kind == 4

/-- A normal slot issues: it is the one that issued last, unless its instruction turns out not to issue (R62). -/
def CoreSt.noteIssue (c : CoreSt) (num : Nat) : CoreSt :=
  if num < 4 then { c with lastIssued := num, prevIssued := some c.lastIssued } else { c with prevIssued := none }

/-- The thread does not issue after all, since it is not ready: the slot that issued last stays what it was (R62). -/
def CoreSt.unissue (c : CoreSt) : CoreSt :=
  match c.prevIssued with
  | some p => { c with prevIssued := none, lastIssued := p }
  | none => c

/-- A wait begins or goes on (R332). An instruction that stalls, or whose wait only goes on, took no issue cycle. -/
def State.startWait (s : State) (kind : Nat) (operand expect : W64) : State :=
  let s := if kind == 0 || s.slot.wait.any (fun w => w.kind == kind) then s.modCore s.core CoreSt.unissue else s
  let s' := { s with idle := s.idle + 1 }.mod (fun t => { t with tried := s.tick - (s.idle + 1), wait := match t.wait with
    | some w => if w.kind = kind then some { w with operand := operand, expect := expect } else some ⟨kind, operand, expect, s.cyc⟩
    | none => some ⟨kind, operand, expect, s.cyc⟩ })
  if closesWindow kind then s'.closeIfOpener s.cur else s'

/-- What becomes of an instruction that does not retire. -/
def State.stop (s : State) : Stop → State
  | .trap c v => (s.reportAt s.cur c v).takeTrap s.cur c v
  | .unstated c => (s.nextFree64.2).takeTrap s.cur c s.nextFree64.1
  | .fp fl => (s.mod (fun t => { t with fsr := t.fsr ||| fl.setWidth 32, dirty := { t.dirty with x := setBit t.dirty.x 0 } })).takeTrap
      s.cur .fp (fl.setWidth 64)
  | .miss acc va => s.startMiss s.cur acc va
  | .wait k o e => s.startWait k o e

/-- The outcome of an instruction's result. -/
def State.finish (s : State) (r : Res State) : Host.Outcome State Fault Refusal :=
  .next (match r with
    | .ok t => t
    | .error e => s.stop e)

/-- A scalar-guarded instruction of `len` bytes that changes the state by `f` when its guard bit is 1 (R83), after which
it retires. -/
def State.guarded (s : State) (g : BitVec 4) (len : Nat) (f : State → State) : Host.Outcome State Fault Refusal :=
  .next ((if s.runs g then f s else s).retire len)

/-- A scalar-guarded instruction with checks: a guarded-off one only retires. `f` retires or ends by itself. -/
def State.attempt (s : State) (g : BitVec 4) (len : Nat) (f : Res State) : Host.Outcome State Fault Refusal :=
  if s.runs g then s.finish f else .next (s.retire len)

/-! ### Tasks wherever they are -/

/-- A change to a task's slot, bound or saved; a saved task's frame takes the changed units and its header (R327, R328). -/
def State.modTask (s : State) (tid : Nat) (f : Slot → Slot) : State :=
  match s.slotOfTid tid with
  | some sid => s.modSlot sid f
  | none => match tfind s.saved tid with
    | some v =>
      let t := f v.slot
      let s := s.putSaved tid { v with slot := { t with dirty := ⟨0, 0, 0, 0, 0, 0⟩ } }
      if t.frame = 0 then s else (s.writeUnits (v.core * 8 + v.num) t).writePending t
    | none => s

/-- The core of a task, bound or saved. -/
def State.coreOf (s : State) (tid : Nat) : Nat :=
  match s.slotOfTid tid with
  | some sid => sidCore sid
  | none => ((tfind s.saved tid).map (·.core)).getD 0

/-- The slot of a task, bound or saved. -/
def State.taskSlot (s : State) (tid : Nat) : Option Slot :=
  match s.slotOfTid tid with
  | some sid => some (s.slotAt sid)
  | none => (tfind s.saved tid).map (·.slot)

/-- The instruction of a task, bound or saved, retires with a change to its registers. -/
def State.retireTask (s : State) (tid len : Nat) (f : Slot → Slot) : State :=
  let s' := s.modTask tid (fun t => (f t).advance (t.pc + BitVec.ofNat 64 len))
  match s.slotOfTid tid with
  | some sid => s'.countRetired sid
  | none => s'

/-- A trap that an answer brings to a task: taken at once on its slot, or at resumption when it is saved (R114), its header
naming it (R328). A parked task's WATCHDOG is taken where it stands saved (R323, R332). -/
def State.trapTask (s : State) (tid : Nat) (c : Cause) (v : W64) : State :=
  match s.slotOfTid tid with
  | some sid => s.takeTrap sid c v
  | none => match tfind s.saved tid with
    | some w =>
      let w' := { w with trap := some (c, v), slot := { w.slot with pend := none } }
      if c = .watchdog then
        (s.putSaved tid { w' with st := 4 }).trapMessage (w.core * 8 + w.num) w.slot c v true w.slot.frame
      else s.putSaved tid w'
    | none => s

/-- R260: the done lanes of an instruction with guard field `g` are marked. -/
def Slot.markDone (t : Slot) (g : BitVec 4) (done : BitVec 16) : Slot :=
  let n : BitVec 3 := g.setWidth 3
  if n = 7 then { t with laneDone := done, lanePc := t.pc, dirty := { t.dirty with x := setBit t.dirty.x 0 } }
  else if g.getLsbD 3 then t.putP n (t.getP n ||| done)
  else t.putP n (t.getP n &&& ~~~done)

/-- R258, R260, R311: the vector memory instruction of a bound slot ends in the fault of its lowest failing lane. An absent
page is joined; a request answered meanwhile lets the instruction issue again. -/
def State.lanesFail (s : State) (sid : Nat) (g : BitVec 4) (done : BitVec 16) (c : Cause) (v : W64) : State :=
  let s := s.modSlot sid (fun t => { t.markDone g done with pend := none })
  if c = .page ∧ isWorkerCore (sidCore sid) then
    match s.pageReqOf (s.slotAt sid).job (vpnOf v) with
    | some k => s.joinPage k sid (vpnOf v)
    | none => s
  else (s.reportAt sid c v).takeTrap sid c v

end Sys2Proof.Machine
end

