-- ==== Sys2Proof/Machine/Flags.lean ====
section
/-! DEFINITION. The flags and enables of floating point (R109, R146 to R150): how raised flags reach FSR, when they trap,
and the rounding mode in force. -/

namespace Sys2Proof.Machine

/-- FSR.RM (R146). -/
def State.rm (s : State) : RM := RM.ofCode (bitsAt s.slot.fsr.toNat 8 2)

/-- R150: the flags an instruction raised are ORed into FSR. -/
def Slot.orFlags (t : Slot) (fl : Flags) : Slot :=
  if fl = 0 then t else { t with fsr := t.fsr ||| fl.setWidth 32, dirty := { t.dirty with x := setBit t.dirty.x 0 } }

def State.orFlags (s : State) (fl : Flags) : State := s.mod (fun t => t.orFlags fl)

/-- R150: a raised flag is enabled in FEN. -/
def State.fpTraps (s : State) (fl : Flags) : Bool := (s.slot.fen.setWidth 6 &&& fl) != 0

/-- R109: the instruction traps FP when it raised an enabled flag; otherwise the flags go to FSR, the result is written
by `f` and the instruction of `len` bytes retires. -/
def State.fpEnd (s : State) (fl : Flags) (f : State → State) : Res State :=
  if s.fpTraps fl then .error (.fp fl) else .ok ((f (s.orFlags fl)).retire 4)

end Sys2Proof.Machine
end

