-- ==== Sys2Proof/Machine/Operands.lean ====
section
/-! DEFINITION. The operand forms: immediates (R81), addresses (R112, R258), ordering and scope codes (R88, R113), scalar
floating operands (R74), and vector operands with the streams that stand in for v24 to v31 (R74, R204 to R210). -/

namespace Sys2Proof.Machine

/-! ### Immediates and addresses -/

/-- A field sign-extended and multiplied by a scale (R81). -/
def scaledImm {n : Nat} (i : BitVec n) (k : Nat) : Int := i.toInt * k

/-- R81: off22, imm17 and imm32 as a distance in words from the instruction. -/
def State.pcPlus {n : Nat} (s : State) (o : BitVec n) : W64 := s.pc + (sext64 o) * 4

/-- R112: X[a] + off, computed exactly: the address, or none when it lies outside 0 to 2^64 − 1 (log 15). -/
def exactAddr (i : Int) : Option W64 := if 0 ≤ i ∧ i < 2 ^ 64 then some (BitVec.ofInt 64 i) else none

/-- The ADDR and ALIGN checks of R112 on an exact address; a misaligned access to the link window traps PERM (R354). -/
def checkAddr (i : Int) (size align : Nat) : Res W64 :=
  match exactAddr i with
  | none => .error (.trap .addr (BitVec.ofInt 64 i))
  | some va =>
    if addrFault va size then .error (.trap .addr va)
    else if va.toNat % align ≠ 0 then .error (.trap (if inLink va then .perm else .align) va)
    else .ok va

/-- Ordering codes of R88 and R265: 0 .rlx, 1 .acq, 2 .rel, 3 .ar, 4 .sc. -/
def ordAcq (o : Nat) : Bool := o == 1 || o == 3 || o == 4
def ordRel (o : Nat) : Bool := o == 2 || o == 3 || o == 4

/-! ### Scalar floating operands -/

/-- R104: type 0 is FP64, 1 FP32. -/
def fpFmt (t : Nat) : Fmt := if t = 0 then fp64 else fp32

/-- R74: the value an x register holds for a type. -/
def State.fx (s : State) (t : Nat) (r : BitVec 5) : Nat := if t = 0 then (s.x r).toNat else (s.x r).toNat % 2 ^ 32

/-! ### Vector operands -/

/-- The stream name bound to a vector register (R74, R207). -/
def Slot.boundTo (t : Slot) (r : BitVec 5) : Option (BitVec 3) :=
  (firstIdx (fun k => (RegFile.read t.z (BitVec.ofNat 3 k)).reg == some r) 8 0).map (BitVec.ofNat 3)

def Slot.isBound (t : Slot) (r : BitVec 5) : Bool := (t.boundTo r).isSome

/-- R205: every element has been taken. -/
def Stream.ended (z : Stream) : Bool :=
  match z.cfg with
  | .none => true
  | some c => c.cnt0 == 0 || c.cnt1 == 0 || c.cnt2 == 0 || decide (c.cnt2 ≤ z.i2)

/-- R205: the address of element (i0, i1, i2), computed exactly. -/
def StreamCfg.addr (c : StreamCfg) (i0 i1 i2 : Nat) : Int :=
  c.base.toNat + i0 * c.str0.toInt + i1 * c.str1.toInt + i2 * c.str2.toInt

/-- The index after (i0, i1, i2). -/
def StreamCfg.next (c : StreamCfg) (i : Nat × Nat × Nat) : Nat × Nat × Nat :=
  if i.1 + 1 < c.cnt0 then (i.1 + 1, i.2.1, i.2.2)
  else if i.2.1 + 1 < c.cnt1 then (0, i.2.1 + 1, i.2.2) else (0, 0, i.2.2 + 1)

/-- R209: the element at the head leaves the buffer and the index advances. -/
def Stream.pop (z : Stream) : Stream :=
  match z.cfg with
  | .none => z
  | some c =>
    let i := c.next (z.i0, z.i1, z.i2)
    { z with i0 := i.1, i1 := i.2.1, i2 := i.2.2, buf := z.buf.tail }

/-- The value an instruction reads from a vector register: the next element of a bound register, 64 zero bytes past the
end (R209), and the register's contents otherwise. -/
def State.vin (s : State) (r : BitVec 5) : Vec :=
  match s.slot.boundTo r with
  | none => s.v r
  | some k => match (RegFile.read s.slot.z k).buf with
    | e :: _ => if (RegFile.read s.slot.z k).ended then 0 else e.line
    | [] => 0

/-- The address of the next element of a stream that has one. -/
def Stream.headVa (z : Stream) : Option W64 :=
  z.cfg.bind (fun c => exactAddr (c.addr z.i0 z.i1 z.i2))

/-- R308, R311: the page of the address was refused to the task, or to its image and is absent still. -/
def State.pageRefused (s : State) (va : W64) : Bool :=
  s.slot.deny.contains (vpnOf va) ||
    (s.slot.image.deny.contains (vpnOf va) && (tlbLookup s.tables (s.asid s.slot.job) va).isNone)

/-- R311: the next element of a stream lies on a page refused to the task; one that was fetched, with no fault but the page's
absence, was read before an image's run could meet the refusal. -/
def State.elemRefused (s : State) (z : Stream) (va : W64) : Bool :=
  match z.buf with
  | [] => s.pageRefused va
  | e :: _ => match e.fault with
    | some (.page, _) => s.pageRefused va
    | _ => s.slot.deny.contains (vpnOf va)

/-- R209, R210: the element of one bound register is taken: the thread does not issue while it has not arrived, and a
fault held with it is taken here. An element on a page that was refused to the task traps PERM (R308, R311). -/
def State.takeElem (s : State) (r : BitVec 5) : Res State :=
  match s.slot.boundTo r with
  | none => .ok s
  | some k =>
    let z := RegFile.read s.slot.z k
    if z.ended then .ok s
    else if z.headVa.any (fun a => s.elemRefused z a) then .error (.trap .perm (z.headVa.getD 0))
    else match z.buf with
      | [] => .error (.wait 0 0 0)
      | e :: _ => match e.fault with
        | some (.page, a) => .error (.miss .read a)
        | some (c, a) => .error (.trap c a)
        | none => .ok (s.mod (fun t => t.putZ k z.pop))

/-- Every register of the list that is bound and not in `seen` gives one element, named once or often (R209). -/
def State.takeFrom (s : State) (seen : List (BitVec 5)) : List (BitVec 5) → Res State
  | [] => .ok s
  | r :: rs =>
    if seen.contains r then s.takeFrom seen rs
    else (s.takeElem r).bind (fun s => s.takeFrom (r :: seen) rs)

def State.takeElems (s : State) (l : List (BitVec 5)) : Res State := s.takeFrom [] l

/-- The physical stream engines the core's slots hold (R204). -/
def State.enginesHeld (s : State) (core : Nat) : Nat :=
  (List.range 8).foldl (fun n k => n + ((s.slotAt (core * 8 + k)).z.toList.filter (·.engine)).length) 0

/-- R212, R330: before it issues, a resumed task takes its accumulators again, and its bound names physical engines: all that they
need at once, or none while fewer are free; R212 speaks only of none being free (log 92). -/
def State.regainEngines (s : State) : Res State :=
  let s := s.reclaim s.cur
  if s.slot.owed ≠ 0 then .error (.wait 0 0 0) else
  let need := (s.slot.z.toList.filter (fun z => z.reg.isSome && !z.engine)).length
  if need = 0 then .ok s
  else if 8 < s.enginesHeld s.core + need then .error (.wait 6 0 0)
  else .ok (s.mod (fun t => { t with z := t.z.map (fun z => if z.reg.isSome then { z with engine := true } else z) }))

/-- R86 step 3: a destination is bound to a stream engine. -/
def State.boundIf (s : State) (dsts : List (BitVec 5)) : Res Unit := s.illegalIf (dsts.any s.slot.isBound)

/-- R392: queue, stream, matrix, lookup, Marionette, whirligig and BAR instructions trap ILLEGAL off the worker cores. -/
def State.workerOnly (s : State) : Res Unit := s.illegalIf (!s.worker)

/-- A lane-guarded vector instruction (R181): its destinations may not be bound, its sources give their elements, the
flags of its lanes trap or go to FSR, and `f` writes the result. -/
def State.vecEnd (s : State) (dsts srcs : List (BitVec 5)) (fl : Flags) (f : State → State) :
    Host.Outcome State Fault Refusal :=
  s.finish (do
    s.boundIf dsts
    let s1 ← s.takeElems srcs
    s1.fpEnd fl f)

end Sys2Proof.Machine
end

