-- ==== Sys2Proof/Machine/Port.lean ====
section
/-! DEFINITION. The registers of a Tchirrix port (R350 to R357): what the link window reads and writes, and the states a
write moves a port to (R347). The key bits themselves never leave the device (log 16). -/

namespace Sys2Proof.Machine

def State.port (s : State) (n : Nat) : Port := tget Port.reset s.fabric.ports n
def State.setPort (s : State) (n : Nat) (p : Port) : State :=
  { s with fabric := { s.fabric with ports := tset s.fabric.ports n p } }
def State.modPort (s : State) (n : Nat) (f : Port → Port) : State := s.setPort n (f (s.port n))

def Port.slot (p : Port) (b : Bool) : KeySlot := if b then p.slotB else p.slotA
def Port.setSlot (p : Port) (b : Bool) (k : KeySlot) : Port := if b then { p with slotB := k } else { p with slotA := k }
/-- The slot in force for sending (R350). -/
def Port.tx (p : Port) : KeySlot := p.slot p.txB
def Port.rx (p : Port) : KeySlot := p.slot p.rxB

/-- R352: NEAR. -/
def Port.near (p : Port) : Bool := decide (p.tx.lim.toNat - 1024 ≤ p.tx.txcnt.toNat)

def PortSt.code : PortSt → Nat
  | .down => 0
  | .training => 1
  | .nokey => 2
  | .up => 3
  | .disabled => 4

/-- R339, R352: UP, and able to send something new. -/
def Port.usable (p : Port) : Bool := p.st == .up && !p.limstall && decide (p.replay.length < 128)

/-- R1: the die that carries a port. -/
def portDie (n : Nat) : Nat := if n < 10 then n / 5 else if n < 14 then 2 else 3

/-- R343, R347, R402: the port leaves UP or TRAINING: its flits are forgotten, and the packets with an unacknowledged flit go
back to the gateway, to be sent on another port with the same RID and SEQ. -/
def State.portLeaves (s : State) (n : Nat) (st : PortSt) : State :=
  let p := s.port n
  let back := p.sent.map (fun k => (⟨k, portDie n, s.gtsOf 0, none⟩ : OutPkt))
  let downs := if p.st = .up ∧ st = .down then (if p.downs = 255 then 255 else p.downs + 1) else p.downs
  let s := s.setPort n { p with
    st := st, downs := downs, lanes := 0, replay := [], queue := [], asm := [], sent := [], naks := false
    attempts := 0, rxTries := 0, replayAt := none, entered := s.gtsOf 0 }
  let bad : W64 := if p.st = .up then BitVec.ofNat 64 (2 ^ (46 + n)) else 0
  { s with
    fabric := { s.fabric with out := s.fabric.out ++ back }
    health := { s.health with hlthst := s.health.hlthst ||| bad } }

/-- R347: NOKEY ends when the slots in force are READY. -/
def State.portUp (s : State) (n : Nat) : State :=
  let p := s.port n
  if p.st = .nokey ∧ p.tx.ready ∧ p.rx.ready then s.setPort n { p with st := .up, lastNew := s.gtsOf 0, entered := s.gtsOf 0 } else s

def State.setWerr (s : State) (n : Nat) : State := s.modPort n (fun p => { p with werr := true })

/-- R351, R353: a SWITCH write; a marker sent at a limit in the same cycle satisfies it. -/
def State.switchWrite (s : State) (n : Nat) : State :=
  let p := s.port n
  if p.swpend || p.autoAt == some s.cyc then s
  else if !(p.slot (!p.txB)).ready then s.setWerr n else s.setPort n { p with swpend := true }

/-- R350, R353: STATE := 1. -/
def State.keyReady (s : State) (n : Nat) (b : Bool) : State :=
  let p := s.port n
  let k := p.slot b
  if k.ready then s else (s.setPort n (p.setSlot b { k with ready := true, txcnt := 0, rxcnt := 0 })).portUp n

/-- R353: STATE := 0, refused for a slot in force while the port is UP. -/
def State.keyEmpty (s : State) (n : Nat) (b : Bool) : State :=
  let p := s.port n
  if p.st = .up ∧ (p.txB = b ∨ p.rxB = b) then s.setWerr n
  else s.setPort n (p.setSlot b { p.slot b with ready := false, key := 0, txsalt := 0, rxsalt := 0, txcnt := 0, rxcnt := 0 })

/-- R356: RETRAIN. -/
def State.retrainPort (s : State) (n : Nat) : State := s.portLeaves n .training

/-- R356: CLRERR clears the counters of LNK_ERR. -/
def State.clearErr (s : State) (n : Nat) : State := s.modPort n (fun p => { p with replays := 0, authfail := 0, downs := 0 })

/-- R356: DISABLE set or cleared. -/
def State.disablePort (s : State) (n : Nat) (on : Bool) : State :=
  if on then (if (s.port n).st = .disabled then s else s.portLeaves n .disabled)
  else if (s.port n).st = .disabled then s.portLeaves n .down else s

/-- R353, R354: a write to the salts, limit or key of a slot, refused while it is READY. -/
def State.keyWrite (s : State) (n : Nat) (b : Bool) (f : KeySlot → KeySlot) : State :=
  let p := s.port n
  if (p.slot b).ready then s.setWerr n else s.setPort n (p.setSlot b (f (p.slot b)))

/-- R355. -/
def Port.stat (p : Port) : W64 :=
  BitVec.ofNat 64 (p.partner.toNat * 2 ^ 48 + p.lanes * 2 ^ 32 + p.swpend.toNat * 2 ^ 11 + p.near.toNat * 2 ^ 10
    + p.limstall.toNat * 2 ^ 9 + p.rxB.toNat * 2 ^ 8 + p.txB.toNat * 2 ^ 7 + p.st.code)

/-- R357. -/
def Port.errWord (p : Port) : W64 :=
  BitVec.ofNat 64 (p.replays.toNat * 2 ^ 32 + p.authfail.toNat * 2 ^ 16 + p.downs.toNat * 2 ^ 8 + p.werr.toNat)

/-- R354: a read of the link window. -/
def State.linkRead (s : State) (n off : Nat) : W64 :=
  let p := s.port n
  if off = 0x000 then p.stat
  else if off = 0x008 then (if p.st = .disabled then 16 else 0)
  else if off = 0x010 then p.errWord
  else if 0x040 ≤ off ∧ off < 0x0C0 then
    let k := p.slot (decide (0x080 ≤ off))
    match off % 64 with
    | 0x00 => if k.ready then 1 else 0
    | 0x08 => k.txsalt.setWidth 64
    | 0x10 => k.rxsalt.setWidth 64
    | 0x18 => k.lim
    | 0x20 => k.txcnt
    | 0x28 => k.rxcnt
    | _ => 0
  else 0

/-- R354, R356: LNK_CTL. The bits of one write act in the order DISABLE, RETRAIN, CLRERR, SWITCH. -/
def State.linkControl (s : State) (n : Nat) (v : W64) : State :=
  let s := s.disablePort n (v.getLsbD 4)
  let s := if v.getLsbD 3 ∧ (s.port n).st ≠ .disabled then s.retrainPort n else s
  let s := if v.getLsbD 2 then s.clearErr n else s
  if v.getLsbD 0 then s.switchWrite n else s

/-- R354: a write to the link window. -/
def State.linkWrite (s : State) (n off : Nat) (v : W64) : State :=
  if off = 0x008 then s.linkControl n v
  else if off = 0x010 then (if v.getLsbD 0 then s.modPort n (fun p => { p with werr := false }) else s)
  else if 0x040 ≤ off ∧ off < 0x0C0 then
    let b := decide (0x080 ≤ off)
    match off % 64 with
    | 0x00 => match v.toNat % 4 with
      | 0 => s.keyEmpty n b
      | 1 => s.keyReady n b
      | _ => s.setWerr n
    | 0x08 => s.keyWrite n b (fun k => { k with txsalt := v.setWidth 32 })
    | 0x10 => s.keyWrite n b (fun k => { k with rxsalt := v.setWidth 32 })
    | 0x18 => if v.toNat < 2 then s.setWerr n else s.keyWrite n b (fun k => { k with lim := v })
    | _ => s
  else if 0x100 ≤ off ∧ off < 0x140 then
    let w := off % 32 / 8
    s.keyWrite n (decide (0x120 ≤ off)) (fun k => { k with
      key := (k.key &&& ~~~(0xFFFFFFFFFFFFFFFF#256 <<< (64 * w))) ||| (v.setWidth 256 <<< (64 * w)) })
  else s

end Sys2Proof.Machine
end

