-- ==== Sys2Proof/Machine/Access.lean ====
section
/-! DEFINITION. Accesses of a thread (R112 to R114, R223, R224): translation and its faults, reads and writes of a place
with hint, ordering and scope, and the requests that carry an access to another package or the host (R114, R261, R337). -/

namespace Sys2Proof.Machine

/-- `Translate` of R112 for the issuing slot: the place, or the trap or miss. A page refused to the task traps PERM (R308,
R311). A line the host holds is waited for until its back-invalidate completes (R406). -/
def State.place (s : State) (acc : Acc) (va : W64) (size : Nat) : Res Place :=
  match s.translate s.core s.slot.job acc va size with
  | .ok p =>
    if s.slot.deny.contains (vpnOf va) then .error (.trap .perm va)
    else if s.hostHolds p size then .error (.wait 0 va 0) else .ok p
  | .fault c => .error (.trap c va)
  | .miss => if s.pageRefused va then .error (.trap .perm va) else .error (.miss acc va)

/-- The place of an access that consumes data where it is no store: an uncorrectable block is MCHECK (R321, R324). -/
def State.reach (s : State) (acc : Acc) (va : W64) (size : Nat) : Res Place :=
  (s.place acc va size).bind (fun p =>
    if decide (acc ≠ .write) && s.spoiled p size then .error (.trap .mcheck va) else .ok p)

/-- A release would have to write back a line the host holds. -/
def State.relBlocked (s : State) (ord scope : Nat) : Res Unit :=
  waitIf (ordRel ord && s.hostBlocks s.clusterNo scope) 0 0

/-- R294: the ordering and scope in force on a place; `tso` is the ordering the attribute asks for: 1 a load, 2 a store, 3 an
atomic; .sc stays .sc (log 85). -/
def Place.ord (p : Place) (tso ord : Nat) : Nat := if p.tso && ord != 4 then tso else ord
def Place.scope (p : Place) (scope : Nat) : Nat := if p.tso then 4 else scope

/-- The bytes of a place reach their slice (R224): what a .sc store at PK or wider does with its own bytes; those of a .rel
store may wait in the cache (R293). -/
def State.flushPlace (s : State) (p : Place) (n : Nat) : State :=
  match p with
  | .hbm pa false => (List.range ((pa % 64 + n + 63) / 64)).foldl (fun s i => s.writeBack s.clusterNo (pa / 64 + i)) s
  | _ => s

/-- An access of the issuing thread acquires: the stale mark (R224), and no element is fetched before it (R211). -/
def State.acquireHere (s : State) (scope : Nat) : State := (s.acquire s.core scope).dropAhead s.cur

/-- A load of `n` bytes with its hint, ordering and scope: a .sc load releases, an acquire sets the stale mark, and the
line is then read (R113, R224). -/
def State.readAt (s : State) (p : Place) (n hint ord scope : Nat) : Nat × State :=
  let s := if ordRel ord then s.release s.clusterNo scope else s
  let s := if ordAcq ord then s.acquireHere scope else s
  match p with
  | .link off => ((s.linkRead s.health.linksel.toNat off).toNat, s)
  | p => s.readPlace s.clusterNo (s.coreAt s.core).stale hint p n

/-- A store of the masked bytes of `n` bytes (R113, R224). -/
def State.writeAt (s : State) (p : Place) (n mask x hint ord scope : Nat) : State :=
  let s := if ordRel ord then s.release s.clusterNo scope else s
  let s := match p with
    | .link off => s.linkWrite s.health.linksel.toNat off (BitVec.ofNat 64 x)
    | p => s.writePlace s.clusterNo hint p n mask x
  let s := if ord == 4 && decide (2 ≤ scope) then s.flushPlace p n else s
  if ordAcq ord then s.acquireHere scope else s

/-- An atomic's place is the slice: the cache writes back and drops the line first (R224). -/
def State.atSlice (s : State) (p : Place) (n : Nat) : State :=
  match p with
  | .hbm pa false => (List.range ((pa % 64 + n + 63) / 64)).foldl (fun s i => s.dropLine s.clusterNo (pa / 64 + i)) s
  | _ => s

/-- The access goes to another package or to the host (R114): the package, or none for the host's address. -/
def Place.away : Place → Option (Option Nat × Nat)
  | .host pa _ => some (some pa, 0)
  | .remote pkg => some (none, pkg)
  | _ => none

/-- A request of the issuing slot, in the form the remote agent holds (R313, R337). Requests to the host are sent at
once. -/
def State.newReq (s : State) (num : Nat) (host : Option Nat) (pkg : Nat) (va mask : W64) (ops : List W64) (acq : Bool)
    (cont : Cont) : Req :=
  let t := s.slot
  ⟨s.nextReq, 0, s.cur, t.tid, num, host, pkg, va, mask, ops, none, 0, t.launch, t.job, t.image.fn, t.rnrlim.toNat, 0, 0,
    if host.isSome then .sent else .queued, s.gtsNow, acq, none, BitVec.ofNat 32 (tget 0 s.relSeq s.cur), cont⟩

/-- The requests join the remote agent's list. -/
def State.addReqs (s : State) (l : List Req) : State :=
  { s with reqs := s.reqs ++ l, nextReq := s.nextReq + l.length }

/-- The requests `l` numbered from `s.nextReq` up. -/
def State.numbered (s : State) (l : List Req) : List Req :=
  (List.range l.length).zipWith (fun k r => { r with rid := s.nextReq + k }) l

/-- The issuing slot sends requests and issues nothing more until they are answered (R114). `len` and `g` are the length
and guard of the instruction; `fail`, `done` and `skip` what its other lanes already found (R258, R261). -/
def State.awaitLanes (s : State) (len : Nat) (g : BitVec 4) (l : List Req) (fail : Option (Nat × Cause × W64))
    (done skip : BitVec 16) : State :=
  let l := s.numbered l
  (s.addReqs l).mod (fun t => { t with
    pend := some (.remote len g (l.map (·.rid)) fail done skip), wait := none, word := s.ir2 ++ s.ir })

def State.awaitReqs (s : State) (len : Nat) (l : List Req) : State := s.awaitLanes len 7 l none 0 0xFFFF

/-- One request and its wait; a release the access carries is performed first. -/
def State.awaitReq (s : State) (len : Nat) (ord scope : Nat) (q : State → Req) : State :=
  let s := if ordRel ord then s.release s.clusterNo scope else s
  s.awaitReqs len [q s]

/-- A block of `n` bytes that an instruction reads for itself, .rlx at CO (.acq at SY on a TSO page, R294); on another package
or the host it is first fetched (R114), and the instruction then issues again with the answer. -/
def State.withBlock (s : State) (va : W64) (p : Place) (n len : Nat) (k : Nat → State → Res State) : Res State :=
  let s := s.touchTlb s.core s.slot.job va
  match p.away with
  | none =>
    if s.spoiled p n then .error (.trap .mcheck va)
    else
      let r := s.readAt p n 0 (p.ord 1 0) (p.scope 0)
      k r.1 r.2
  | some (host, pkg) =>
    let ask := s.awaitReq len 0 0 (fun s => s.newReq 2 host pkg va (BitVec.ofNat 64 (ones n * 2 ^ (va.toNat % 64))) [] p.tso .block)
    match s.slot.blk with
    | some (a, x) => if a = va then k x (s.mod (fun t => { t with blk := none })) else .ok ask
    | none => .ok ask

/-- The loaded value as X[d] receives it (R112). -/
def loadExt (size : Nat) (sgn : Bool) (x : Nat) : W64 := if sgn then BitVec.ofInt 64 (signed (8 * size) x) else BitVec.ofNat 64 (x % 2 ^ (8 * size))

end Sys2Proof.Machine
end

