-- ==== Sys2Proof/Machine/ScalarMem.lean ====
section
/-! DEFINITION. Scalar loads and stores, short and long (R111 to R114). -/

namespace Sys2Proof.Machine

/-- The byte mask an access has in its 64-byte line (R337). -/
def lineMask (va : W64) (size : Nat) : W64 := BitVec.ofNat 64 (ones size * 2 ^ (va.toNat % 64))

/-- R112: a load that is allowed. Away from the package it waits for its answer (R114). -/
def State.loadAt (s : State) (va : W64) (p : Place) (d : BitVec 5) (size : Nat) (sgn : Bool) (hint ord scope len : Nat) : State :=
  let s := s.touchTlb s.core s.slot.job va
  match p.away with
  | some (host, pkg) => s.awaitReq len ord scope (fun s =>
      s.newReq 2 host pkg va (lineMask va size) [] (ordAcq ord) (.load d size sgn))
  | none =>
    let r := s.readAt p size hint ord scope
    (r.2.setX d (loadExt size sgn r.1)).retire len

/-- R112: a store that is allowed. Away from the package it waits for its answer, with which a .sc store acquires (R113). -/
def State.storeAt (s : State) (va : W64) (p : Place) (x : W64) (size hint ord scope len : Nat) : State :=
  let s := s.touchTlb s.core s.slot.job va
  match p.away with
  | some (host, pkg) => s.awaitReq len ord scope (fun s =>
      s.newReq 3 host pkg va (lineMask va size) [x] (ordAcq ord) .store)
  | none => (s.writeAt p size (ones size) (x.toNat % 2 ^ (8 * size)) hint ord scope).retire len

/-- LD and LDN: address checks, the offset's alignment (R93), translation, then the load. -/
def loadExec (d a : BitVec 5) (off : Int) (size : Nat) (sgn : Bool) (hint ord scope len : Nat) (g : BitVec 4) (s : State) :
    Host.Outcome State Fault Refusal :=
  s.attempt g len (do
    let va ← checkAddr ((s.x a).toNat + off) size size
    trapIf (decide (off % size ≠ 0)) .align va
    let p ← s.reach .read va size
    s.relBlocked (p.ord 1 ord) (p.scope scope)
    .ok (s.loadAt va p d size sgn hint (p.ord 1 ord) (p.scope scope) len))

/-- ST: the same for a store. -/
def storeExec (d a : BitVec 5) (off : Int) (size : Nat) (hint ord scope len : Nat) (g : BitVec 4) (s : State) :
    Host.Outcome State Fault Refusal :=
  s.attempt g len (do
    let va ← checkAddr ((s.x a).toNat + off) size size
    trapIf (decide (off % size ≠ 0)) .align va
    let p ← s.place .write va size
    s.relBlocked (p.ord 2 ord) (p.scope scope)
    .ok (s.storeAt va p (s.x d) size hint (p.ord 2 ord) (p.scope scope) len))

/-- The access size a width code names: 1, 2, 4 or 8 bytes. -/
def accSize (w : BitVec 2) : Nat := 2 ^ w.toNat

/-- LD, short form: .rlx.co.wb (R111). -/
def execLd (d a : BitVec 5) (i : BitVec 10) (sz : BitVec 2) (g : BitVec 4) (s : State) : Host.Outcome State Fault Refusal :=
  loadExec d a (scaledImm i (accSize sz)) (accSize sz) true 0 0 0 4 g s

/-- LDN, short form (R111). -/
def execLdn (d a : BitVec 5) (i : BitVec 10) (sz : BitVec 2) (g : BitVec 4) (s : State) : Host.Outcome State Fault Refusal :=
  loadExec d a (scaledImm i (accSize sz)) (accSize sz) false 0 0 0 4 g s

/-- ST, short form (R111). -/
def execSt (d a : BitVec 5) (i : BitVec 10) (sz : BitVec 2) (g : BitVec 4) (s : State) : Host.Outcome State Fault Refusal :=
  storeExec d a (scaledImm i (accSize sz)) (accSize sz) 0 0 0 4 g s

/-- LD, long form (R93, R111). -/
def execLdLong (d a : BitVec 5) (w : BitVec 2) (g : BitVec 4) (sc ord : BitVec 3) (h : BitVec 2) (off : BitVec 24)
    (s : State) : Host.Outcome State Fault Refusal :=
  loadExec d a off.toInt (accSize w) true h.toNat ord.toNat sc.toNat 8 g s

/-- LDN, long form (R93, R111). -/
def execLdnLong (d a : BitVec 5) (w : BitVec 2) (g : BitVec 4) (sc ord : BitVec 3) (h : BitVec 2) (off : BitVec 24)
    (s : State) : Host.Outcome State Fault Refusal :=
  loadExec d a off.toInt (accSize w) false h.toNat ord.toNat sc.toNat 8 g s

/-- ST, long form (R93, R111). -/
def execStLong (d a : BitVec 5) (w : BitVec 2) (g : BitVec 4) (sc ord : BitVec 3) (h : BitVec 2) (off : BitVec 24)
    (s : State) : Host.Outcome State Fault Refusal :=
  storeExec d a off.toInt (accSize w) h.toNat ord.toNat sc.toNat 8 g s

end Sys2Proof.Machine
end

