-- ==== Sys2Proof/Machine/Atomic.lean ====
section
/-! DEFINITION. The atomics (R115 to R121): one indivisible action at the slice or bank, or a request to another package. -/

namespace Sys2Proof.Machine

/-- The operation of an atomic on the `size` bytes it finds (R116, R117): AFADD and AFMAX round RNE and raise nothing. -/
inductive AtomKind
  | int (op : AtomOp)
  | fadd (f32 : Bool)
  | fmax (f32 : Bool)
deriving DecidableEq, Repr

def AtomKind.size : AtomKind → Nat
  | .int .addf => 64
  | .int _ => 8
  | .fadd f => if f then 4 else 8
  | .fmax f => if f then 4 else 8

/-- The new value from the old one, the operand and ACAS's expected value. -/
def AtomKind.apply (k : AtomKind) (old b d : W64) : W64 :=
  match k with
  | .int op => atomNew op old b d
  | .fadd f => let t := if f then fp32 else fp64
    BitVec.ofNat 64 (faddR t .rne old.toNat (if f then b.toNat % 2 ^ 32 else b.toNat)).1
  | .fmax f => let t := if f then fp32 else fp64
    BitVec.ofNat 64 (fminmaxR t true old.toNat (if f then b.toNat % 2 ^ 32 else b.toNat)).1

/-- The built-in handler number (R120). -/
def AtomKind.number : AtomKind → Nat
  | .int .add => 4
  | .int .and => 5
  | .int .or => 6
  | .int .xor => 7
  | .int .min => 8
  | .int .max => 9
  | .int .minn => 10
  | .int .maxn => 11
  | .int .swap => 12
  | .int .cas => 13
  | .int .addf => 14
  | .fadd f => if f then 18 else 16
  | .fmax f => if f then 19 else 17

/-- The operation a number of R120 names; 15 and 20 to 63 name none. -/
def atomOfNumber (n : Nat) : Option AtomKind :=
  match n with
  | 4 => some (.int .add)
  | 5 => some (.int .and)
  | 6 => some (.int .or)
  | 7 => some (.int .xor)
  | 8 => some (.int .min)
  | 9 => some (.int .max)
  | 10 => some (.int .minn)
  | 11 => some (.int .maxn)
  | 12 => some (.int .swap)
  | 13 => some (.int .cas)
  | 14 => some (.int .addf)
  | 16 => some (.fadd false)
  | 17 => some (.fmax false)
  | 18 => some (.fadd true)
  | 19 => some (.fmax true)
  | _ => none

/-- R30: word 0 of an image that a program creates is refused. -/
def imageBad (w0 : W64) : Bool := decide (w0.toNat < 2 ^ 16) || decide (w0.toNat % 8 ≠ 0)

/-- R116: the atomic's action where the bytes lie, a port's register too (R354); ACAS that fails writes nothing. -/
def State.atomAt (s : State) (k : AtomKind) (p : Place) (b d : W64) : W64 × State :=
  let n := k.size
  match p with
  | .held pa => let r := s.heldAccess pa
    (BitVec.ofNat 64 (r.1 % 2 ^ (8 * n)), r.2)
  | .link off =>
    let old := s.linkRead s.health.linksel.toNat off
    (old, s.linkWrite s.health.linksel.toNat off (k.apply old b d))
  | p =>
    let old := BitVec.ofNat 64 (memRead s.mem p.flat n)
    let new := k.apply old b d
    (old, { s with mem := memWrite s.mem p.flat n (ones n) new.toNat })

/-- The owner core of a record (R118): the core whose scratchpad holds it, or the home core of its address (R316). -/
def Place.owner (p : Place) : Nat :=
  match p with
  | .scratch c _ => c
  | .hbm pa _ => homeOf pa
  | .held pa => homeOf pa
  | _ => 0

/-- What AADDF finds and does on a record (R118): whether its image is refused, the old counter, and the state with the
counter written and, when the counter reaches zero, the image created by slot `sid`'s task. One whose launch is cancelled
(`stopped`) writes its counter and creates nothing (R48). -/
def State.recordAt (s : State) (p : Place) (sid scope : Nat) (b : W64) (stopped : Bool) : Bool × W64 × State :=
  let h : Nat × State := match p with
    | .held pa => s.heldAccess pa
    | p => (memRead s.mem p.flat 64, s)
  let x := h.1
  let old := word64 x 0
  let words := (List.range 5).map (fun i => word64 x (i + 1))
  let new := old + b
  let written : State := match p with
    | .held _ => h.2
    | p => { s with mem := memWrite s.mem p.flat 8 (ones 8) new.toNat }
  if new = 0 ∧ b ≠ 0 ∧ stopped = false then
    if imageBad (recWord words 0) then (true, old, s)
    else
      let r := written.fillImage sid 0 scope words 0
      (false, old, (r.2.countUp r.1.launch 1).post p.owner r.1 true)
  else (false, old, written)

/-- A local atomic of the issuing slot, its task committed: release, the action at the slice, acquire, X[d] := old. An
AADDF whose image is refused traps ILLEGAL, committed (R118, R119). -/
def State.atomLocal (s : State) (k : AtomKind) (p : Place) (d b : BitVec 5) (ord scope : Nat) : State :=
  let s := if ordRel ord then s.release s.clusterNo scope else s
  let s := s.atSlice p k.size
  let s := if ordAcq ord then s.acquireHere scope else s
  if k = .int .addf then
    let r := s.recordAt p s.cur scope (s.x b) (s.isCancelled s.core s.slot.launch)
    if r.1 then s.takeTrap s.cur .illegal s.irVal else (r.2.2.setX d r.2.1).retire 4
  else
    let r := s.atomAt k p (s.x b) (s.x d)
    (r.2.setX d r.1).retire 4

/-- R115 to R121 whole. -/
def atomExec (k : AtomKind) (d a b : BitVec 5) (o : BitVec 2) (sc : BitVec 3) (g : BitVec 4) (s : State) :
    Host.Outcome State Fault Refusal :=
  s.attempt g 4 (do
    let va ← checkAddr (s.x a).toNat k.size k.size
    let p ← s.reach .atomic va k.size
    trapIf (k == .int .addf && (match p with | .host _ _ => true | _ => false)) .remoteUnsupported va
    let ord := p.ord 3 o.toNat
    let scope := p.scope sc.toNat
    s.relBlocked ord scope
    let s1 ← s.commit
    let s2 := s1.touchTlb s.core s.slot.job va
    .ok (match p.away with
      | some (host, pkg) =>
        let r := s2.relTag s.cur scope
        r.2.awaitReq 4 ord scope (fun t =>
          { t.newReq k.number host pkg va (lineMask va k.size) [s.x b, if k = .int .cas then s.x d else 0, s.irVal]
            (ordAcq ord) (.atomic d k.size) with tag := r.1 })
      | none => s2.atomLocal k p d b ord scope))

/-- AADD (R116). -/
def execAadd (d a b : BitVec 5) (o : BitVec 2) (sc : BitVec 3) (g : BitVec 4) (s : State) :
    Host.Outcome State Fault Refusal :=
  atomExec (.int .add) d a b o sc g s

/-- AAND (R116). -/
def execAand (d a b : BitVec 5) (o : BitVec 2) (sc : BitVec 3) (g : BitVec 4) (s : State) :
    Host.Outcome State Fault Refusal :=
  atomExec (.int .and) d a b o sc g s

/-- AOR (R116). -/
def execAor (d a b : BitVec 5) (o : BitVec 2) (sc : BitVec 3) (g : BitVec 4) (s : State) :
    Host.Outcome State Fault Refusal :=
  atomExec (.int .or) d a b o sc g s

/-- AXOR (R116). -/
def execAxor (d a b : BitVec 5) (o : BitVec 2) (sc : BitVec 3) (g : BitVec 4) (s : State) :
    Host.Outcome State Fault Refusal :=
  atomExec (.int .xor) d a b o sc g s

/-- AMIN (R116). -/
def execAmin (d a b : BitVec 5) (o : BitVec 2) (sc : BitVec 3) (g : BitVec 4) (s : State) :
    Host.Outcome State Fault Refusal :=
  atomExec (.int .min) d a b o sc g s

/-- AMAX (R116). -/
def execAmax (d a b : BitVec 5) (o : BitVec 2) (sc : BitVec 3) (g : BitVec 4) (s : State) :
    Host.Outcome State Fault Refusal :=
  atomExec (.int .max) d a b o sc g s

/-- AMINN (R116). -/
def execAminn (d a b : BitVec 5) (o : BitVec 2) (sc : BitVec 3) (g : BitVec 4) (s : State) :
    Host.Outcome State Fault Refusal :=
  atomExec (.int .minn) d a b o sc g s

/-- AMAXN (R116). -/
def execAmaxn (d a b : BitVec 5) (o : BitVec 2) (sc : BitVec 3) (g : BitVec 4) (s : State) :
    Host.Outcome State Fault Refusal :=
  atomExec (.int .maxn) d a b o sc g s

/-- ASWAP (R116). -/
def execAswap (d a b : BitVec 5) (o : BitVec 2) (sc : BitVec 3) (g : BitVec 4) (s : State) :
    Host.Outcome State Fault Refusal :=
  atomExec (.int .swap) d a b o sc g s

/-- ACAS (R116). -/
def execAcas (d a b : BitVec 5) (o : BitVec 2) (sc : BitVec 3) (g : BitVec 4) (s : State) :
    Host.Outcome State Fault Refusal :=
  atomExec (.int .cas) d a b o sc g s

/-- AADDF (R116). -/
def execAaddf (d a b : BitVec 5) (o : BitVec 2) (sc : BitVec 3) (g : BitVec 4) (s : State) :
    Host.Outcome State Fault Refusal :=
  atomExec (.int .addf) d a b o sc g s

/-- AFADDF64 (R116). -/
def execAfaddF64 (d a b : BitVec 5) (o : BitVec 2) (sc : BitVec 3) (g : BitVec 4) (s : State) :
    Host.Outcome State Fault Refusal :=
  atomExec (.fadd false) d a b o sc g s

/-- AFMAXF64 (R116). -/
def execAfmaxF64 (d a b : BitVec 5) (o : BitVec 2) (sc : BitVec 3) (g : BitVec 4) (s : State) :
    Host.Outcome State Fault Refusal :=
  atomExec (.fmax false) d a b o sc g s

/-- AFADDF32 (R116). -/
def execAfaddF32 (d a b : BitVec 5) (o : BitVec 2) (sc : BitVec 3) (g : BitVec 4) (s : State) :
    Host.Outcome State Fault Refusal :=
  atomExec (.fadd true) d a b o sc g s

/-- AFMAXF32 (R116). -/
def execAfmaxF32 (d a b : BitVec 5) (o : BitVec 2) (sc : BitVec 3) (g : BitVec 4) (s : State) :
    Host.Outcome State Fault Refusal :=
  atomExec (.fmax true) d a b o sc g s

end Sys2Proof.Machine
end

