-- ==== Sys2Proof/Machine/CacheOps.lean ====
section
/-! DEFINITION. Cache maintenance: PREF (R263), CFLUSH and CINV (R264). -/

namespace Sys2Proof.Machine

/-- R303, R310: a page of a maintenance instruction that the core's TLB lacks is walked, unless it is known to be absent or refused;
such a page holds nothing that the instruction acts on (R263, R264). -/
def State.missOr {α : Type} (s : State) (va : W64) (none : α) : Res α :=
  if (s.pageReqOf s.slot.job (vpnOf va)).isSome || s.pageRefused va then .ok none else .error (.miss .read va)

/-- R263, R301: the line of an address is fetched into the cluster cache; an address that gives no cacheable LOCAL line does
nothing. -/
def State.prefetch (s : State) (va : Int) (hint : Nat) : Res State :=
  match checkAddr va 1 1 with
  | .error _ => .ok s
  | .ok a => match s.translate s.core s.slot.job .read a 1 with
    | .ok (.hbm pa false) =>
      if s.slot.deny.contains (vpnOf a) then .ok s
      else if s.hostHolds (.hbm pa false) 1 then .error (.wait 0 a 0)
      else .ok ((s.touchTlb s.core s.slot.job a).loadLine s.clusterNo (s.coreAt s.core).stale (pa / 64) hint).2
    | .miss => s.missOr a s
    | _ => .ok s

/-- PREF and its long form. -/
def prefExec (va : State → Int) (h : BitVec 2) (len : Nat) (g : BitVec 4) (s : State) : Host.Outcome State Fault Refusal :=
  s.attempt g len ((s.prefetch (va s) h.toNat).bind (fun t => .ok (t.retire len)))

/-- PREF (R263). -/
def execPref (a : BitVec 5) (h : BitVec 2) (g : BitVec 4) (s : State) : Host.Outcome State Fault Refusal :=
  prefExec (fun s => (s.x a).toNat) h 4 g s

/-- PREF, long form (R93, R263). -/
def execPrefLong (a : BitVec 5) (g : BitVec 4) (h : BitVec 2) (off : BitVec 24) (s : State) :
    Host.Outcome State Fault Refusal :=
  prefExec (fun s => (s.x a).toNat + off.toInt) h 8 g s

/-- R264, R301: the LOCAL bytes at an address of a range, as the core's TLB, or on a service core the tables (log 6), place them:
windows, whirligig regions and pages that are not present have none. -/
def State.localAt (s : State) (va : W64) : Res (Option Nat) :=
  if inReserved va || inLink va || (s.regionOf s.slot.job va).isSome then .ok none
  else match tlbLookup (if s.worker then (s.coreAt s.core).tlb else s.tables) (s.asid s.slot.job) va with
    | none => if s.worker then s.missOr va none else .ok none
    | some e =>
      if s.slot.deny.contains (vpnOf va) then .ok none
      else if entKind e = 1 then .ok (if entTgt e = 0 then some (entFrame e + va.toNat % 2 ^ sizeLog (entSize e)) else none)
      else if s.worker && bitsAt e.word.toNat 16 10 == s.pkg.toNat && !e.word.getLsbD 61 then s.missOr va none
      else .ok none

/-- The cache lines that the lines at the addresses `l` are held in. -/
def State.rangeLines (s : State) : List Nat → Res (List Nat)
  | [] => .ok []
  | va :: r => do
    let p ← s.localAt (BitVec.ofNat 64 va)
    let ls ← s.rangeLines r
    .ok (match p with
      | some pa => if thas (s.clusterAt s.clusterNo).lines (pa / 64) then pa / 64 :: ls else ls
      | none => ls)

/-- R219: a range touches the reserved range, which lies behind the own window and behind the cluster windows. -/
def touchesReserved (a n : Nat) : Bool :=
  (decide (a < 0x7F0100000000) && decide (0x7F0000080000 < a + n)) ||
    (decide (a < 0x7F0200000000) && decide (0x7F0101000000 < a + n))

/-- R264: the range touches what it may not. -/
def State.rangePerm (s : State) (va : W64) (n : Nat) : Bool :=
  touchesReserved va.toNat n || (s.worker && supervisorHalf va)

/-- CFLUSH and CINV (R264). -/
def maintain (drop : Bool) (a b : BitVec 5) (g : BitVec 4) (s : State) : Host.Outcome State Fault Refusal :=
  s.attempt g 4 (do
    s.illegalIf (decide (0x100000 < (s.x b).toNat))
    let va := s.x a
    let n := max (s.x b).toNat 1
    trapIf (addrFault va n) .addr va
    trapIf (s.rangePerm va n) .perm va
    let vas := (List.range ((va.toNat % 64 + n + 63) / 64)).map (fun i => va.toNat / 64 * 64 + 64 * i)
    let ls ← s.rangeLines vas
    waitIf (ls.any (fun l => s.hostHeld.contains l && (tfind (s.clusterAt s.clusterNo).lines l).any (fun e => e.dirty != 0))) 0 0
    .ok ((ls.foldl (fun s l => if drop then s.dropLine s.clusterNo l else s.writeBack s.clusterNo l)
      (s.touchAll s.core s.slot.job ((vas.take 1) ++ vas.filter (fun v => v % 2 ^ 16 == 0)))).retire 4))

/-- CFLUSH (R264): the three scopes act the same. -/
def execCflush (a b : BitVec 5) (_sc : BitVec 3) (g : BitVec 4) (s : State) : Host.Outcome State Fault Refusal :=
  maintain false a b g s

/-- CINV (R264). -/
def execCinv (a b : BitVec 5) (_sc : BitVec 3) (g : BitVec 4) (s : State) : Host.Outcome State Fault Refusal :=
  maintain true a b g s

end Sys2Proof.Machine
end

