-- ==== Sys2Proof/Machine/Control.lean ====
section
/-! DEFINITION. Control flow and the long immediate (R110). -/

namespace Sys2Proof.Machine

/-- BR (R110). -/
def execBr (o : BitVec 22) (g : BitVec 4) (s : State) : Host.Outcome State Fault Refusal :=
  .next (if s.runs g then s.retireAt s.cur (s.pcPlus o) else s.retire 4)

/-- CALL (R110). -/
def execCall (o : BitVec 22) (g : BitVec 4) (s : State) : Host.Outcome State Fault Refusal :=
  .next (if s.runs g then (s.setX 31 (s.pc + 4)).retireAt s.cur (s.pcPlus o) else s.retire 4)

/-- JR (R110). -/
def execJr (a : BitVec 5) (g : BitVec 4) (s : State) : Host.Outcome State Fault Refusal :=
  s.attempt g 4 (do
    trapIf (decide ((s.x a).toNat % 4 ≠ 0)) .align (s.x a)
    .ok (s.retireAt s.cur (s.x a)))

/-- CALLL (R110). -/
def execCalll (g : BitVec 4) (imm : BitVec 32) (s : State) : Host.Outcome State Fault Refusal :=
  .next (if s.runs g then (s.setX 31 (s.pc + 8)).retireAt s.cur (s.pcPlus imm) else s.retire 8)

/-- LIW (R110). -/
def execLiw (d : BitVec 5) (g : BitVec 4) (imm : BitVec 32) (s : State) : Host.Outcome State Fault Refusal :=
  s.guarded g 8 (fun s => s.setX d (sext64 imm))

end Sys2Proof.Machine
end

