-- ==== Sys2Proof/Machine/Task.lean ====
section
/-! DEFINITION. Task and message instructions (R125 to R132), with the checks of targets, images and payloads (R30 to R32,
R411) and the sending of an image (R29, R34, R49, R119). -/

namespace Sys2Proof.Machine

/-! ### Checks -/

/-- The package and core that a kind-0 target word names. -/
def targetPkg (x : W64) : Nat := bitsAt x.toNat 16 10
def targetRing (x : W64) : Nat := x.toNat % 1024

/-- R32: well formed with the slot field taken as 0. -/
def targetOk (x : W64) : Bool := decide (bitsAt x.toNat 32 30 = 0) && wellFormedSrc (x.toNat % 2 ^ 32 / 8 * 8)

/-- R32, R411: the target word of SEND (`ring` true), SENDL or HOP. -/
def State.checkTarget (s : State) (ring : Bool) (x : W64) : Res Unit :=
  match targetKind x with
  | 0 => do
    s.illegalIf (!targetOk x)
    trapIf ((s.worker && !isWorkerCore (targetCore x)) || !s.inDomain s.slot.job (targetPkg x)) .perm x
  | 1 => do
    s.illegalIf (!ring || decide (bitsAt x.toNat 26 36 ≠ 0) || decide (bitsAt x.toNat 10 6 ≠ 0))
    trapIf (!s.inDomain s.slot.job (targetPkg x)) .perm x
    let r := s.ring (targetRing x)
    trapIf (targetPkg x == s.pkg.toNat && (!r.on || r.cfg.setWidth 32 != s.slot.job)) .perm x
  | _ => s.illegalIf true

/-- R31: length in 64-byte units and offset of a payload descriptor. -/
def payLen (x : W64) : Nat := bitsAt x.toNat 50 7
def payDest (x : W64) : Nat := x.toNat % 2 ^ 19
/-- R31: the descriptor is refused. -/
def payloadBad (x : W64) : Bool :=
  decide (bitsAt x.toNat 57 7 ≠ 0) || decide (64 < payLen x) || decide (bitsAt x.toNat 19 31 ≠ 0)
    || decide (payDest x % 64 ≠ 0) || decide (0x70000 < payDest x + 64 * payLen x)

/-- R31: the payload as the sender's own scratchpad holds it. -/
def State.payload (s : State) (x : W64) : List W64 :=
  let b := memRead s.mem (scratchBase s.core + payDest x) (64 * payLen x)
  (List.range (8 * payLen x)).map (word64 b)

/-- The scope an instruction releases at: .auto is the smallest scope containing sender and target core (R49). -/
def State.sendScope (s : State) (sc : BitVec 3) (pkg core : Nat) : Nat :=
  if sc = 7 then (if pkg = s.pkg.toNat then scopeBetween s.core core else 3) else sc.toNat

/-! ### Sending -/

/-- A release of the issuing thread at a scope, before a hand-over. -/
def State.releaseFor (s : State) (scope : Nat) : Res State :=
  if s.hostBlocks s.clusterNo scope then .error (.wait 0 0 0) else .ok (s.release s.clusterNo scope)

/-- The image a slot creates with a register block and payload (R29), counting `n` images of its launch (R45). -/
def State.create (s : State) (scope : Nat) (words : List W64) (w7 : W64) (regs : Option (List W64)) (pay : List W64) (n : Nat) :
    Image × State :=
  let r := s.fillImage s.cur 0 scope words w7
  ({ r.1 with regs := regs, payload := pay }, r.2.countUp r.1.launch n)

/-- An image for a core of this package (R34, R38, R49): while its sub-queue is full the thread stalls; then commit,
release, creation, and the message is on its way. -/
def State.sendLocal (s : State) (core : Nat) (scope : Nat) (words : List W64) (w7 : W64) (regs : Option (List W64))
    (pay : List W64) : Res State := do
  waitIf (!s.hasRoom (s.liveCore core) ((recWord words 0).toNat / 64 % 4)) 5 (BitVec.ofNat 64 core)
  let s1 ← s.commit
  let s2 ← s1.releaseFor scope
  let r := s2.create scope words w7 regs pay 1
  .ok (r.2.post core r.1 false)

/-- R326: the frame that a commit will need is reserved; while none is free the thread stalls. -/
def State.reserve (s : State) : Res State :=
  let t := s.slot
  if t.cmtd ∨ t.frame ≠ 0 then .ok s
  else
    let f := s.freeFrame t.job
    if f = 0 then .error (.wait 10 0 0) else .ok (s.mod (fun t => { t with frame := f }))

/-- An image for another package (R119): the thread stalls, uncommitted, until the target answers; the frame its commit
needs is reserved before the message leaves (log 49). `target` is the target word, or for HOP.V the address, marked by `virt`
(log 19). A ring entry is no image and is not counted (R45). An image that would leave 2^15 ordered ones of its stream unanswered
stalls (R339). -/
def State.sendAway (s : State) (pkg : Nat) (target : W64) (virt : Bool) (scope len : Nat) (words : List W64) (w7 : W64)
    (regs : Option (List W64)) (pay : List W64) (ends : Bool) : Res State := do
  let w0 := recWord words 0
  waitIf (w0.getLsbD 3 && decide (2 ^ 15 ≤ (s.reqs.filter (fun q => q.sid == s.cur &&
    (if virt then q.mask == 1 && q.pkg == pkg else q.mask == 0 && q.target == target) &&
    q.img.any (fun i => i.ord && i.cls == w0.toNat / 64 % 4 && i.urg == w0.getLsbD 4))).length + 1)) 5 target
  let s0 ← s.reserve
  let s1 ← s0.releaseFor scope
  let r := s1.create scope words w7 regs pay (if !virt && targetKind target == 1 then 0 else 1)
  let q := { r.2.newReq 0 none pkg (if virt then target else 0) (if virt then 1 else 0) [] false (.msg ends) with
    img := some r.1, target := if virt then 0 else target }
  .ok (r.2.awaitReqs len [q])

/-- A MESSAGE entry into a ring of this package (R411 to R413). -/
def State.sendRing (s : State) (ring : Nat) (words : List W64) : Res State := do
  waitIf (s.ring ring).full 5 (BitVec.ofNat 64 ring)
  let s1 ← s.commit
  let s2 ← s1.releaseFor 4
  let ws := (List.range 5).map (recWord words) ++ [s.slot.launch ++ 0#32, s.srcNum s.cur ++ 0#32]
  .ok (s2.putEntry ring 1 ws)

/-- The image of a SEND, SENDL or SPAWN as words. -/
def blockWords (x : Nat) : List W64 := (List.range 8).map (word64 x)

/-- SEND (R126). -/
def execSend (d a b : BitVec 5) (sc : BitVec 3) (o : BitVec 1) (g : BitVec 4) (s : State) :
    Host.Outcome State Fault Refusal :=
  s.attempt g 4 (do
    let x := s.x d
    s.checkTarget true x
    let va ← checkAddr ((s.x a).toNat + (o.toNat * 32 + b.toNat) * 64) 64 64
    let p ← s.place .read va 64
    s.withBlock va p 64 4 (fun blk t => do
      let words := blockWords blk
      t.illegalIf (targetKind x == 0 && imageBad (recWord words 0))
      if targetPkg x ≠ t.pkg.toNat then
        t.sendAway (targetPkg x) x false (if targetKind x = 1 then 4 else t.sendScope sc (targetPkg x) 0) 4 words 0 none [] false
      else if targetKind x = 1 then
        let r ← t.sendRing (targetRing x) words
        .ok (r.retire 4)
      else
        let r ← t.sendLocal (targetCore x) (t.sendScope sc (targetPkg x) (targetCore x)) words 0 none []
        .ok (r.retire 4)))

/-- SENDL (R127). -/
def execSendl (d a b : BitVec 5) (sc : BitVec 3) (g : BitVec 4) (s : State) : Host.Outcome State Fault Refusal :=
  s.attempt g 4 (do
    let x := s.x d
    s.checkTarget false x
    let va ← checkAddr (s.x a).toNat 64 64
    let p ← s.place .read va 64
    s.withBlock va p 64 4 (fun blk t => do
      let words := blockWords blk
      t.illegalIf (imageBad (recWord words 0))
      openIf (payloadBad (t.x b)) .addr
      let pay := t.payload (t.x b)
      if targetPkg x ≠ t.pkg.toNat then
        t.sendAway (targetPkg x) x false (t.sendScope sc (targetPkg x) 0) 4 words (t.x b) none pay false
      else
        let r ← t.sendLocal (targetCore x) (t.sendScope sc (targetPkg x) (targetCore x)) words (t.x b) none pay
        .ok (r.retire 4)))

/-- The continuation of HOP: word 0 from X[a], words 1 to 4 from x1 to x4, x5 to x8 beside it (R42, R128). -/
def State.hopWords (s : State) (a : BitVec 5) : List W64 := [s.x a, s.x 1, s.x 2, s.x 3, s.x 4]
def State.hopRegs (s : State) : List W64 := [s.x 5, s.x 6, s.x 7, s.x 8]

/-- HOP (R128). -/
def execHop (d a b : BitVec 5) (sc : BitVec 3) (g : BitVec 4) (s : State) : Host.Outcome State Fault Refusal :=
  s.attempt g 4 (do
    let x := s.x d
    s.checkTarget false x
    s.illegalIf (imageBad (s.x a))
    openIf (payloadBad (s.x b)) .addr
    let pay := s.payload (s.x b)
    if targetPkg x ≠ s.pkg.toNat then
      s.sendAway (targetPkg x) x false (s.sendScope sc (targetPkg x) 0) 4 (s.hopWords a) (s.x b) (some s.hopRegs) pay true
    else
      let r ← s.sendLocal (targetCore x) (s.sendScope sc (targetPkg x) (targetCore x)) (s.hopWords a) (s.x b) (some s.hopRegs) pay
      .ok (r.doneTask s.cur))

/-- Where the home of a virtual address lies (R316): a core of this package, or another package. -/
inductive Home
  | here (core : Nat)
  | away (pkg : Nat)
deriving DecidableEq, Repr

/-- R316: the home of an address for the issuing slot; it needs a mapping that was not refused to the task (R311), and no
permission but that supervisor pages stay out of a worker's reach (log 19). An address in a window names the core that holds it,
its top 64 KiB included. -/
def State.homeOfVa (s : State) (va : W64) : Res Home :=
  if inReserved va then
    match State.window s.core va with
    | some (c, _) => if !s.worker || (s.coreAt c).fenced then .error (.trap .perm va) else .ok (.here c)
    | none => .error (.trap .perm va)
  else if (s.worker && supervisorHalf va) || inLink va || (s.regionOf s.slot.job va).isSome then .error (.trap .perm va)
  else
    match tlbLookup (if s.worker then (s.coreAt s.core).tlb else s.tables) (s.asid s.slot.job) va with
    | none => if s.pageRefused va then .error (.trap .perm va)
      else if s.worker then .error (.miss .read va) else .error (.trap .page va)
    | some e =>
      if s.slot.deny.contains (vpnOf va) then .error (.trap .perm va)
      else if entKind e = 1 then
        if s.worker && e.word.getLsbD 11 then .error (.trap .perm va)
        else if entTgt e = 2 then .error (.trap .remoteUnsupported va)
        else .ok (.here (homeOf (entFrame e + va.toNat % 2 ^ sizeLog (entSize e))))
      else if e.word.getLsbD 61 then .error (.trap .perm va)
      else
        let pkg := bitsAt e.word.toNat 16 10
        if pkg = s.pkg.toNat then
          (if s.pageRefused va then .error (.trap .perm va)
        else if s.worker then .error (.miss .read va) else .error (.trap .page va))
        else if !s.inDomain s.slot.job pkg then .error (.trap .perm va)
        else .ok (.away pkg)

/-- HOP.V (R128, R316). -/
def execHopV (d a b : BitVec 5) (sc : BitVec 3) (g : BitVec 4) (s : State) : Host.Outcome State Fault Refusal :=
  s.attempt g 4 (do
    let va := s.x d
    trapIf (!canonical va) .addr va
    s.illegalIf (imageBad (s.x a))
    openIf (payloadBad (s.x b)) .addr
    let h ← s.homeOfVa va
    let pay := s.payload (s.x b)
    let s := s.touchTlb s.core s.slot.job va
    match h with
    | .away pkg => s.sendAway pkg va true (s.sendScope sc pkg 0) 4 (s.hopWords a) (s.x b) (some s.hopRegs) pay true
    | .here core =>
      let r ← s.sendLocal core (s.sendScope sc s.pkg.toNat core) (s.hopWords a) (s.x b) (some s.hopRegs) pay
      .ok (r.doneTask s.cur))

/-! ### Spawning -/

/-- R35, R36, R61: the entry goes to the bottom of the own deque; an urgent one, and any when the deque is full, to the
tail of the own sub-queue of its class. -/
def State.pushOwn (s : State) (e : QEntry) : State :=
  if e.img.urg || decide (512 ≤ (s.coreAt s.core).deque.length) then s.enqueue s.core e
  else s.modCore s.core (fun c => { c with deque := c.deque ++ [e] })

/-- R35: neither place has room. -/
def State.spawnFull (s : State) (w0 : W64) : Bool :=
  (w0.getLsbD 4 || decide (512 ≤ (s.coreAt s.core).deque.length)) && !s.hasRoom s.core (w0.toNat / 64 % 4)

/-- R51: an ordered image for the own sub-queue has one of the task before it still on its way, of its class and urgency. -/
def State.ordBehind (s : State) (w0 : W64) : Bool :=
  w0.getLsbD 3 && (w0.getLsbD 4 || decide (512 ≤ (s.coreAt s.core).deque.length)) &&
    (s.flight ++ s.held).any (fun m => s.liveCore m.dest == s.core && m.img.ord && m.img.cls == w0.toNat / 64 % 4 &&
      m.img.urg == w0.getLsbD 4 && m.img.w6.extractLsb' 32 32 == s.srcNum s.cur)

/-- The push of an image, or of a fan of `n` indices, by an instruction whose checks passed (R129). -/
def State.spawn (s : State) (sc : BitVec 3) (words : List W64) (fan : Option Nat) : Res State := do
  waitIf (s.spawnFull (recWord words 0)) 5 0
  waitIf (s.ordBehind (recWord words 0)) 0 0
  let s1 ← s.commit
  let scope := if sc = 7 then 0 else sc.toNat
  let s2 ← s1.releaseFor scope
  let r := s2.fillImage s.cur 0 scope words 0
  match fan with
  | none => .ok ((r.2.countUp r.1.launch 1).pushOwn (r.2.entry r.1 none))
  | some n => .ok ((r.2.countUp r.1.launch n).pushOwn (r.2.entry r.1 (some (n, 0))))

/-- SPAWN (R129). -/
def execSpawn (a b : BitVec 5) (sc : BitVec 3) (g : BitVec 4) (s : State) : Host.Outcome State Fault Refusal :=
  s.attempt g 4 (do
    let va ← checkAddr ((s.x a).toNat + b.toNat * 64) 64 64
    let p ← s.place .read va 64
    s.withBlock va p 64 4 (fun blk t => do
      let words := blockWords blk
      t.illegalIf (imageBad (recWord words 0))
      let r ← t.spawn sc words none
      .ok (r.retire 4)))

/-- SPAWNN (R129): with N = 0 it only commits. -/
def execSpawnn (d a b : BitVec 5) (sc : BitVec 3) (g : BitVec 4) (s : State) : Host.Outcome State Fault Refusal :=
  s.attempt g 4 (do
    let va ← checkAddr ((s.x a).toNat + b.toNat * 64) 64 64
    let p ← s.place .read va 64
    s.withBlock va p 64 4 (fun blk t => do
      let words := blockWords blk
      t.illegalIf (imageBad (recWord words 0))
      t.illegalIf (decide (2 ^ 32 < (t.x d).toNat))
      if t.x d = 0 then
        let r ← t.commit
        .ok (r.retire 4)
      else
        let r ← t.spawn sc words (some (t.x d).toNat)
        .ok (r.retire 4)))

/-! ### Major 0x38 -/

/-- COMMIT (R131). -/
def execCommit (g : BitVec 4) (s : State) : Host.Outcome State Fault Refusal :=
  s.attempt g 4 (do
    let r ← s.commit
    .ok (r.retire 4))

/-- DONE (R42, R131): it needs no frame (R326). -/
def execDone (g : BitVec 4) (s : State) : Host.Outcome State Fault Refusal :=
  .next (if s.runs g then s.doneTask s.cur else s.retire 4)

/-- R132: the other slots of the core that are ready. -/
def State.yieldSet (s : State) : List Nat :=
  (List.range 5).filterMap (fun k =>
    let sid := s.core * 8 + k
    if sid ≠ s.cur ∧ (s.slotAt sid).ready ∧ (s.slotAt sid).wait = none then some sid else none)

/-- YIELD (R132). -/
def execYield (g : BitVec 4) (s : State) : Host.Outcome State Fault Refusal :=
  .next (
    let r := s.retire 4
    if s.runs g ∧ s.yieldSet ≠ [] then r.mod (fun t => { t with yielding := some (s.yieldSet, s.cyc) }) else r)

/-- PRIO (R132): the base class. -/
def execPrio (c : BitVec 2) (g : BitVec 4) (s : State) : Host.Outcome State Fault Refusal :=
  s.guarded g 4 (fun s => s.mod (fun t => { t with prio := c }))

/-- UMASK (R64, R132): on a normal thread it opens the core's urgent window, unless one is open or urgent heads held at
the last close are still unbound. `opened` notes it for a binding by TU in the same cycle, which takes effect first. -/
def execUmask (g : BitVec 4) (s : State) : Host.Outcome State Fault Refusal :=
  .next (
    let r := s.retire 4
    let c := r.coreAt r.core
    if s.runs g ∧ s.worker ∧ sidNum s.cur < 4 ∧ c.opener = none then
      r.modCore r.core (fun c =>
        if c.heldHeads = [] then { c with opener := some s.cur, retired := 0, opened := some (s.cur, s.cyc) }
        else { c with opened := some (s.cur, s.cyc) })
    else r)

/-- UNMASK (R64, R132). -/
def execUnmask (g : BitVec 4) (s : State) : Host.Outcome State Fault Refusal :=
  s.guarded g 4 (fun s => s.closeIfOpener s.cur)

/-- CNTADD (R46, R131), for a launch whose home is this package (log 13). -/
def execCntadd (a : BitVec 5) (g : BitVec 4) (s : State) : Host.Outcome State Fault Refusal :=
  s.attempt g 4 (do
    let r ← s.commit
    let l := s.slot.launch
    .ok (((r.modLaunch l (fun v => { v with counter := v.counter + s.x a })).completeLaunch l).retire 4))

/-- R48: the task stops at the boundary after an instruction of its own that cancelled its launch. -/
def State.stopIfCancelled (s : State) (l : W32) : State :=
  if (tfind s.launches l.toNat).any (·.cancelled) then s.endTask s.cur else s

/-- The name's deciding package is another one (R47): a launch whose home it is. -/
def State.decidedAway (s : State) (name : W64) : Bool :=
  targetKind name == 0 && !s.homeHere (name.setWidth 32)

/-- CANCEL (R47, R48, R131). The name's bits 61:32 make it no name: it then only commits; for a worker slot's name of level 3 that
has such bits set, both rows of R47 hold, and the model takes the trap (log 89). A worker slot cancels its own job's work of that
name, and traps PERM where only other jobs hold it; a service core cancels it in every job that holds it. The frame that the commit
needs is reserved before a package that decides elsewhere is asked (R326). -/
def execCancel (a : BitVec 5) (g : BitVec 4) (s : State) : Host.Outcome State Fault Refusal :=
  s.attempt g 4 (do
    let name := s.x a
    openIf (s.worker && targetKind name == 3) .perm
    if bitsAt name.toNat 32 30 ≠ 0 then
      let r ← s.commit
      .ok (r.retire 4)
    else if s.decidedAway name then
      let r ← s.reserve
      .ok (r.mod (fun t => { t with pend := some (.cancel name), wait := none }))
    else
      let mine := fun (j : W32) => !s.worker || j == s.slot.job
      openIf (s.nameJobs name != [] && !(s.nameJobs name).any mine) .perm
      let r ← s.commit
      let l := s.slot.launch
      .ok (((r.cancelName name mine).retire 4).stopIfCancelled l))

end Sys2Proof.Machine
end

