-- ==== Sys2Proof/Machine/VecArith.lean ====
section
/-! DEFINITION. Vector arithmetic: floating lanes (R184, R185), the special functions (R186), integer and logical lanes
(R187), compares (R188) and select (R189). -/

namespace Sys2Proof.Machine

/-- The lane width a type or width bit names (R182). -/
def laneW (t : BitVec 1) : Nat := if t = 0 then 32 else 64
/-- The format a floating type bit names: 0 .f32, 1 .f64 (R182). -/
def laneFmt (t : BitVec 1) : Fmt := if t = 0 then fp32 else fp64

/-- The flags of the enabled lanes below `n` taken together (R150). -/
def laneFlags (g : BitVec 16) (f : Nat → Nat × Flags) : Nat → Flags
  | 0 => 0
  | n + 1 => laneFlags g f n ||| (if g.getLsbD n then (f n).2 else 0)

/-- Lane `i` of width `W` of the value a source register gives. -/
def State.lane (s : State) (W : Nat) (r : BitVec 5) (i : Nat) : Nat := (laneOf W (s.vin r) i).toNat

/-- A floating instruction whose lane `i` gives the bits and flags `f i` (R184 to R186). -/
def vfExec (t : BitVec 1) (d : BitVec 5) (srcs : List (BitVec 5)) (g : BitVec 4) (s : State) (f : Nat → Nat × Flags) :
    Host.Outcome State Fault Refusal :=
  s.vecEnd [d] srcs (laneFlags (s.guard g) f (512 / laneW t))
    (fun s' => s'.setV d (guardedLanes (laneW t) (s.guard g) (s.v d) (fun i => BitVec.ofNat (laneW t) (f i).1)))

/-- Binary, fused and unary floating lanes (R184). -/
def vfBin (op : Fmt → RM → Nat → Nat → Nat × Flags) (d a b : BitVec 5) (t : BitVec 1) (g : BitVec 4) (s : State) :
    Host.Outcome State Fault Refusal :=
  vfExec t d [a, b] g s (fun i => op (laneFmt t) s.rm (s.lane (laneW t) a i) (s.lane (laneW t) b i))
def vfFused (negProd negAdd : Bool) (d a b : BitVec 5) (t : BitVec 1) (g : BitVec 4) (s : State) :
    Host.Outcome State Fault Refusal :=
  vfExec t d [a, b] g s (fun i => ffmaR (laneFmt t) s.rm negProd negAdd (s.lane (laneW t) a i) (s.lane (laneW t) b i)
    (laneOf (laneW t) (s.v d) i).toNat)
def vfUn (op : Fmt → RM → Nat → Nat × Flags) (d a : BitVec 5) (t : BitVec 1) (g : BitVec 4) (s : State) :
    Host.Outcome State Fault Refusal :=
  vfExec t d [a] g s (fun i => op (laneFmt t) s.rm (s.lane (laneW t) a i))

/-- R185: VABS and VNEG. -/
def absR (f : Fmt) (x : Nat) : Nat := if (unpack f x).isNan then f.nanCode else x % f.signBit
def negR (f : Fmt) (x : Nat) : Nat := if (unpack f x).isNan then f.nanCode else (x + f.signBit) % (2 * f.signBit)

/-- VADD (R184). -/
def execVadd (d a b : BitVec 5) (t : BitVec 1) (g : BitVec 4) (s : State) : Host.Outcome State Fault Refusal :=
  vfBin faddR d a b t g s

/-- VSUB (R184). -/
def execVsub (d a b : BitVec 5) (t : BitVec 1) (g : BitVec 4) (s : State) : Host.Outcome State Fault Refusal :=
  vfBin fsubR d a b t g s

/-- VMUL (R184). -/
def execVmul (d a b : BitVec 5) (t : BitVec 1) (g : BitVec 4) (s : State) : Host.Outcome State Fault Refusal :=
  vfBin fmulR d a b t g s

/-- VMIN (R184). -/
def execVmin (d a b : BitVec 5) (t : BitVec 1) (g : BitVec 4) (s : State) : Host.Outcome State Fault Refusal :=
  vfBin (fun f _ => fminmaxR f false) d a b t g s

/-- VMAX (R184). -/
def execVmax (d a b : BitVec 5) (t : BitVec 1) (g : BitVec 4) (s : State) : Host.Outcome State Fault Refusal :=
  vfBin (fun f _ => fminmaxR f true) d a b t g s

/-- VDIV (R184). -/
def execVdiv (d a b : BitVec 5) (t : BitVec 1) (g : BitVec 4) (s : State) : Host.Outcome State Fault Refusal :=
  vfBin (fun f rm x y => fdivR f rm (unpack f x) (unpack f y)) d a b t g s

/-- VFMA (R184): V[a] × V[b] + V[d]. -/
def execVfma (d a b : BitVec 5) (t : BitVec 1) (g : BitVec 4) (s : State) : Host.Outcome State Fault Refusal :=
  vfFused false false d a b t g s

/-- VFMS (R184): V[a] × V[b] − V[d]. -/
def execVfms (d a b : BitVec 5) (t : BitVec 1) (g : BitVec 4) (s : State) : Host.Outcome State Fault Refusal :=
  vfFused false true d a b t g s

/-- VFNMA (R184): −(V[a] × V[b]) + V[d]. -/
def execVfnma (d a b : BitVec 5) (t : BitVec 1) (g : BitVec 4) (s : State) : Host.Outcome State Fault Refusal :=
  vfFused true false d a b t g s

/-- VABS (R184, R185). -/
def execVabs (d a : BitVec 5) (t : BitVec 1) (g : BitVec 4) (s : State) : Host.Outcome State Fault Refusal :=
  vfUn (fun f _ x => (absR f x, 0)) d a t g s

/-- VNEG (R184, R185). -/
def execVneg (d a : BitVec 5) (t : BitVec 1) (g : BitVec 4) (s : State) : Host.Outcome State Fault Refusal :=
  vfUn (fun f _ x => (negR f x, 0)) d a t g s

/-- VSQRT (R184). -/
def execVsqrt (d a : BitVec 5) (t : BitVec 1) (g : BitVec 4) (s : State) : Host.Outcome State Fault Refusal :=
  vfUn (fun f rm x => fsqrtR f rm (unpack f x)) d a t g s

/-- VRCP (R186). -/
def execVrcp (d a : BitVec 5) (g : BitVec 4) (s : State) : Host.Outcome State Fault Refusal :=
  vfUn (fun _ _ => rcpR) d a 0 g s

/-- VRSQRT (R186). -/
def execVrsqrt (d a : BitVec 5) (g : BitVec 4) (s : State) : Host.Outcome State Fault Refusal :=
  vfUn (fun _ _ => rsqrtR) d a 0 g s

/-- VEXP2 (R186). -/
def execVexp2 (d a : BitVec 5) (g : BitVec 4) (s : State) : Host.Outcome State Fault Refusal :=
  vfUn (fun _ _ => exp2R) d a 0 g s

/-- VLOG2 (R186). -/
def execVlog2 (d a : BitVec 5) (g : BitVec 4) (s : State) : Host.Outcome State Fault Refusal :=
  vfUn (fun _ _ => log2R) d a 0 g s

/-- VSIN (R186). -/
def execVsin (d a : BitVec 5) (g : BitVec 4) (s : State) : Host.Outcome State Fault Refusal :=
  vfUn (fun _ _ => trigR false) d a 0 g s

/-- VCOS (R186). -/
def execVcos (d a : BitVec 5) (g : BitVec 4) (s : State) : Host.Outcome State Fault Refusal :=
  vfUn (fun _ _ => trigR true) d a 0 g s

/-! ### Integer and logical lanes -/

/-- An integer instruction of `W`-bit lanes: no flags (R187). -/
def viExec (w : BitVec 1) (op : (W : Nat) → BitVec W → BitVec W → BitVec W) (d a b : BitVec 5) (g : BitVec 4) (s : State) :
    Host.Outcome State Fault Refusal :=
  s.vecEnd [d] [a, b] 0 (fun s' => s'.setV d (guardedLanes (laneW w) (s.guard g) (s.v d)
    (fun i => op (laneW w) (laneOf _ (s.vin a) i) (laneOf _ (s.vin b) i))))

/-- VIADD (R187). -/
def execViadd (d a b : BitVec 5) (w : BitVec 1) (g : BitVec 4) (s : State) : Host.Outcome State Fault Refusal :=
  viExec w (aluResult .add) d a b g s

/-- VISUB (R187). -/
def execVisub (d a b : BitVec 5) (w : BitVec 1) (g : BitVec 4) (s : State) : Host.Outcome State Fault Refusal :=
  viExec w (aluResult .sub) d a b g s

/-- VIMUL (R187). -/
def execVimul (d a b : BitVec 5) (w : BitVec 1) (g : BitVec 4) (s : State) : Host.Outcome State Fault Refusal :=
  viExec w (aluResult .mul) d a b g s

/-- VAND (R187). -/
def execVand (d a b : BitVec 5) (w : BitVec 1) (g : BitVec 4) (s : State) : Host.Outcome State Fault Refusal :=
  viExec w (aluResult .and) d a b g s

/-- VOR (R187). -/
def execVor (d a b : BitVec 5) (w : BitVec 1) (g : BitVec 4) (s : State) : Host.Outcome State Fault Refusal :=
  viExec w (aluResult .or) d a b g s

/-- VXOR (R187). -/
def execVxor (d a b : BitVec 5) (w : BitVec 1) (g : BitVec 4) (s : State) : Host.Outcome State Fault Refusal :=
  viExec w (aluResult .xor) d a b g s

/-- VSHL (R187). -/
def execVshl (d a b : BitVec 5) (w : BitVec 1) (g : BitVec 4) (s : State) : Host.Outcome State Fault Refusal :=
  viExec w (aluResult .shl) d a b g s

/-- VSHR (R187). -/
def execVshr (d a b : BitVec 5) (w : BitVec 1) (g : BitVec 4) (s : State) : Host.Outcome State Fault Refusal :=
  viExec w (aluResult .shr) d a b g s

/-- VSRA (R187). -/
def execVsra (d a b : BitVec 5) (w : BitVec 1) (g : BitVec 4) (s : State) : Host.Outcome State Fault Refusal :=
  viExec w (aluResult .sra) d a b g s

/-- VIMIN (R187). -/
def execVimin (d a b : BitVec 5) (w n : BitVec 1) (g : BitVec 4) (s : State) : Host.Outcome State Fault Refusal :=
  viExec w (aluResult (if n = 0 then .min else .minn)) d a b g s

/-- VIMAX (R187). -/
def execVimax (d a b : BitVec 5) (w n : BitVec 1) (g : BitVec 4) (s : State) : Host.Outcome State Fault Refusal :=
  viExec w (aluResult (if n = 0 then .max else .maxn)) d a b g s

/-! ### Compare and select -/

/-- VCMP (R188). -/
def execVcmp (p : BitVec 3) (a b : BitVec 5) (t : BitVec 1) (c : BitVec 3) (g : BitVec 4) (s : State) :
    Host.Outcome State Fault Refusal :=
  let n := 512 / laneW t
  let r := fun i => fcmpR (laneFmt t) c.toNat (s.lane (laneW t) a i) (s.lane (laneW t) b i)
  s.vecEnd [] [a, b] (laneFlags (s.guard g) (fun i => (0, (r i).2)) n)
    (fun s' => s'.setP p (guardedBits n (s.guard g) (s.p p) (fun i => (r i).1)))

/-- VICMP (R188). -/
def execVicmp (n : BitVec 1) (p : BitVec 3) (a b : BitVec 5) (w : BitVec 1) (c : BitVec 3) (g : BitVec 4) (s : State) :
    Host.Outcome State Fault Refusal :=
  s.vecEnd [] [a, b] 0 (fun s' => s'.setP p (guardedBits (512 / laneW w) (s.guard g) (s.p p)
    (fun i => intCond c n (laneOf (laneW w) (s.vin a) i) (laneOf (laneW w) (s.vin b) i))))

/-- VSEL (R189). -/
def execVsel (d a b : BitVec 5) (w : BitVec 1) (p : BitVec 3) (g : BitVec 4) (s : State) :
    Host.Outcome State Fault Refusal :=
  s.vecEnd [d] [a, b] 0 (fun s' => s'.setV d (guardedLanes (laneW w) (s.guard g) (s.v d)
    (fun i => if (s.p p).getLsbD i then laneOf (laneW w) (s.vin a) i else laneOf (laneW w) (s.vin b) i)))

end Sys2Proof.Machine
end

