-- ==== Sys2Proof/Machine/VecRed.lean ====
section
/-! DEFINITION. What combines lanes: reductions and scans (R157, R199), selection (R200, R201), and the optimiser step
(R202, R203). -/

namespace Sys2Proof.Machine

/-! ### Reductions and scans -/

/-- R199: one node on `W`-bit values, by kind (0 floating, 1 integer) and operation (0 sum, 1 min, 2 max). -/
def redNode (w k : BitVec 1) (o : Nat) (x y : Nat) : Nat × Flags :=
  let W := laneW w
  if k = 0 then match o with
    | 0 => faddR (laneFmt w) .rne x y
    | 1 => fminmaxR (laneFmt w) false x y
    | _ => fminmaxR (laneFmt w) true x y
  else match o with
    | 0 => ((x + y) % 2 ^ W, 0)
    | 1 => (if signed W x ≤ signed W y then x else y, 0)
    | _ => (if signed W x ≤ signed W y then y else x, 0)

/-- R199: the identity. -/
def redIdentity (w k : BitVec 1) (o : Nat) : Nat :=
  let f := laneFmt w
  if k = 0 then match o with
    | 0 => f.withSign true 0
    | 1 => f.infCode
    | _ => f.withSign true f.infCode
  else match o with
    | 0 => 0
    | 1 => 2 ^ (laneW w - 1) - 1
    | _ => 2 ^ (laneW w - 1)

/-- R157: one level of the pairwise tree. -/
def redLevel (node : Nat → Nat → Nat × Flags) : List Nat → List Nat × Flags
  | x :: y :: r =>
    let n := node x y
    let t := redLevel node r
    (n.1 :: t.1, n.2 ||| t.2)
  | l => (l, 0)

/-- R157: `levels` levels of the tree. -/
def redTree (node : Nat → Nat → Nat × Flags) : Nat → List Nat → Flags → Nat × Flags
  | 0, l, fl => (l.headD 0, fl)
  | n + 1, l, fl =>
    let t := redLevel node l
    redTree node n t.1 (fl ||| t.2)

/-- R199: the lanes as the reduction sees them. -/
def State.redLanes (s : State) (w k : BitVec 1) (o : Nat) (g : BitVec 4) (a : BitVec 5) : List Nat :=
  (List.range (512 / laneW w)).map (fun i =>
    if (s.guard g).getLsbD i then s.lane (laneW w) a i else redIdentity w k o)

/-- VRED (R199). -/
def execVred (d a : BitVec 5) (w k : BitVec 1) (o : BitVec 2) (g : BitVec 4) (s : State) : Host.Outcome State Fault Refusal :=
  let r := redTree (redNode w k o.toNat) (if w = 0 then 4 else 3) (s.redLanes w k o.toNat g a) 0
  s.vecEnd [] [a] r.2 (fun s' => s'.setX d (
    if w = 0 ∧ k = 1 then sext64 (BitVec.ofNat 32 r.1) else BitVec.ofNat 64 r.1))

/-- R157: the running results, after the value so far. -/
def scanFrom (node : Nat → Nat → Nat × Flags) : Nat → List Nat → List (Nat × Flags)
  | _, [] => []
  | acc, x :: r =>
    let n := node acc x
    n :: scanFrom node n.1 r

/-- VSCAN (R199): output 0 is lane 0. Every step's flags count. -/
def execVscan (d a : BitVec 5) (w k : BitVec 1) (o : BitVec 2) (g : BitVec 4) (s : State) : Host.Outcome State Fault Refusal :=
  let l := s.redLanes w k o.toNat g a
  let outs := (l.headD 0, 0) :: scanFrom (redNode w k o.toNat) (l.headD 0) l.tail
  s.vecEnd [d] [a] (outs.foldl (fun fl r => fl ||| r.2) 0)
    (fun s' => s'.setV d (guardedLanes (laneW w) (s.guard g) (s.v d) (fun i => BitVec.ofNat _ (outs.getD i (0, 0)).1)))

/-! ### Selection -/

/-- A candidate: its FP32 score and its index or code. -/
abbrev Cand := Nat × Nat

/-- R200: strictly better: descending score with every NaN lowest and equal, then the lower index. -/
def candBefore (x y : Cand) : Bool :=
  let a := unpack fp32 x.1
  let b := unpack fp32 y.1
  if a.isNan then b.isNan && decide (x.2 < y.2)
  else if b.isNan then true
  else fvLt b a || (!fvLt a b && decide (x.2 < y.2))

/-- A candidate put behind those that are not worse, so that of equals the earlier stands first. -/
def candInsert (c : Cand) : List Cand → List Cand
  | [] => [c]
  | y :: r => if candBefore c y then c :: y :: r else y :: candInsert c r

def candSort (l : List Cand) : List Cand := l.foldl (fun acc c => candInsert c acc) []

/-- R200: the register that holds the `k` best candidates, padded. -/
def candList (k : Nat) (l : List Cand) : Vec :=
  let best := (candSort l).take k
  ofLanes 32 (fun i =>
    if i < 8 then BitVec.ofNat 32 (best.getD i (0xFF800000, 0)).1
    else BitVec.ofNat 32 (best.getD (i - 8) (0, 0xFFFFFFFF)).2)

/-- Entry `j` of a list register (R200). -/
def candAt (v : Vec) (j : Nat) : Cand := ((laneOf 32 v j).toNat, (laneOf 32 v (8 + j)).toNat)

/-- VTOPK (R200). -/
def execVtopk (d a b : BitVec 5) (k : BitVec 3) (g : BitVec 4) (s : State) : Host.Outcome State Fault Refusal :=
  let n := k.toNat + 1
  let new := (List.range 16).filterMap (fun i =>
    if (s.guard g).getLsbD i then some (s.lane 32 a i, ((s.x b).toNat + i) % 2 ^ 32) else none)
  s.vecEnd [d] [a] 0 (fun s' => s'.setV d (candList n ((List.range n).map (candAt (s.v d)) ++ new)))

/-- R201: the candidate pairs of two lists. -/
def pairCands (n : Nat) (g : BitVec 16) (u v : Vec) : List Cand :=
  ((List.range n).flatMap (fun i => (List.range n).map (fun j => (i, j)))).filterMap (fun ij =>
    let x := candAt u ij.1
    let y := candAt v ij.2
    if g.getLsbD ij.1 ∧ g.getLsbD (8 + ij.2) ∧ x.2 ≠ 0xFFFFFFFF ∧ y.2 ≠ 0xFFFFFFFF then
      some ((faddR fp32 .rne x.1 y.1).1, x.2 % 65536 * 65536 + y.2 % 65536)
    else none)

/-- VPAIRK (R201). -/
def execVpairk (d a b : BitVec 5) (k : BitVec 3) (g : BitVec 4) (s : State) : Host.Outcome State Fault Refusal :=
  s.vecEnd [d] [a, b] 0 (fun s' => s'.setV d (candList (k.toNat + 1)
    (pairCands (k.toNat + 1) (s.guard g) (s.vin a) (s.vin b))))

/-! ### Optimiser step -/

/-- R202: the steps for one lane: parameter, first and second moment, and the flags of all six steps. -/
def optuLane (rm : RM) (e : Nat → FVal) (p m v g : Nat) : Nat × Nat × Nat × Flags :=
  let V := unpack fp32
  let mul := fun (x y : FVal × Flags) => let r := mulX x.1 y.1; (r.1, r.2 ||| x.2 ||| y.2)
  let add := fun (x y : FVal × Flags) => let r := addX rm x.1 y.1; (r.1, r.2 ||| x.2 ||| y.2)
  let c := fun (x : FVal) => (x, (0 : Flags))
  let neg := fun (x : FVal × Flags) => (x.1.negate, x.2)
  let m1 := opR fp32 rm (add (mul (c (e 0)) (c (V m))) (mul (c (e 2)) (c (V g))))
  let v1 := opR fp32 rm (add (mul (c (e 1)) (c (V v))) (mul (mul (c (e 3)) (c (V g))) (c (V g))))
  let q := opR fp32 rm (mul (c (V v1.1)) (c (e 7)))
  let r := fsqrtR fp32 rm (V q.1)
  let den := opR fp32 rm (add (c (V r.1)) (c (e 5)))
  let u := fdivR fp32 rm (V m1.1) (V den.1)
  let p1 := opR fp32 rm (add (add (c (V p)) (neg (mul (c (e 4)) (c (V u.1))))) (neg (mul (c (e 6)) (c (V p)))))
  (p1.1, m1.1, v1.1, m1.2 ||| v1.2 ||| q.2 ||| r.2 ||| den.2 ||| u.2 ||| p1.2)

/-- VOPTU (R202, R203). -/
def execVoptu (d a : BitVec 5) (g : BitVec 4) (s : State) : Host.Outcome State Fault Refusal :=
  let r := fun i => optuLane s.rm (fun k => unpack fp32 (s.e (BitVec.ofNat 3 k)).toNat) (s.lane 32 a i) (s.lane 32 (a + 1) i)
    (s.lane 32 (a + 2) i) (s.lane 32 (a + 3) i)
  let put := fun (t : State) (k : BitVec 5) (f : Nat → Nat) =>
    t.setV (d + k) (guardedLanes 32 (s.guard g) (s.v (d + k)) (fun i => BitVec.ofNat 32 (f i)))
  s.vecEnd [d, d + 1, d + 2] [a, a + 1, a + 2, a + 3] (laneFlags (s.guard g) (fun i => (0, (r i).2.2.2)) 16)
    (fun s' => put (put (put s' 0 (fun i => (r i).1)) 1 (fun i => (r i).2.1)) 2 (fun i => (r i).2.2.1))

end Sys2Proof.Machine
end

