-- ==== Sys2Proof/Machine/Whirl.lean ====
section
/-! DEFINITION. Whirligig regions (R234 to R252): laps and places of rows, the five instructions (R272 to R275), admission,
the sweep, failures, and the making and ending of regions. -/

namespace Sys2Proof.Machine

/-! ### Laps and places -/

/-- R238: the lap of a GTS value. -/
def Region.lap (r : Region) (gts : Nat) : Nat := (gts - r.origin) / r.period

/-- R236: the holder package of an address. -/
def Region.holder (r : Region) (va : Nat) : Nat := r.first + (va - r.base) / r.share

/-- R236: the slice of an address. -/
def Region.slice (r : Region) (va : Nat) : Nat :=
  let n := (va - r.base) % r.share / 512
  (r.sb + 2 * (n / r.rowsPerPair) + n % 2) % 64

/-! ### Requests -/

/-- R240: the issue sequence of a source slot counts one per request. -/
def State.takeSeq (s : State) (sid : Nat) : Nat × State :=
  let n := tget 0 s.issueSeq sid
  (n, { s with issueSeq := tset s.issueSeq sid (n + 1) })

/-- The message that carries a request to its holder on another package (R240). -/
def State.whirlReq (s : State) (w : WReq) : Req :=
  ⟨s.nextReq, 0, w.sid, w.tid, w.num, none, w.holder, w.va, 0, [w.va, BitVec.ofNat 64 w.tag, BitVec.ofNat 64 w.seq] ++
    (if w.num = 64 then [] else (List.range 8).map (word64 w.line.toNat)), none, 0, w.launch, w.job, w.fn, w.limit, 0, 0,
    .queued, s.gtsNow, false, none, w.rel, .whirl w.ord⟩

/-- A request leaves: to the holder slice of this package, or by the fabric (R237). -/
def State.sendWhirl (s : State) (w : WReq) : State :=
  let s := { s with wreqs := s.wreqs ++ [w] }
  if w.holder = s.pkg.toNat then s else { s with reqs := s.reqs ++ [s.whirlReq w], nextReq := s.nextReq + 1 }

/-- A request of the issuing slot, tagged (R240, R241). -/
def State.issueWhirl (s : State) (r : Region) (num : Nat) (va : W64) (tag : Nat) (line : Vec) : State :=
  let t := s.slot
  let q := s.takeSeq s.cur
  let w : WReq := ⟨s.nextReq, num, va, tag, q.1, s.srcNum s.cur, BitVec.ofNat 32 (tget 0 s.relSeq s.cur), t.launch, t.job, t.image.fn, t.rnrlim.toNat, s.cur, t.tid,
    line, 0, 0, 0, 0, r.holder va.toNat, none, 0⟩
  { q.2 with nextReq := s.nextReq + 1 }.sendWhirl w

/-! ### The instructions -/

/-- R272: the checks of a whirligig address, and its region. -/
def State.whirlCheck (s : State) (va : W64) (align : Bool) : Res Region := do
  s.workerOnly
  trapIf (!canonical va) .addr va
  trapIf (align && decide (va.toNat % 64 ≠ 0)) .align va
  match s.regionOf s.slot.job va with
  | none => .error (.trap .perm va)
  | some r => .ok r

/-- R241: the tag a minimum lap gives, and the stall while it is too far ahead. -/
def State.tagFor (s : State) (r : Region) (va minLap : W64) : Res Nat :=
  let cur := r.lap s.gtsNow
  let tag := max minLap.toNat (cur + r.dist)
  if cur + 255 < tag then .error (.wait 8 va 0) else .ok tag

/-- WREAD (R273). -/
def execWread (d a b : BitVec 5) (g : BitVec 4) (s : State) : Host.Outcome State Fault Refusal :=
  s.finish (do
    s.boundIf [d]
    if s.runs g then do
      let va := s.x a
      let r ← s.whirlCheck va true
      let tag ← s.tagFor r va (s.x b)
      .ok ((s.issueWhirl r 64 va tag 0).mod (fun t => { t with pend := some (.wread d b va), wait := none, word := s.ir2 ++ s.ir }))
    else .ok (s.retire 4))

/-- WADD, WSET and WMAX (R274): V[b] as it stands, the minimum lap in X[d]. -/
def updateExec (num : Nat) (d a b : BitVec 5) (g : BitVec 4) (s : State) : Host.Outcome State Fault Refusal :=
  s.attempt g 4 (do
    let va := s.x a
    let r ← s.whirlCheck va true
    let tag ← s.tagFor r va (s.x d)
    let s1 ← s.takeElems [b]
    let s2 ← s1.commit
    .ok ((s2.issueWhirl r num va tag (s.vin b)).retire 4))

/-- WADD (R274). -/
def execWadd (d a b : BitVec 5) (g : BitVec 4) (s : State) : Host.Outcome State Fault Refusal := updateExec 65 d a b g s

/-- WSET (R274). -/
def execWset (d a b : BitVec 5) (g : BitVec 4) (s : State) : Host.Outcome State Fault Refusal := updateExec 66 d a b g s

/-- WMAX (R274). -/
def execWmax (d a b : BitVec 5) (g : BitVec 4) (s : State) : Host.Outcome State Fault Refusal := updateExec 67 d a b g s

/-- WLAP (R275). -/
def execWlap (d a : BitVec 5) (g : BitVec 4) (s : State) : Host.Outcome State Fault Refusal :=
  s.attempt g 4 (do
    let r ← s.whirlCheck (s.x a) false
    .ok ((s.setX d (BitVec.ofNat 64 (r.lap s.gtsNow))).retire 4))

/-! ### Failures -/

/-- R242: an update fails: the issuing task's mark is set, its first cause and address kept, and the ESC of the issuing
cluster is told. An answer for a task that no longer exists is dropped (R248). -/
def State.failUpdate (s : State) (w : WReq) (c : Cause) : State :=
  match s.taskSlot w.tid with
  | none => s
  | some t =>
    let s := s.modTask w.tid (fun t => if t.failCause = 0 then { t with failCause := c.code, failAddr := w.va } else t)
    s.toEsc (w.sid / 512) w.sid t.job t.image.fn (w.src ++ BitVec.ofNat 32 (2 ^ 9 + c.code)) 0 w.va 0

/-- The WREAD a task waits in is this request's. -/
def State.waitsFor (s : State) (w : WReq) : Option (BitVec 5 × BitVec 5) :=
  (s.taskSlot w.tid).bind (fun t => match t.pend with
    | some (.wread d b va) => if va = w.va then some (d, b) else none
    | _ => none)

/-- A request of a thread ends without success (R242, R273). -/
def State.failWhirl (s : State) (w : WReq) (c : Cause) : State :=
  if w.num = 64 then (if (s.waitsFor w).isSome then s.trapTask w.tid c w.va else s) else s.failUpdate w c

/-- R273: the answer of a WREAD: V[d] := the block, X[b] := the lap, and the thread goes on. -/
def State.readDone (s : State) (w : WReq) : State :=
  match s.waitsFor w with
  | none => s
  | some (d, b) => s.retireTask w.tid 4 (fun t => (t.putV d w.line).putX b (BitVec.ofNat 64 w.lap))

/-! ### The sweep -/

/-- R160: one element updated: FP32 or BF16. -/
def updElem (bf : Bool) (num : Nat) (old x : Nat) : Nat :=
  let f := if bf then bf16 else fp32
  match num with
  | 65 => (faddR f .rne old x).1
  | 66 => x
  | _ => (fminmaxR f true old x).1

/-- R160: one block updated. -/
def updBlock (bf : Bool) (num : Nat) (old x : Vec) : Vec :=
  let w := if bf then 16 else 32
  ofLanes w (fun i => BitVec.ofNat w (updElem bf num (laneOf w old i).toNat (laneOf w x i).toNat))

/-- The block of a request as it stands, and its mark (R247). -/
def whirlPoisoned (s : State) (va : Nat) : Bool := s.poison.contains ((whirlBase + va) / 64)
def whirlLine (s : State) (va : Nat) : Vec := BitVec.ofNat 512 (memRead s.mem (whirlBase + va) 64)

/-- R243, R247: one admitted update is applied; it answers OK or MCHECK. A block of a retired page without a spare stays
poisoned. -/
def State.applyUpdate (s : State) (r : Region) (w : WReq) : State × Nat :=
  let va := w.va.toNat
  if whirlPoisoned s va && w.num != 66 then (s, 3)
  else
    ({ s with
      mem := memWrite s.mem (whirlBase + va) 64 (ones 64) (updBlock r.bf16 w.num (whirlLine s va) w.line).toNat
      poison := if r.bad.contains (va / 64) then s.poison else s.poison.filter (· != (whirlBase + va) / 64) }, 0)

/-- R243: ascending source number, then ascending issue sequence. -/
def updBefore (a b : WReq) : Bool := decide (a.src.toNat < b.src.toNat) || (a.src == b.src && decide (a.seq ≤ b.seq))

def insertUpd (w : WReq) : List WReq → List WReq
  | [] => [w]
  | x :: r => if updBefore w x then w :: x :: r else x :: insertUpd w r

/-- A request of another package waits at its holder (R240). -/
def State.foreign (s : State) (w : WReq) : Bool := w.src.toNat / 2 ^ 16 != s.pkg.toNat

/-- R243 steps 1 and 2 on the requests of one row and lap, the updates sorted: each with its final answer. -/
def State.serveRow (s : State) (r : Region) (ups reads : List WReq) : State × List WReq :=
  let a := ups.foldl (fun (p : State × List WReq) w =>
    let q := p.1.applyUpdate r w
    (q.1, p.2 ++ [{ w with st := 3, lap := w.tag, status := q.2 }])) (s, [])
  (a.1, reads.map (fun w => { w with
      st := 3, lap := w.tag, status := if whirlPoisoned a.1 w.va.toNat then 3 else 0
      line := whirlLine a.1 w.va.toNat }) ++ a.2)

def SliceSt.none : SliceSt := ⟨0, 0, 0, false⟩

def State.modRegion (s : State) (k : Nat) (f : Region → Region) : State := { s with regions := modAt f s.regions k }
def Region.putSlice (r : Region) (sl : Nat) (v : SliceSt) : Region := { r with slices := tset r.slices sl v }

/-- R239: sweep L starts at the later of boundary L and the end of sweep L − 1. -/
def SliceSt.startNext (v : SliceSt) : SliceSt :=
  if !v.sweeping && decide (v.sweep < v.closed) then { v with sweep := v.sweep + 1, cursor := 0, sweeping := true } else v

/-- R402: bits of the health status set. -/
def State.setHealth (s : State) (m : W64) : State := { s with health := { s.health with hlthst := s.health.hlthst ||| m } }

/-- R250: after sweep Z − 1 the slice's part of the region is zeroed. -/
def State.zeroPart (s : State) (r : Region) (sl : Nat) : State :=
  let mine := fun (a : Nat) => decide (whirlBase + r.base ≤ a) && decide (a < whirlBase + r.base + r.sizeg * 2 ^ 30)
    && r.holder (a - whirlBase) == s.pkg.toNat && r.slice (a - whirlBase) == sl
  { s with mem := s.mem.filter (fun c => !mine c.1), poison := s.poison.filter (fun l => !mine (64 * l)) }

/-- The answer of a foreign request, ready for the gateway: 68 or 69 with lap and status (R240). -/
def State.whirlAnswer (s : State) (w : WReq) : List W64 :=
  let body := w.num = 64 ∧ w.status = 0
  let n : Nat := if w.num = 64 then 68 else 69
  [BitVec.ofNat 64 (w.src.toNat / 2 ^ 16 * 2 ^ 54 + s.pkg.toNat * 2 ^ 44 + 2 ^ 41 + w.fn.toNat * 2 ^ 34 + (if body then 2 ^ 17 else 0)),
    w.va, w.job ++ 0#32, 0,
    BitVec.ofNat 64 (n * 256), w.va, BitVec.ofNat 64 (if w.status = 0 then w.lap else w.tag), BitVec.ofNat 64 w.status, 0,
    w.launch ++ 0#32, w.src ++ w.rel, if body then BitVec.ofNat 64 (2 ^ 50) else 0] ++
    (if body then (List.range 8).map (word64 w.line.toNat) else [])

/-- A packet waits at the gateway of a die for a port. -/
def State.sendPacket (s : State) (die : Nat) (pkt : List W64) : State :=
  { s with fabric := { s.fabric with out := s.fabric.out ++ [⟨pkt, die, s.gtsNow, none⟩] } }

/-- The answer to a request of another package, recorded for a copy that may still come (R343). -/
def State.answerForeign (s : State) (w : WReq) : State :=
  let a := s.whirlAnswer w
  let l := s.fabric.performed.map (fun d =>
    if d.pkg == w.src.toNat / 2 ^ 16 && d.rid == w.rid then { d with ans := some a, since := s.gtsOf 0 } else d)
  { s with fabric := { s.fabric with performed := l } }.sendPacket 0 a

/-- A request gets its answer at the holder: foreign ones leave by the gateway, own ones wait for their delivery. -/
def State.answerWhirl (s : State) (w : WReq) : State :=
  if s.foreign w then s.answerForeign w
  else { s with wreqs := s.wreqs ++ [w] }

/-- The unit word of the slice-local page that holds a row (R401, log 57): 2^23 − 64 × (its place from the top + 1) + the slice. -/
def State.rowUnit (s : State) (r : Region) (sl pos : Nat) : W64 :=
  let before := ((s.heldOn sl).takeWhile (fun q => q.base != r.base)).foldl (fun n q => n + q.part / 65536) 32
  BitVec.ofNat 64 (3 * 2 ^ 56 + (2 ^ 23 - 64 * (before + pos / 128 + 1) + sl))

/-- R243: the cursor of the sweep of slice `sl` reaches the next row; an error answered is to be tested (R421). -/
def State.visitRow (s : State) (k : Nat) (r : Region) (sl : Nat) (v : SliceSt) : State :=
  let row := r.rowAt s.pkg.toNat sl v.cursor
  let here := fun (w : WReq) => w.st == 1 && w.tag == v.sweep && w.va.toNat / 512 == row / 512 && w.holder == s.pkg.toNat
  let l := s.wreqs.filter here
  let ups := (l.filter (fun w => w.num != 64)).foldl (fun acc w => insertUpd w acc) []
  let served := { s with wreqs := s.wreqs.filter (fun w => !here w) }.serveRow r ups (l.filter (fun w => w.num == 64))
  let s := served.2.foldl (fun s w => s.answerWhirl w) served.1
  let s := if served.2.any (fun w => w.status == 3) then s.addTodo [s.rowUnit r sl v.cursor] else s
  if v.cursor + 1 < r.rowsPerPair / 2 then s.modRegion k (fun r => r.putSlice sl { v with cursor := v.cursor + 1 })
  else
    let done := { v with cursor := v.cursor + 1, sweeping := false }
    if r.zap = some (v.sweep + 1) then
      let s := s.zeroPart r sl
      let s := s.modRegion k (fun r => { r with slices := tdel r.slices sl })
      { s with regions := s.regions.filter (fun q => !(q.base == r.base && q.slices.isEmpty)) }
    else s.modRegion k (fun r => r.putSlice sl done.startNext)

/-! ### Events -/

/-- LAP_BOUNDARY (R239): a holder slice passes the next boundary its GTS copy has reached; a sweep still running is an
overrun (R402). On a package that holds no part, a destroyed region's descriptor is dropped (R250). -/
def execLapBoundary (region slice : Nat) (s : State) : Host.Outcome State Fault Refusal :=
  .next (match nth s.regions region with
    | none => s
    | some r =>
      let lap := r.lap (s.gtsOf (slice / 16))
      match tfind r.slices slice with
      | none => if r.slices.isEmpty && r.zap.any (fun z => decide (z ≤ lap)) then
          { s with regions := delAt s.regions region } else s
      | some v =>
        if v.closed < lap then
          let s := if v.sweeping then s.setHealth (BitVec.ofNat 64 (2 ^ 33)) else s
          s.modRegion region (fun r => r.putSlice slice { v with closed := v.closed + 1 }.startNext)
        else s)

/-- SWEEP_ROW_VISIT (R243). -/
def execSweepRowVisit (region slice : Nat) (s : State) : Host.Outcome State Fault Refusal :=
  .next (match nth s.regions region with
    | none => s
    | some r => match tfind r.slices slice with
      | none => s
      | some v => if v.sweeping then s.visitRow region r slice v else s)

/-- R242: what a holder slice answers an arriving request: 1 LATE, 2 FULL, 4 PERM, or none when it admits it. -/
def State.refusal (s : State) (w : WReq) : Option Nat :=
  match s.regionOf w.job w.va with
  | none => some 4
  | some r =>
    let sl := r.slice w.va.toNat
    let gone := match r.zap with
      | some z => decide (z ≤ w.tag)
      | none => false
    if gone then some 4
    else if w.tag ≤ max (r.lap (s.gtsOf (sl / 16))) (tget SliceSt.none r.slices sl).closed then some 1
    else
      let queued := s.wreqs.filter (fun q => q.st == 1 && (match s.regionOf q.job q.va with
        | some r => r.slice q.va.toNat == sl
        | none => false))
      if 65536 ≤ queued.length then some 2 else none

/-- The slice that a request goes to. -/
def State.whirlSlice (s : State) (w : WReq) : Option Nat := (s.regionOf w.job w.va).map (fun r => r.slice w.va.toNat)

/-- R335: a request of the same source for the same slice left before. -/
def State.whirlBefore (s : State) (w : WReq) (idx : Nat) : Bool :=
  (s.wreqs.take idx).any (fun o => o.st == 0 && o.holder == w.holder && o.src == w.src && s.whirlSlice o == s.whirlSlice w)

/-- WHIRLIGIG_REQUEST_ARRIVAL (R242): the request of the list, at its holder slice on this package. A LATE or FULL answer
goes to the issuing agent; PERM is final. -/
def execWhirligigRequestArrival (idx : Nat) (s : State) : Host.Outcome State Fault Refusal :=
  .next (match nth s.wreqs idx with
    | none => s
    | some w =>
      if w.st = 0 ∧ w.holder = s.pkg.toNat ∧ !s.whirlBefore w idx then
        let rest := { s with wreqs := delAt s.wreqs idx }
        match s.refusal w with
        | none => { rest with wreqs := rest.wreqs ++ [{ w with st := 1 }] }
        | some c =>
          if s.foreign w then rest.answerForeign { w with status := c }
          else { rest with wreqs := rest.wreqs ++ [{ w with st := if c = 4 then 3 else 2, status := c }] }
      else s)

/-! ### Making and ending regions (R234, R235, R250, R403) -/

/-- R403: who may ask: the physical function or a steward. -/
def mayAsk (creator : W32) : Bool :=
  creator == 0xFC00007F || (wellFormedSrc creator.toNat && isSteward (creator.toNat % 2 ^ 16 / 8))

/-- R403: the reply of steward 34 of die 0, with the code in word 1 and the result in word 2: a MESSAGE entry of a ring (R412),
or an image for a core, whose word 0 is not stated and free (log 21); to another package it leaves as a MSG. -/
def State.reply (s : State) (target : W64) (code result : Nat) : State :=
  let c := BitVec.ofNat 64 code
  let r := BitVec.ofNat 64 result
  let sid := 34 * 8
  if target.toNat / 2 ^ 62 = 1 ∧ bitsAt target.toNat 16 10 = s.pkg.toNat then
    s.ringEntry (target.toNat % 1024) 1 [0, c, r, 0, 0, 0, s.srcNum sid ++ 0#32]
  else
    let w := s.nextFree64
    let t := w.2.relTag sid 4
    let i : Image := ⟨w.1, c, r, 0, 0, 0, s.srcNum sid ++ t.1, 0, none, [], 0, 127, false, [], none⟩
    if targetKind target = 0 ∧ bitsAt target.toNat 16 10 = s.pkg.toNat then t.2.post (targetCore target) i true
    else
      let q : Req := ⟨t.2.nextReq, 0, sid, 0, 0, none, bitsAt target.toNat 16 10, 0, 0, [], some i, target, 0, 0, 127, 8, 0, 0, .queued,
        s.gtsOf 0, false, none, t.1, .msg false⟩
      t.2.addReqs [q]

/-- The region a descriptor describes (R234). -/
def descRegion (d : List W64) : Region :=
  let w := fun i => (recWord d i).toNat
  ⟨w 0, bitsAt (w 1) 32 16, bitsAt (w 1) 22 10, bitsAt (w 1) 12 10 + 1, bitsAt (w 1) 6 6, bitsAt (w 1) 0 6 + 1, w 2,
    bitsAt (w 3) 32 32, bitsAt (w 3) 8 8, (w 3).testBit 0, BitVec.ofNat 32 (w 4), none, [], []⟩

/-- R235 BADFIELD. -/
def descBad (d : List W64) : Bool :=
  let w := fun i => (recWord d i).toNat
  let r := descRegion d
  decide (w 0 % 2 ^ 30 ≠ 0) || bitsAt (w 1) 48 16 != 0 || r.sizeg == 0 || decide (4096 < r.sizeg) || decide (r.sizeg % r.npkg ≠ 0)
    || decide (576 < r.first + r.npkg) || decide (576 ≤ r.first) || decide (r.sb % 2 ≠ 0) || decide (r.sc % 2 ≠ 0)
    || decide (r.period < 1000) || bitsAt (w 3) 16 16 != 0 || bitsAt (w 3) 1 7 != 0 || r.dist == 0 || bitsAt (w 4) 32 32 != 0
    || w 5 != 0 || w 6 != 0 || w 7 != 0 || decide (r.sizeg * 2 ^ 30 % (r.npkg * r.sc * 2 ^ 16) ≠ 0)

/-- R235 OVERLAP: the range meets another region, or a page the job's tables map; a placement that routes to holder packages
is no page. -/
def State.descOverlap (s : State) (r : Region) : Bool :=
  let e := r.base + r.sizeg * 2 ^ 30
  let lo := r.base % 2 ^ 56
  s.regions.any (fun q => decide (q.base < e) && decide (r.base < q.base + q.sizeg * 2 ^ 30)) ||
    s.tables.any (fun t => entAsid t == s.asid r.job && !(entKind t == 2 && t.word.getLsbD 61) &&
      decide (entBase t < lo + r.sizeg * 2 ^ 30) && decide (lo < entBase t + 2 ^ sizeLog (entSize t)))

/-- R235 BANDWIDTH: the sum of (part ÷ period) over a slice exceeds 250 bytes per tick. -/
def overBand (l : List Region) : Bool :=
  let f := l.foldl (fun (p : Nat × Nat) q => (p.1 * q.period + q.part * p.2, p.2 * q.period)) (0, 1)
  decide (250 * f.2 < f.1)

/-- R428: the room of a slice for a new part. -/
def State.roomOn (s : State) (sl : Nat) : Nat :=
  let l := s.heldOn sl
  2 ^ 33 - (if l.isEmpty then 2 ^ 21 else 0) - l.foldl (fun n q => n + q.part) 0

/-- R235: the result of a creation, by the first failing check; a check may fail on another holder package (log 22). -/
def State.createResult (s : State) (d : List W64) : Nat :=
  let r := descRegion d
  if descBad d then 1
  else if s.descOverlap r || s.health.peers == 2 then 2
  else if s.gtsOf 0 < r.origin ∨ s.health.peers = 3 then 3
  else if (s.isHolder r && decide (16 ≤ (s.regions.filter s.isHolder).length)) || decide (64 ≤ (s.regions.filter (fun q => q.job == r.job)).length) || s.health.peers == 4 then 4
  else if r.period < (r.part + 249) / 250 then 5
  else if s.health.peers == 6 || (s.isHolder r && r.sliceList.any (fun sl => overBand (r :: s.heldOn sl))) then 6
  else if s.health.peers == 7 || (s.isHolder r && r.sliceList.any (fun sl => decide (s.roomOn sl < r.part))) then 7
  else 0

/-- CREATE_REGION (R235, R403 code 1). Every row element is +0; on a holder each slice has passed the current boundary. -/
def execCreateRegion (creator : W32) (desc : List W64) (target : W64) (s : State) : Host.Outcome State Fault Refusal :=
  .next (
    if !mayAsk creator then s.reply target 1 11
    else
      let c := s.createResult desc
      let r := descRegion desc
      let made := if s.isHolder r then
        { r with slices := r.sliceList.foldl (fun t sl =>
            let l := r.lap (s.gtsOf (sl / 16))
            tset t sl (SliceSt.mk l l 0 false)) [] } else r
      let s := if c = 0 then { s with regions := s.regions ++ [made] } else s
      ({ s with health := { s.health with peers := 0 } } : State).reply target 1 c)

/-- R250: admitted requests that `late` picks are answered PERM. -/
def State.dropLate (s : State) (late : WReq → Bool) : State :=
  let hit := fun (w : WReq) => w.st == 1 && w.holder == s.pkg.toNat && late w
  (s.wreqs.filter hit).foldl (fun s w => s.answerWhirl { w with st := 3, status := 4 }) { s with wreqs := s.wreqs.filter (fun w => !hit w) }

/-- DESTROY_REGION (R250, R403 code 2): from then on, and for requests that wait, a tag of Z or later is PERM. -/
def execDestroyRegion (creator : W32) (base z target : W64) (s : State) : Host.Outcome State Fault Refusal :=
  .next (
    if !mayAsk creator then s.reply target 2 11
    else match firstIdx (fun k => (nth s.regions k).any (fun r => r.base == base.toNat)) s.regions.length 0 with
      | none => s.reply target 2 9
      | some k =>
        let lap := ((nth s.regions k).map (fun r => r.lap (s.gtsOf 0))).getD 0
        if z.toNat < lap + 256 then s.reply target 2 8
        else ((s.modRegion k (fun r => { r with zap := some z.toNat })).dropLate (fun w => (nth s.regions k).any (fun r => r.job == w.job && r.has w.va)
          && decide (z.toNat ≤ w.tag))).reply target 2 0)

/-- CHOOSE_DESTINATION_TSC (R312, R403 code 3). -/
def execChooseDestinationTsc (creator : W32) (sel target : W64) (s : State) : Host.Outcome State Fault Refusal :=
  .next (
    if !mayAsk creator then s.reply target 3 11
    else
      let die := sel.toNat % 4
      let cl := bitsAt sel.toNat 8 5
      if 23 < cl ∨ (s.coreAt ((die * 32 + cl) * 64 + 32)).fenced then s.reply target 3 10
      else (s.modDie die (fun d => { d with destTsc := cl })).reply target 3 0)

end Sys2Proof.Machine
end

