-- ==== Sys2Proof/Machine/Pklu.lean ====
section
/-! DEFINITION. The product-key lookup unit (R134, R158, R159, R162 to R180): the four instructions, admission, scoring and
selection, the round robin and row merging, arrival and accumulation, and the ends of a lookup. -/

namespace Sys2Proof.Machine

/-! ### The unit's state -/

def State.pklu (s : State) (cl : Nat) : Pklu := (s.clusterAt cl).pklu
def State.modPklu (s : State) (cl : Nat) (f : Pklu → Pklu) : State := s.modCluster cl (fun c => { c with pklu := f c.pklu })
def State.lookOf (s : State) (cl id : Nat) : Option Lookup := (s.pklu cl).look.find? (fun l => l.id == id)
def State.putLook (s : State) (cl : Nat) (l : Lookup) : State :=
  s.modPklu cl (fun u => { u with look := u.look.map (fun x => if x.id = l.id then l else x) })
def State.modFetch (s : State) (cl id : Nat) (f : PkFetch → PkFetch) : State :=
  s.modPklu cl (fun u => { u with fetch := u.fetch.map (fun x => if x.id = id then f x else x) })

/-- A lookup leaves the unit; rows it waited for are no longer held for it. -/
def Pklu.drop (u : Pklu) (id : Nat) : Pklu :=
  { u with
    look := u.look.filter (fun l => l.id != id)
    rr := u.rr.filter (· != id)
    visited := u.visited && u.rr.head? != some id
    fetch := u.fetch.map (fun f => { f with users := f.users.filter (fun x => x.1 != id) }) }

/-- R165: the CAUSE codes. -/
def pkCause (c : Cause) : Nat := match c with
  | .page => 0
  | .addr => 2
  | .align => 2
  | .remoteTimeout => 3
  | .remotePerm => 4
  | .remoteUnsupported => 5
  | .mcheck => 6
  | _ => 1

/-! ### Reads and writes of the unit (R175) -/

/-- Where a piece of one line lies for the unit: here, with another party, a fault (R165), or to be found by a walk (R301). -/
inductive UnitPlace
  | here (p : Place)
  | away (host : Option Nat) (pkg : Nat)
  | fault (c : Nat)
  | walk
deriving DecidableEq, Repr

def State.unitPlace (s : State) (core u : Nat) (job : W32) (acc : Acc) (va n : Nat) : UnitPlace :=
  if decide (2 ^ 64 ≤ va) || addrFault (BitVec.ofNat 64 va) n then .fault 2
  else match s.deviceTr core u job acc (BitVec.ofNat 64 va) n with
    | .fault c => .fault (pkCause c)
    | .miss => .walk
    | .ok p => match p.away with
      | some (h, pkg) => .away h pkg
      | none => if acc = .read ∧ s.poison.contains (p.flat / 64) then .fault 6 else .here p

/-- A range cut at line boundaries: address, bytes, offset; `f` bounds the pieces. -/
def linePieces : Nat → Nat → Nat → Nat → List (Nat × Nat × Nat)
  | 0, _, _, _ => []
  | f + 1, va, n, off =>
    let k := min n (64 - va % 64)
    if n = 0 then [] else (va, k, off) :: linePieces f (va + k) (n - k) (off + k)

def pieces (va n : Nat) : List (Nat × Nat × Nat) := linePieces (n / 64 + 2) va n 0

/-- R301: the first piece of an access that no canonical address reaches: the check comes before every translation. -/
def badPiece (ps : List (Nat × Nat × Nat)) : Option Nat :=
  (ps.find? (fun q => decide (2 ^ 64 ≤ q.1) || addrFault (BitVec.ofNat 64 q.1) q.2.1)).map (·.1)

/-- In the place of a fault code: the page must be walked first (R301). -/
def walkCode : Nat := 255

/-- What the pieces read as; lines another party answered are in `lines`. Otherwise the code of the first fault and its
address. -/
def State.unitRead (core u : Nat) (job : W32) (hint : Nat) (lines : List (Nat × Nat)) :
    List (Nat × Nat × Nat) → State → Except (Nat × Nat) (Nat × State)
  | [], s => .ok (0, s)
  | (va, n, off) :: r, s =>
    let more := fun (x : Nat) (s : State) => (State.unitRead core u job hint lines r s).map (fun y => (x % 2 ^ (8 * n) * 2 ^ (8 * off) + y.1, y.2))
    match s.unitPlace core u job .read va n with
    | .fault c => .error (c, va)
    | .away _ _ => match tfind lines (va / 64) with
      | some x => more (x / 2 ^ (8 * (va % 64))) s
      | none => .error (1, va)
    | .walk => .error (walkCode, va)
    | .here p =>
      let q := s.readPlace (coreCluster core) (s.coreAt core).stale hint p n
      more q.1 q.2

/-- What pieces whose places are known read as, by a reader with stale mark `stale`; an uncorrectable error is code 6, with
2^64 + the place as its address. -/
def State.piecesRead (cl stale hint : Nat) : List (Nat × Nat × Place) → State → Except (Nat × Nat) (Nat × State)
  | [], s => .ok (0, s)
  | (off, n, p) :: r, s =>
    if s.poison.contains (p.flat / 64) then .error (6, 2 ^ 64 + p.flat)
    else
      let q := s.readPlace cl stale hint p n
      (State.piecesRead cl stale hint r q.2).map (fun y => (q.1 % 2 ^ (8 * n) * 2 ^ (8 * off) + y.1, y.2))

/-- The same for the unit at work for a core (R224). -/
def State.placeRead (core hint : Nat) (l : List (Nat × Nat × Place)) (s : State) : Except (Nat × Nat) (Nat × State) :=
  State.piecesRead (coreCluster core) (s.coreAt core).stale hint l s

/-- The pieces written from `x`, where they were translated to (R166). -/
def State.placeWrite (core hint x : Nat) : List (Nat × Nat × Place) → State → State
  | [], s => s
  | (off, n, p) :: r, s =>
    State.placeWrite core hint x r (s.writePlace (coreCluster core) hint p n (ones n) (x / 2 ^ (8 * off) % 2 ^ (8 * n)))

/-- The places of a range that the unit may only use on its own package, or its first fault (R166). -/
def State.unitRange (s : State) (core u : Nat) (job : W32) (acc : Acc) (va n : Nat) : Except (Nat × Nat) (List (Nat × Nat × Place)) :=
  match badPiece (pieces va n) with
  | some a => .error (2, a)
  | none => (pieces va n).foldr (fun q l => match s.unitPlace core u job acc q.1 q.2.1 with
    | .fault c => .error (c, q.1)
    | .away _ _ => .error (1, q.1)
    | .walk => .error (walkCode, q.1)
    | .here p => l.map (fun l => (q.2.2, q.2.1, p) :: l)) (.ok [])

/-- R308, R421: the fault unit `u` of a core meets at an address, 2^64 and more for a place: one that a walk ended in is met
once, and the page of an uncorrectable error is to be tested. -/
def State.meetFault (s : State) (core u : Nat) (job : W32) (c va : Nat) : State :=
  if c ≤ 1 then s.meetLatched core u (BitVec.ofNat 64 va)
  else if c = 6 then
    if 2 ^ 64 ≤ va then s.reportPage (.hbm (va - 2 ^ 64) false)
    else match s.deviceTr core u job .read (BitVec.ofNat 64 va) 1 with
      | .ok p => s.reportPage p
      | _ => s
  else s

/-- A lookup, or rank `sub` - 1 of it, has a page walked and stays as it is (R301). -/
def State.lookWalk (s : State) (l : Lookup) (sub va : Nat) : State :=
  s.unitWalk l.sid l.job l.fn .read (BitVec.ofNat 64 va) (lookUnit l.id sub)

/-- The output or the request block lies in a line the host holds: the unit waits (R406). -/
def State.lookHeld (s : State) (l : Lookup) : Bool :=
  s.hostHolds l.reqAt 64 || (l.rankPl ++ l.outPl).any (fun q => s.hostHolds q.2.2 q.2.1)

/-! ### The descriptor (R162 to R164) -/

def pkK (w : List W64) : Nat := bitsAt (recWord w 6).toNat 16 6
def pkVfmt (w : List W64) : Nat := bitsAt (recWord w 6).toNat 8 2
def pkWhirl (w : List W64) : Bool := (recWord w 6).getLsbD 0
def pkNkeys (w : List W64) : Nat := bitsAt (recWord w 5).toNat 32 17
def pkHdim (w : List W64) : Nat := bitsAt (recWord w 5).toNat 16 9
def pkRowlen (w : List W64) : Nat := bitsAt (recWord w 5).toNat 0 11
/-- R163: bytes of a row, and its cost C. -/
def pkRowBytes (w : List W64) : Nat := match pkVfmt w with
  | 0 => 4 * pkRowlen w
  | 1 => 2 * pkRowlen w
  | _ => pkRowlen w / 2 + pkRowlen w / 64
def pkCost (w : List W64) : Nat := 64 * ((pkRowBytes w + 63) / 64)
/-- R169: the quantum. -/
def pkQuantum (w : List W64) : Nat :=
  let q := bitsAt (recWord w 6).toNat 24 8
  if q = 0 then pkCost w else 64 * q

/-- R164: the descriptor is refused. PKGW (member 2) does not check the fields that it does not read. -/
def pkDescBad (member : Nat) (w : List W64) : Bool :=
  let w5 := (recWord w 5).toNat
  let w6 := (recWord w 6).toNat
  let common := bitsAt w5 49 15 != 0 || bitsAt w5 25 7 != 0 || bitsAt w5 11 5 != 0 || bitsAt w6 32 32 != 0 || bitsAt w6 22 2 != 0
    || bitsAt w6 14 2 != 0 || bitsAt w6 10 2 != 0 || bitsAt w6 6 2 != 0 || bitsAt w6 1 3 != 0
    || (List.range 9).any (fun i => recWord w (7 + i) != 0)
    || decide ((recWord w 2).toNat % 64 ≠ 0) || decide (pkRowlen w < 16) || decide (1024 < pkRowlen w)
    || decide (pkRowlen w % 16 ≠ 0) || pkVfmt w == 3 || pkK w == 0 || decide (32 < pkK w)
    || (pkVfmt w == 2 && (decide (pkRowlen w % 64 ≠ 0) || decide ((recWord w 3).toNat % 4 ≠ 0) || recWord w 3 == 0))
  let keys := decide ((recWord w 0).toNat % 64 ≠ 0) || decide ((recWord w 1).toNat % 64 ≠ 0) || pkNkeys w == 0
    || decide (65536 < pkNkeys w) || decide (pkHdim w < 16) || decide (256 < pkHdim w) || decide (pkHdim w % 16 ≠ 0)
    || bitsAt w6 4 2 != 0 || decide (pkNkeys w < pkK w)
  common || (member != 2 && keys)

/-! ### Ends of a lookup -/

/-- Word 2 is written and the lookup leaves; its completion follows, but for a cancelled launch (R165, R176, R179). -/
def State.endLook (s : State) (cl : Nat) (l : Lookup) (word : Nat) : State :=
  let s := s.writePlace (coreCluster (sidCore l.sid)) 0 (l.reqAt.plus 16) 8 (ones 8) word
  let s := s.modPklu cl (fun u => u.drop l.id)
  if s.isCancelled (sidCore l.sid) l.launch then s
  else { s with compls := s.compls ++ [Compl.mk l.sid l.tid l.tag (BitVec.ofNat 64 word)] }

/-- R165: the status word. -/
def pkWord (miss cause member : Nat) (mix nsel : Bool) (status : Nat) : Nat :=
  miss * 2 ^ 32 + cause * 2 ^ 24 + member * 2 ^ 18 + mix.toNat * 2 ^ 17 + nsel.toNat * 2 ^ 16 + status

/-- R165 FAULTED: every rank is in MISS and selection had not finished; with a descriptor that cannot be read K is not known and
MISS is 0 (DESIGN CHOICE, log 91). A page that must be walked first is (R301). -/
def State.faultLook (s : State) (cl : Nat) (l : Lookup) (c va : Nat) : State :=
  if c = walkCode then s.lookWalk l 0 va
  else (s.meetFault (sidCore l.sid) (lookUnit l.id 0) l.job c va).endLook cl l (pkWord (ones (pkK l.words)) c l.member l.mix true 3)

/-- The output as words of memory. -/
def outBytes (l : List W32) : Nat := l.foldr (fun w n => w.toNat + 2 ^ 32 * n) 0

/-- R165, R171: MIXLAP: ranks served in more than one lap, or in another than the lookup's tag; lap 0 stands for the ranks
an earlier run added. -/
def Lookup.mixed (l : Lookup) : Bool := l.mix || (l.laps.eraseDups.length > 1) || l.laps.any (fun x => x != 0 && x != l.lapTag)

/-- R166 step 8, R178: the output, then word 2. -/
def State.endGather (s : State) (cl : Nat) (l : Lookup) (miss cause status : Nat) : State :=
  let s := State.placeWrite (sidCore l.sid) 0 (outBytes l.out) l.outPl s
  s.endLook cl l (pkWord miss cause l.member l.mixed false status)

/-- The MISS bits of a list of ranks. -/
def missBits (l : List Nat) : Nat := l.foldl (fun n r => n + 2 ^ r) 0

/-- The cause at the lowest missing rank. -/
def lowCause (l : List (Nat × Nat)) : Nat :=
  match l with
  | [] => 0
  | m :: r => (r.foldl (fun b x => if x.1 < b.1 then x else b) m).2

/-! ### Accumulation (R159, R166 step 7) -/

/-- Element `e` of a row that arrived (R144, R145, R159). -/
def pkElem (w : List W64) (row data e : Nat) : W32 :=
  match pkVfmt w with
  | 0 => BitVec.ofNat 32 (bitsAt data (32 * e) 32)
  | 1 => BitVec.ofNat 32 (bitsAt data (16 * e) 16 * 2 ^ 16)
  | _ =>
    let nb := pkRowlen w / 64
    let b := e / 64
    let code := bitsAt data (8 * (pkRowlen w / 2 + b)) 8
    let sc := bitsAt data (8 * (pkRowBytes w + 4 * ((row * nb + b) / 256 - row * nb / 256))) 32
    q16Elem (q16Scale (BitVec.ofNat 32 sc) code) (bitsAt data (4 * e) 4)

/-- out(e) := RNE(w × v(e) + out(e)). -/
def Lookup.addRank (l : Lookup) (r : Nat) (f : PkFetch) : Lookup :=
  let rk := l.ranks.getD r (0, 0)
  { l with
    out := (List.range (pkRowlen l.words)).zipWith (fun e o =>
      BitVec.ofNat 32 (ffmaR fp32 .rne false false rk.2.toNat (pkElem l.words rk.1.toNat f.data e).toNat o.toNat).1) l.out
    laps := l.laps ++ f.laps }

/-- The fetch that holds rank `r` of a lookup. -/
def State.claimOf (s : State) (cl id r : Nat) : Option PkFetch :=
  (s.pklu cl).fetch.find? (fun f => f.users.contains (id, r))

/-- Ranks in their turn: added when their row is here, passed over when missing; the first that is neither stops. -/
def State.settleRanks (cl id : Nat) : List Nat → State → State
  | [], s => s
  | r :: rest, s =>
    match s.lookOf cl id with
    | none => s
    | some l =>
      if l.missing.any (fun m => m.1 == r) then State.settleRanks cl id rest (s.putLook cl { l with left := rest })
      else match s.claimOf cl id r with
        | none => s
        | some f =>
          if f.arrived then
            let s := s.putLook cl { l.addRank r f with left := rest }
            State.settleRanks cl id rest (s.modFetch cl f.id (fun f => { f with users := f.users.erase (id, r), used := s.tick }))
          else s

/-- A lookup goes on as far as it can, and ends when every rank is added or missing. -/
def State.settle (s : State) (cl id : Nat) : State :=
  match s.lookOf cl id with
  | none => s
  | some l =>
    let s := State.settleRanks cl id l.left s
    match s.lookOf cl id with
    | none => s
    | some l =>
      if l.left = [] then
        s.endGather cl l (missBits (l.missing.map (·.1))) (lowCause l.missing) (if l.missing = [] then 0 else 1)
      else s

/-- R168: a rank is declared missing. -/
def State.missRank (s : State) (cl id r c : Nat) : State :=
  match s.lookOf cl id with
  | none => s
  | some l => (s.putLook cl { l with missing := l.missing ++ [(r, c)] }).settle cl id

/-! ### Gather (R166 step 6, R169 to R171) -/

/-- R169, R171: the lookup joins the round-robin list; its tag is computed once. The region that holds VALS gives the current lap
and D; where none does, the tag is 0 (DESIGN CHOICE, log 91). -/
def State.enterGather (s : State) (cl : Nat) (l : Lookup) : State :=
  let tag := if pkWhirl l.words then match s.regionOf l.job (recWord l.words 2) with
      | some r => max (recWord l.words 4).toNat (r.lap (s.gtsOf (clusterDie cl)) + r.dist)
      | none => 0
    else 0
  let s := (s.putLook cl { l with stage := .gather, lapTag := tag }).modPklu cl (fun u => { u with rr := u.rr ++ [l.id] })
  s.settle cl l.id

/-- R163: the segments of a row: its bytes, and for Q16N the super-scales of its blocks. -/
def pkSegs (w : List W64) (row : Nat) : List (Nat × Nat × Nat) :=
  let rb := pkRowBytes w
  let base := ((recWord w 2).toNat + row * rb, rb, 0)
  if pkVfmt w = 2 then
    let nb := pkRowlen w / 64
    let lo := row * nb / 256
    let hi := (row * nb + nb - 1) / 256
    [base, ((recWord w 3).toNat + 4 * lo, 4 * (hi - lo + 1), rb)]
  else [base]

def segPieces (segs : List (Nat × Nat × Nat)) : List (Nat × Nat × Nat) :=
  segs.flatMap (fun g => linePieces (g.2.1 / 64 + 2) g.1 g.2.1 g.2.2)

/-- Where a piece of a row lies: a whirligig region when WHIRL says so (R171). -/
inductive RowPlace
  | plain (p : UnitPlace)
  | whirl (holder : Nat)
deriving DecidableEq, Repr

/-- Where a piece of a row of rank `r` is reached (R171). With WHIRL a row on a LOCAL page, of which the table says nothing, is a
permission fault (DESIGN CHOICE, log 91). -/
def State.rowPlace (s : State) (core : Nat) (l : Lookup) (r : Nat) (q : Nat × Nat × Nat) : RowPlace :=
  let at_ := s.unitPlace core (lookUnit l.id (r + 1)) l.job .read q.1 q.2.1
  if pkWhirl l.words then
    match s.regionOf l.job (BitVec.ofNat 64 q.1) with
    | some r => if q.1 < 2 ^ 64 then .whirl (r.holder q.1) else .plain (.fault 2)
    | none =>
      if q.2.2 < pkRowBytes l.words then
        .plain (match at_ with
          | .here _ => .fault 1
          | p => p)
      else .plain at_
  else .plain at_

/-- A load the unit asks another party for (R171). -/
def State.unitReq (s : State) (l : Lookup) (host : Option Nat) (pkg va n : Nat) (c : Cont) : Req :=
  { s.newReq 2 host pkg (BitVec.ofNat 64 va) (BitVec.ofNat 64 (ones n * 2 ^ (va % 64))) [] false c with
    sid := l.sid, tid := l.tid, launch := l.launch, job := l.job, fn := l.fn, limit := l.rnrlim
    since := s.gtsOf (coreDie (sidCore l.sid)) }

/-- A block of a row asked for as a WREAD (R171, R240). -/
def State.unitWread (s : State) (cl : Nat) (l : Lookup) (fid holder va : Nat) : State :=
  let q := s.takeSeq l.sid
  let w : WReq := ⟨s.nextReq, 64, BitVec.ofNat 64 (va / 64 * 64), l.lapTag, q.1, s.srcNum l.sid, BitVec.ofNat 32 (tget 0 s.relSeq l.sid), l.launch, l.job, l.fn, l.rnrlim,
    l.sid, l.tid, 0, 0, 0, 0, 0, holder, some (cl, fid), 0⟩
  { q.2 with nextReq := s.nextReq + 1 }.sendWhirl w

/-- R170: the physical row of a fetch, piece by piece: its place, the address where another party or the slices of a region find it,
and its bytes. -/
def rowKey (ps : List ((Nat × Nat × Nat) × RowPlace)) : List (Place × Nat × Nat) :=
  ps.map (fun x => match x.2 with
    | .whirl _ => (.link 0, x.1.1, x.1.2.1)
    | .plain (.here p) => (p, 0, x.1.2.1)
    | .plain (.away (some h) _) => (.host h false, 0, x.1.2.1)
    | .plain (.away none pkg) => (.remote pkg, x.1.1, x.1.2.1)
    | .plain _ => (.link 0, 0, 0))

/-- The pieces of a row that lie here, with their places. -/
def rowHerePlaces (ps : List ((Nat × Nat × Nat) × RowPlace)) : List (Nat × Nat × Place) :=
  ps.filterMap (fun x => match x.2 with
    | .plain (.here p) => some (x.1.2.2, x.1.2.1, p)
    | _ => none)

/-- The blocks of a row that lie in a region, each asked for once, with their holders. -/
def rowBlocks (ps : List ((Nat × Nat × Nat) × RowPlace)) : List (Nat × Nat) :=
  (ps.filterMap (fun x => match x.2 with
    | .whirl h => some (x.1.1 / 64, h)
    | _ => none)).eraseDups

/-- R170: the earlier fetch a new one merges into, in flight or held; one that reads other bytes is another row (log 86). -/
def mergesInto (l : Lookup) (key : List (Place × Nat × Nat)) (f : PkFetch) : Bool :=
  f.key == key && f.tag == l.lapTag && f.job == l.job && decide (l.admitted ≤ f.issued)

/-- A rank whose row must be walked to first is set aside until the walk ends, and the visit goes on (R169, R301). -/
def State.rankBack (s : State) (cl : Nat) (l : Lookup) (r va : Nat) : State :=
  (s.putLook cl { l with walking := l.walking ++ [(r, va)] }).lookWalk l (r + 1) va

/-- The fetch of rank `r` is issued: merged, sent, or found missing at once. -/
def State.issueRow (s : State) (cl : Nat) (l : Lookup) (r : Nat) : State :=
  let core := sidCore l.sid
  let segs := pkSegs l.words (l.ranks.getD r (0, 0)).1.toNat
  let ps := (segPieces segs).map (fun q => (q, s.rowPlace core l r q))
  match ((badPiece (segPieces segs)).map (fun va => (2, va))).or (ps.findSome? (fun x => match x.2 with
      | .plain (.fault c) => some (c, x.1.1)
      | .plain .walk => some (walkCode, x.1.1)
      | _ => none)) with
  | some (c, va) =>
    if c = walkCode then s.rankBack cl l r va
    else (s.meetFault core (lookUnit l.id (r + 1)) l.job c va).missRank cl l.id r c
  | none =>
    let s := s.touchAll core l.job (ps.map (·.1.1))
    let key := rowKey ps
    match (s.pklu cl).fetch.find? (mergesInto l key) with
    | some f => (s.modFetch cl f.id (fun f => { f with users := f.users ++ [(l.id, r)] })).settle cl l.id
    | none =>
      let id := (s.pklu cl).next
      let far := ps.filter (fun x => match x.2 with
        | .plain (.away _ _) => true
        | _ => false)
      let f : PkFetch := ⟨id, BitVec.ofNat 64 ((segs.headD (0, 0, 0)).1), pkRowBytes l.words, key, segs, rowHerePlaces ps, l.lapTag, l.job,
        [(l.id, r)], false, 0, far.length + (rowBlocks ps).length, none, s.tick, s.tick, []⟩
      let s := s.modPklu cl (fun u => { u with next := id + 1, fetch := u.fetch ++ [f] })
      let s := (rowBlocks ps).foldl (fun s x => s.unitWread cl l id x.2 (64 * x.1)) s
      far.foldl (fun s x => match x.2 with
        | .plain (.away h pkg) => s.addReqs [s.unitReq l h pkg x.1.1 x.1.2.1 (.row cl id x.1.2.2)]
        | _ => s) s

/-- R241: the lookup's tag lies too far ahead for a request to be sent. -/
def State.tooFar (s : State) (cl : Nat) (l : Lookup) : Bool :=
  pkWhirl l.words && (match s.regionOf l.job (recWord l.words 2) with
    | some r => decide (r.lap (s.gtsOf (clusterDie cl)) + 255 < l.lapTag)
    | none => false)

/-- A rank set aside whose walk has ended: its fetch goes on, charged already (R169, R301). -/
def State.walkedRank (s : State) (cl : Nat) : Option (Lookup × Nat) :=
  (s.pklu cl).look.findSome? (fun l =>
    if s.tooFar cl l then none
    else (l.walking.find? (fun w =>
      s.deviceTr (sidCore l.sid) (lookUnit l.id (w.1 + 1)) l.job .read (BitVec.ofNat 64 w.2) 1 != .miss)).map (fun w => (l, w.1)))

/-- R169: visits until one row fetch is issued or no lookup can issue; `f` bounds the visits. -/
def State.visit (cl : Nat) : Nat → State → State
  | 0, s => s
  | f + 1, s =>
    let u := s.pklu cl
    match u.rr with
    | [] => s
    | id :: rest =>
      let leave := s.modPklu cl (fun u => { u with rr := rest, visited := false })
      let pass := s.modPklu cl (fun u => { u with rr := rest ++ [id], visited := false })
      match s.lookOf cl id with
      | none => State.visit cl f leave
      | some l =>
        if s.tooFar cl l then State.visit cl f pass
        else match l.again with
          | r :: again => (s.putLook cl { l with again := again }).issueRow cl { l with again := again } r
          | [] => match l.todo with
            | [] => State.visit cl f (leave.putLook cl { l with deficit := 0 })
            | r :: todo =>
              let d := if u.visited then l.deficit else l.deficit + pkQuantum l.words
              if pkCost l.words ≤ d then
                let l' := { l with todo := todo, deficit := if todo = [] then 0 else d - pkCost l.words }
                let s := (if todo = [] then leave else s.modPklu cl (fun u => { u with visited := true })).putLook cl l'
                s.issueRow cl l' r
              else State.visit cl f (pass.putLook cl { l with deficit := d })

/-- Bytes of a row from another party, at offset `off` of its data, or their failure (R168). -/
def State.fillRow (s : State) (cl fid off : Nat) (x n : Nat) : State :=
  s.modFetch cl fid (fun f => { f with data := f.data + x % 2 ^ (8 * n) * 2 ^ (8 * off), need := f.need - 1 })

def State.failRow (s : State) (cl fid c : Nat) : State :=
  s.modFetch cl fid (fun f => { f with need := f.need - 1, cause := some (f.cause.getD c) })

/-- The pieces of a fetch that a block of a region covers are filled from it. -/
def State.fillBlock (s : State) (cl fid : Nat) (va : W64) (line : Vec) (lap : Nat) : State :=
  s.modFetch cl fid (fun f =>
    let mine := (segPieces f.segs).filter (fun q => q.1 / 64 == va.toNat / 64)
    { f with
      data := f.data + mine.foldl (fun n q => n + line.toNat / 2 ^ (8 * (q.1 % 64)) % 2 ^ (8 * q.2.1) * 2 ^ (8 * q.2.2)) 0
      need := f.need - 1, laps := f.laps ++ [lap] })

/-- R170: room for a row that arrived: the least recently used unpinned row leaves; with every entry pinned, the claims on
the new row are dropped and its ranks are fetched again, uncharged. -/
def State.holdRow (s : State) (cl : Nat) (f : PkFetch) : State :=
  let held := (s.pklu cl).fetch.filter (fun x => x.arrived && x.id != f.id)
  if held.length < 64 then s
  else match held.filter (fun x => x.users.isEmpty) with
    | v :: vs =>
      let out := vs.foldl (fun b x => if x.used < b.used then x else b) v
      s.modPklu cl (fun u => { u with fetch := u.fetch.filter (fun x => x.id != out.id) })
    | [] =>
      let s := s.modPklu cl (fun u => { u with fetch := u.fetch.filter (fun x => x.id != f.id) })
      f.users.foldl (fun s x => match s.lookOf cl x.1 with
        | none => s
        | some l => (s.putLook cl { l with again := l.again ++ [x.2] }).modPklu cl (fun u =>
            if u.rr.contains x.1 then u else { u with rr := u.rr ++ [x.1] })) s

/-- R224, R282: the latest stale mark of the cores that the unit works for: a row serves every lookup that merges into its fetch. -/
def State.rowStale (s : State) (cl : Nat) : Nat :=
  (s.pklu cl).look.foldl (fun n l => max n (s.coreAt (sidCore l.sid)).stale) 0

/-- Every bit of a row fetched is here. -/
def State.rowHere (s : State) (cl : Nat) (f : PkFetch) (mcheck : Bool) : State :=
  let fail := fun (s : State) (c : Nat) =>
    let s := s.modPklu cl (fun u => { u with fetch := u.fetch.filter (fun x => x.id != f.id) })
    f.users.foldl (fun s x => s.missRank cl x.1 x.2 c) s
  match f.cause with
  | some c => fail s c
  | none =>
    if mcheck then fail (f.places.foldl (fun s q => s.reportPage q.2.2) s) 6
    else match f.users with
      | [] => s.modPklu cl (fun u => { u with fetch := u.fetch.filter (fun x => x.id != f.id) })
      | (id, _) :: _ => match s.lookOf cl id with
        | none => s
        | some l => match State.piecesRead cl (s.rowStale cl) 0 f.places s with
          | .error (c, va) => fail (s.meetFault (sidCore l.sid) (lookUnit id 0) f.job c va) c
          | .ok (x, s) =>
            let s := s.modFetch cl f.id (fun f => { f with arrived := true, data := f.data + x, used := s.tick })
            let s := (f.users.map (·.1)).eraseDups.foldl (fun s id => s.settle cl id) s
            match (s.pklu cl).fetch.find? (fun x => x.id == f.id) with
            | some f => s.holdRow cl f
            | none => s

/-! ### Scoring and selection (R158, R166 steps 2 to 5, R167) -/

/-- R158: s_h of one key. -/
def keyScore (hdim q k : Nat) : Nat :=
  (roundF fp32 .rne (sumX ((List.range hdim).map (fun e =>
    (mulX (unpack bf16 (bitsAt q (16 * e) 16)) (unpack bf16 (bitsAt k (16 * e) 16))).1)))).1

/-- R166 step 3: the `k` best keys of a half of `n`. -/
def bestKeys (k hdim q table : Nat) (n : Nat) : List Cand :=
  (List.range n).foldl (fun acc i => (candInsert (keyScore hdim q (bitsAt table (16 * hdim * i) (16 * hdim)), i) acc).take k) []

/-- R166 step 4: the `k` best pairs; ties go to the lower row index. -/
def bestPairs (k n : Nat) (a b : List Cand) : List Cand :=
  (candSort (a.flatMap (fun x => b.map (fun y => ((faddR fp32 .rne x.1 y.1).1, x.2 * n + y.2))))).take k

/-- R158: the softmax weights. -/
def softmax (l : List Nat) : List Nat :=
  let m := l.headD 0
  let bad := l.any (fun x => (unpack fp32 x).isNan) || (match unpack fp32 m with
    | .inf _ => true
    | _ => false)
  if bad then l.map (fun _ => fp32.nanCode)
  else
    let n := l.map (fun x => (exp2R (fmulR fp32 .rne (fsubR fp32 .rne x m).1 0x3FB8AA3B).1).1)
    let d := n.tail.foldl (fun d x => (faddR fp32 .rne d x).1) (n.headD 0)
    n.map (fun x => (fdivR fp32 .rne (unpack fp32 x) (unpack fp32 d)).1)

/-- R167: the weights of the kept pair scores. -/
def pkWeights (w : List W64) (l : List Nat) : List Nat :=
  match bitsAt (recWord w 6).toNat 12 2 with
  | 0 => softmax l
  | 1 => l
  | 2 => l.map (fun _ => (fdivR fp32 .rne (.fin false 1 0) (.fin false (pkK w) 0)).1)
  | _ => l.map (fun _ => 0x3F800000)

/-- The lines of both key tables, in the order they are read (R163). -/
def keyLines (w : List W64) : List Nat :=
  let n := (pkNkeys w * 2 * pkHdim w + 63) / 64
  (List.range n).map (fun i => (recWord w 0).toNat + 64 * i) ++ (List.range n).map (fun i => (recWord w 1).toNat + 64 * i)

/-- R166 steps 3 to 5 on tables that were read: the rank entries. -/
def pkRanks (w : List W64) (query k1 k2 : Nat) : List (W32 × W32) :=
  let h := pkHdim w
  let n := pkNkeys w
  let b1 := bestKeys (pkK w) h (query % 2 ^ (16 * h)) k1 n
  let b2 := bestKeys (pkK w) h (query / 2 ^ (16 * h)) k2 n
  let ps := bestPairs (pkK w) n b1 b2
  (ps.map (·.2)).zipWith (fun r x => (BitVec.ofNat 32 r, BitVec.ofNat 32 x)) (pkWeights w (ps.map (·.1)))

/-- The selection of a lookup whose tables can be read. -/
def State.select (s : State) (cl : Nat) (l : Lookup) : State :=
  let core := sidCore l.sid
  let w := l.words
  let tb := pkNkeys w * 2 * pkHdim w
  let rd := fun (va n : Nat) (s : State) => State.unitRead core (lookUnit l.id 0) l.job 0 l.lines (pieces va n) s
  match (do
    let q ← State.placeRead core 0 l.queryPl s
    let a ← rd (recWord w 0).toNat tb q.2
    let b ← rd (recWord w 1).toNat tb a.2
    pure (q.1, a.1, b.1, b.2)) with
  | .error (c, va) => s.faultLook cl l c va
  | .ok (q, a, b, s) =>
    let s := s.touchAll core l.job (keyLines w)
    let ranks := pkRanks w q a b
    let x := ranks.foldr (fun r n => r.1.toNat + r.2.toNat * 2 ^ 32 + 2 ^ 64 * n) 0
    let s := State.placeWrite core 0 x l.rankPl s
    let l := { l with
      ranks := ranks, todo := List.range (pkK w), left := List.range (pkK w), lines := []
      out := List.replicate (pkRowlen w) 0 }
    if l.member = 1 then (s.putLook cl l).endLook cl l (pkWord 0 0 1 false false 0) else s.enterGather cl l

/-! ### Admission (R164, R166 step 1, R173, R174) -/

/-- A range of the issuing package: aligned, and every page there. -/
def State.ownRange (s : State) (core u : Nat) (job : W32) (acc : Acc) (va : W64) (n : Nat) : Except (Nat × Nat) (List (Nat × Nat × Place)) :=
  if va.toNat % 64 ≠ 0 then .error (2, va.toNat) else s.unitRange core u job acc va.toNat n

/-- The 64-byte pieces of `n` bytes at a place that lies in one page. -/
def Place.lines (p : Place) (n : Nat) : List (Nat × Nat × Place) := (List.range (n / 64)).map (fun i => (64 * i, 64, p.plus (64 * i)))

/-- A word of a request block, or 0 where the member does not read it (R173). -/
def State.blockWord (core : Nat) (l : Lookup) (i : Nat) (reads : Bool) (s : State) : Except (Nat × Nat) (Nat × State) :=
  if reads then State.placeRead core 0 [(0, 8, l.reqAt.plus (8 * i))] s else .ok (0, s)

/-- R165: what a PKRES knows of the laps of the ranks that are in the output: lap 0, unknown, where one of them lies in a region. -/
def State.oldLaps (s : State) (l : Lookup) (ranks : List (W32 × W32)) (old : List Nat) : List Nat :=
  if pkWhirl l.words && old.any (fun r => (segPieces (pkSegs l.words (ranks.getD r (0, 0)).1.toNat)).any (fun q =>
      (s.regionOf l.job (BitVec.ofNat 64 q.1)).isSome)) then [0] else []

/-- The lookup is checked and its words are kept; `resume` holds MISS for a PKRES that goes on (R174). Each member reads only
what R173 gives it. -/
def State.admitAs (s : State) (cl : Nat) (l : Lookup) (member : Nat) (mix : Bool) (resume : Option Nat) : State :=
  let core := sidCore l.sid
  let l := { l with member := member, mix := mix, admitted := s.tick }
  match State.placeRead core 0 (l.descAt.lines 128) s with
  | .error (c, va) => s.faultLook cl l c va
  | .ok (d, s) =>
    let w := (List.range 16).map (word64 d)
    if pkDescBad member w then s.endLook cl l (pkWord 0 0 member false false 4)
    else
      let l := { l with words := w }
      let k := pkK w
      let u := lookUnit l.id 0
      let gathers := resume.isSome || member == 2
      let sums := member != 1 || resume.isSome
      match (do
          let q ← State.blockWord core l 0 (!gathers) s
          let o ← State.blockWord core l 1 sums q.2
          let rp ← o.2.unitRange core u l.job (if gathers then .read else .write) (l.req.toNat + 24) (8 * k)
          let b ← if gathers then State.placeRead core 0 rp o.2 else pure (0, o.2)
          let query := BitVec.ofNat 64 q.1
          let output := BitVec.ofNat 64 o.1
          let qp ← if gathers then pure [] else b.2.ownRange core u l.job .read query (4 * pkHdim w)
          let op ← if sums then b.2.ownRange core u l.job .write output (4 * pkRowlen w) else pure []
          pure ({ l with query := query, output := output, rankPl := rp, queryPl := qp, outPl := op }, b.1, b.2)) with
      | .error (c, va) => s.faultLook cl l c va
      | .ok (l, b, s) =>
        let s := s.touchRange core l.job (l.req.toNat + 24) (8 * k)
        let s := if gathers then s else s.touchRange core l.job l.query.toNat (4 * pkHdim w)
        let s := if sums then s.touchRange core l.job l.output.toNat (4 * pkRowlen w) else s
        if gathers then
          let ranks := (List.range k).map (fun r => (BitVec.ofNat 32 (bitsAt b (64 * r) 32), BitVec.ofNat 32 (bitsAt b (64 * r + 32) 32)))
          let todo := match resume with
            | some m => (List.range k).filter (fun r => m.testBit r)
            | none => List.range k
          match (if resume.isSome then
              (State.placeRead core 0 l.outPl s).map (fun o =>
                ((List.range (pkRowlen w)).map (fun e => BitVec.ofNat 32 (bitsAt o.1 (32 * e) 32)), o.2))
            else .ok (List.replicate (pkRowlen w) 0, s)) with
          | .error (c, va) => s.faultLook cl l c va
          | .ok (out, s) => s.enterGather cl { l with
              ranks := ranks, todo := todo, left := todo, out := out
              laps := s.oldLaps l ranks ((List.range k).filter (fun r => !todo.contains r)) }
        else s.putLook cl { l with stage := .scoring }

/-- Admission of a lookup that waits: a PKRES acts on word 2 as it finds it; one that cannot be read ends it with MEMBER 0 (DESIGN
CHOICE, log 91). -/
def State.admitLookup (s : State) (cl : Nat) (l : Lookup) : State :=
  if l.member ≠ 3 then s.admitAs cl l l.member false none
  else match State.placeRead (sidCore l.sid) 0 [(0, 8, l.reqAt.plus 16)] s with
    | .error (c, va) => s.faultLook cl { l with member := 0 } c va
    | .ok (w, s) =>
      let m := bitsAt w 18 2
      let st := w % 256
      let nsel := w.testBit 16
      if m = 3 then s.endLook cl l 5
      else if st = 1 ∨ (st = 2 ∧ nsel = false) then s.admitAs cl l m (w.testBit 17) (some (w / 2 ^ 32))
      else if (st = 2 ∧ nsel = true) ∨ st = 3 then s.admitAs cl l m false none
      else s.endLook cl l 5

/-! ### The instructions (R172) -/

/-- PKLOOK, PKRES, PKSCORE and PKGW, by the member code of R165 (3 for PKRES). -/
def pkExec (member : Nat) (d a b : BitVec 5) (g : BitVec 4) (s : State) : Host.Outcome State Fault Refusal :=
  s.attempt g 4 (do
    s.workerOnly
    s.illegalIf (decide (2 ^ 16 ≤ (s.x d).toNat))
    let ra ← checkAddr (s.x a).toNat 64 64
    let da ← checkAddr (s.x b).toNat 128 128
    let p ← s.place .write ra 64
    let q ← s.place .read da 128
    trapIf p.away.isSome .perm ra
    trapIf q.away.isSome .perm da
    waitIf (decide (256 ≤ (s.pklu s.clusterNo).look.length)) 11 0
    let s1 ← s.commit
    let s2 ← s1.releaseFor 2
    let s3 := (s2.touchTlb s.core s.slot.job ra).touchTlb s.core s.slot.job da
    let t := s.slot
    let u := s.pklu s.clusterNo
    let l : Lookup := ⟨u.next, member, ra, da, p, q, s.cyc, [], [], [], (s.x d).setWidth 16, s.cur, t.tid, t.rnrlim.toNat, t.launch, t.job, t.image.fn, .waiting,
      0, [], 0, 0, [], [], [], [], [], [], [], 0, [], false, 0, [], 0, none⟩
    .ok ((s3.modPklu s.clusterNo (fun u => { u with next := u.next + 1, look := u.look ++ [l] })).retire 4))

/-- PKLOOK (R172, R173). -/
def execPklook (d a b : BitVec 5) (g : BitVec 4) (s : State) : Host.Outcome State Fault Refusal := pkExec 0 d a b g s

/-- PKRES (R172, R174). -/
def execPkres (d a b : BitVec 5) (g : BitVec 4) (s : State) : Host.Outcome State Fault Refusal := pkExec 3 d a b g s

/-- PKSCORE (R172, R173). -/
def execPkscore (d a b : BitVec 5) (g : BitVec 4) (s : State) : Host.Outcome State Fault Refusal := pkExec 1 d a b g s

/-- PKGW (R172, R173). -/
def execPkgw (d a b : BitVec 5) (g : BitVec 4) (s : State) : Host.Outcome State Fault Refusal := pkExec 2 d a b g s

/-! ### Events -/

/-- R166 step 1: the lookup admitted next: of those that reached the unit first, the one of the lowest source number. -/
def Pklu.first (u : Pklu) : Option Lookup :=
  match u.look.filter (fun l => l.stage == .waiting) with
  | [] => none
  | a :: r => some (r.foldl (fun b l => if l.arrived = a.arrived ∧ l.sid < b.sid then l else b) a)

/-- PKLU_ADMISSION (R166 step 1): in the cycle after a lookup reached the unit, or later. -/
def execPkluAdmission (cl : Nat) (s : State) : Host.Outcome State Fault Refusal :=
  .next (match (s.pklu cl).first with
    | none => s
    | some l => if s.lookHeld l || decide (s.cyc ≤ l.arrived) then s else s.admitLookup cl l)

/-- PKLU_SELECTION_DONE (R158, R166 steps 2 to 5): lines of the key tables that lie with another party are asked for first. -/
def execPkluSelectionDone (cl id : Nat) (s : State) : Host.Outcome State Fault Refusal :=
  .next (match s.lookOf cl id with
    | none => s
    | some l =>
      if l.stage ≠ .scoring ∨ l.need ≠ 0 ∨ s.lookHeld l then s
      else match l.fault with
        | some c => s.faultLook cl l c 0
        | none =>
          let core := sidCore l.sid
          let ask := (keyLines l.words).filterMap (fun va => match s.unitPlace core (lookUnit l.id 0) l.job .read va 64 with
            | .away h pkg => if thas l.lines (va / 64) then none else some (h, pkg, va)
            | _ => none)
          match (keyLines l.words).findSome? (fun va => match s.unitPlace core (lookUnit l.id 0) l.job .read va 64 with
            | .fault c => some (c, va)
            | .walk => some (walkCode, va)
            | _ => none) with
          | some (c, va) => s.faultLook cl l c va
          | none =>
          if ask = [] then s.select cl l
          else
            let s := s.putLook cl { l with need := ask.length }
            ask.foldl (fun s q => s.addReqs [s.unitReq l q.1 q.2.1 q.2.2 64 (.keys cl id)]) s)

/-- R138: the sum of a lookup so far stands in its output. -/
def State.partialSum (s : State) (cl id : Nat) : State :=
  match s.lookOf cl id with
  | some l => if l.stage = .gather ∧ s.lookHeld l = false then State.placeWrite (sidCore l.sid) 0 (outBytes l.out) l.outPl s else s
  | none => s

/-- PKLU_FETCH_ISSUE (R169): at most one row fetch, while fewer than 1,024 are outstanding. -/
def execPkluFetchIssue (cl : Nat) (s : State) : Host.Outcome State Fault Refusal :=
  .next (
    let u := s.pklu cl
    if 1024 ≤ (u.fetch.filter (fun f => !f.arrived)).length then s
    else match s.walkedRank cl with
      | some (l, r) =>
        let l := { l with walking := l.walking.filter (fun w => w.1 != r) }
        (s.putLook cl l).issueRow cl l r
      | none => State.visit cl (65 * u.look.length + 1) s)

/-- PKLU_ROW_ARRIVAL (R159, R166 steps 7 and 8, R168, R170): the row of fetch `fetch` is here, with an uncorrectable error if
`mcheck`. -/
def execPkluRowArrival (cl fetch : Nat) (mcheck : Bool) (s : State) : Host.Outcome State Fault Refusal :=
  .next (match (s.pklu cl).fetch.find? (fun f => f.id == fetch) with
    | none => s
    | some f =>
      if f.arrived ∨ f.need ≠ 0 ∨ f.users.any (fun x => (s.lookOf cl x.1).any s.lookHeld) then s else s.rowHere cl f mcheck)

end Sys2Proof.Machine
end

