-- ==== Sys2Proof/Machine/Engine.lean ====
section
/-! DEFINITION. The Marionette engines (R226 to R233, R270, R271): the four instructions, buffers and credits, walks tile by
tile, merged walks, and their completions. -/

namespace Sys2Proof.Machine

/-! ### The engine's state -/

def State.engine (s : State) (cl e : Nat) : Engine := RegFile.read (s.clusterAt cl).eng (BitVec.ofNat 1 e)
def State.modEngine (s : State) (cl e : Nat) (f : Engine → Engine) : State :=
  s.modCluster cl (fun c => { c with eng := RegFile.write c.eng (BitVec.ofNat 1 e) (f (RegFile.read c.eng (BitVec.ofNat 1 e))) })
def State.putEng (s : State) (cl e : Nat) (c : EngCmd) : State :=
  s.modEngine cl e (fun g => { g with cmds := g.cmds.map (fun x => if x.id = c.id then c else x) })
def State.dropEng (s : State) (cl e id : Nat) : State :=
  s.modEngine cl e (fun g => { g with cmds := g.cmds.filter (fun x => x.id != id) })

/-- A buffer no PERMIT has defined: no slot, no credit. -/
def EngBuf.none : EngBuf := ⟨0, 0, 0, 0, 0, 0⟩
def Engine.buf (g : Engine) (core b : Nat) : EngBuf := tget EngBuf.none g.bufs (core * 8 + b)
def State.setBuf (s : State) (cl e core b : Nat) (v : EngBuf) : State :=
  s.modEngine cl e (fun g => { g with bufs := tset g.bufs (core * 8 + b) v })

/-! ### Fields of the words (R227, R228) -/

def engBufNo (w3 : W64) : Nat := bitsAt w3.toNat 29 3
def engTlen (c : EngCmd) : Nat := bitsAt c.w2.toNat 4 12 + 1
def engN0 (c : EngCmd) : Nat := bitsAt c.w3.toNat 32 16
def engN1 (c : EngCmd) : Nat := bitsAt c.w3.toNat 48 16
def engTiles (c : EngCmd) : Nat := engN0 c * engN1 c
def engDeal0 (c : EngCmd) : Nat := bitsAt c.w3.toNat 24 5
def engDealC (c : EngCmd) : Nat := bitsAt c.w3.toNat 19 5 + 1
def engDealB (c : EngCmd) : Nat := 2 ^ bitsAt c.w3.toNat 16 3

/-- R227: a field outside the table. -/
def engBad (c : EngCmd) : Bool :=
  decide (c.w1.toNat % 64 ≠ 0) || bitsAt c.w2.toNat 0 4 != 0 || engN0 c == 0 || engN1 c == 0
    || (if c.kind = 2 then decide (32 < engDeal0 c + engDealC c) else bitsAt c.w3.toNat 16 13 != 0)

/-- The address of tile `n`, computed exactly. -/
def engAddr (c : EngCmd) (n : Nat) : Int :=
  c.w1.toNat + 64 * ((n % engN0 c : Nat) * signed 24 (bitsAt c.w2.toNat 16 24) + (n / engN0 c : Nat) * signed 24 (bitsAt c.w2.toNat 40 24))

/-- The cores whose buffer a message concerns, and the buffer. -/
def engCores (c : EngCmd) : List Nat :=
  if c.kind = 2 then (List.range (engDealC c)).map (fun i => engDeal0 c + i) else [coreNum (sidCore c.sid)]
def engBufOf (c : EngCmd) : Nat := if c.kind = 3 then bitsAt c.w1.toNat 56 3 else engBufNo c.w3

/-- A PERMIT that defines a buffer. -/
def engDef (c : EngCmd) : Bool := c.kind == 3 && c.w1.getLsbD 63

/-- The buffers a command uses, core and number: those of every participant once the engine has taken it. -/
def engUses (c : EngCmd) : List (Nat × Nat) :=
  if c.accepted then c.parts.map (fun p => (p.core, engBufNo p.w3)) else (engCores c).map (fun k => (k, engBufOf c))

def engShares (a b : EngCmd) : Bool := (engUses a).any (fun x => (engUses b).contains x)

/-- The participants of a command of its own. -/
def engParts (c : EngCmd) : List EngPart := (engCores c).map (fun k => EngPart.mk k c.id c.w3 c.w4 c.sid c.tid c.launch)

/-! ### The instructions (R270, R271) -/

/-- R271: the engine has room for a command of this core. -/
def State.engFull (s : State) (e : Nat) : Bool :=
  decide (16 ≤ ((s.engine s.clusterNo e).cmds.filter (fun c => sidCore c.sid == s.core || c.parts.any (fun p => sidCore p.sid == s.core))).length)

/-- The command leaves for its engine. -/
def State.sendEng (s : State) (e kind : Nat) (w1 w2 w3 w4 : W64) : State :=
  let t := s.slot
  s.modEngine s.clusterNo e (fun g => { g with
    next := g.next + 1
    cmds := g.cmds ++ [⟨g.next, kind, w1, w2, w3, w4, s.cur, t.tid, t.prio.toNat, t.rnrlim.toNat, t.launch, t.job, t.image.fn, s.cyc,
      false, false, 0, [], [], none, [], false, [], none⟩] })

/-- TWALK, TWB and TDEAL (R271). -/
def walkExec (kind : Nat) (a : BitVec 5) (e : BitVec 1) (g : BitVec 4) (s : State) : Host.Outcome State Fault Refusal :=
  s.attempt g 4 (do
    s.workerOnly
    let va ← checkAddr (s.x a).toNat 32 32
    let p ← s.place .read va 32
    s.withBlock va p 32 4 (fun blk t => do
      let w4 := word64 blk 3
      let h := w4.toNat / 2 ^ 8
      t.illegalIf (h == 0 || (decide (2 ≤ h) && decide (h ≤ 255)) || decide (w4.toNat % 64 ≠ 0))
      waitIf (t.engFull e.toNat) 11 0
      let t1 ← t.commit
      .ok ((t1.sendEng e.toNat kind (word64 blk 0) (word64 blk 1) (word64 blk 2) w4).retire 4)))

/-- TWALK (R270, R271). -/
def execTwalk (a : BitVec 5) (e : BitVec 1) (g : BitVec 4) (s : State) : Host.Outcome State Fault Refusal := walkExec 0 a e g s

/-- TWB (R270, R271). -/
def execTwb (a : BitVec 5) (e : BitVec 1) (g : BitVec 4) (s : State) : Host.Outcome State Fault Refusal := walkExec 1 a e g s

/-- TDEAL (R270, R271). -/
def execTdeal (a : BitVec 5) (e : BitVec 1) (g : BitVec 4) (s : State) : Host.Outcome State Fault Refusal := walkExec 2 a e g s

/-- R228: number of slots, bytes of a slot and offset of slot 0 that a definition gives. -/
def permSlots (w : W64) : Nat := bitsAt w.toNat 40 8 + 1
def permLen (w : W64) : Nat := 64 * (bitsAt w.toNat 28 12 + 1)
def permBase (w : W64) : Nat := 64 * bitsAt w.toNat 6 13

/-- PERMIT (R270, R271). -/
def execPermit (a : BitVec 5) (e : BitVec 1) (g : BitVec 4) (s : State) : Host.Outcome State Fault Refusal :=
  s.attempt g 4 (do
    s.workerOnly
    let w := s.x a
    s.illegalIf (bitsAt w.toNat 59 4 != 0 || bitsAt w.toNat 19 9 != 0 || bitsAt w.toNat 0 6 != 0 || (w.getLsbD 63 && permBase w == 0))
    openIf (w.getLsbD 63 && decide (0x70000 < permBase w + permSlots w * permLen w)) .perm
    waitIf (s.engFull e.toNat) 11 0
    let s1 ← s.commit
    .ok ((s1.sendEng e.toNat 3 w 0 0 0).retire 4))

/-! ### Completions (R231) -/

/-- The completion of one participant: to its slot, or as a task image of its launch; dropped for a cancelled launch. -/
def State.engDone (s : State) (c : EngCmd) (p : EngPart) (status cause : Nat) : State :=
  if s.isCancelled (sidCore p.sid) p.launch then s
  else
    let word := BitVec.ofNat 64 (c.next * 2 ^ 32 + cause * 2 ^ 24 + status)
    let tag : BitVec 16 := p.w3.setWidth 16
    if p.w4.toNat / 2 ^ 8 = 1 then { s with compls := s.compls ++ [Compl.mk p.sid p.tid tag word] }
    else
      let r := s.relTag p.sid 2
      let i : Image := ⟨p.w4, word, c.w1, tag.setWidth 64, 0, p.launch ++ 0#32, s.srcNum p.sid ++ r.1, 0, none, [], c.job, c.fn, false, [], none⟩
      (r.2.countUp p.launch 1).post (sidCore p.sid) i true

/-- The participants that go on. -/
def EngCmd.live (c : EngCmd) : List EngPart := c.parts.filter (fun p => !c.ended.contains p.core)

/-- Who gets a completion: each participant of a walk, the issuer of a TDEAL. -/
def EngCmd.owed (c : EngCmd) : List EngPart := if c.kind = 2 then c.parts.take 1 else c.live

/-- The command ends for everyone. -/
def State.engEnd (s : State) (cl e : Nat) (c : EngCmd) (status cause : Nat) : State :=
  c.owed.foldl (fun s p => s.engDone c p status cause) (s.dropEng cl e c.id)

/-! ### Tiles (R229 to R231) -/

/-- The participants tile `n` goes to. -/
def EngCmd.targets (c : EngCmd) (n : Nat) : List EngPart :=
  if c.kind = 2 then c.live.filter (fun p => p.core == engDeal0 c + n / engDealB c % engDealC c) else c.live

/-- The line addresses of tile `n`; none outside the address space. -/
def EngCmd.lineAddrs (c : EngCmd) (n : Nat) : Option (List Nat) :=
  let a := engAddr c n
  if a < 0 then none else some ((List.range (engTlen c)).map (fun i => a.toNat + 64 * i))

/-- Where a line of a tile lies: only global memory counts (R227). -/
def State.engPlace (s : State) (c : EngCmd) (acc : Acc) (va : Nat) : UnitPlace :=
  if inReserved (BitVec.ofNat 64 va) ∧ va < 2 ^ 64 then .fault 1 else s.unitPlace (sidCore c.sid) engUnit c.job acc va 64

/-- The slot that a target's next tile uses. -/
def State.engSlotAt (s : State) (cl e : Nat) (p : EngPart) : Place :=
  let b := (s.engine cl e).buf p.core (engBufNo p.w3)
  .scratch (cl * 64 + p.core) (b.base + b.ptr * b.slot)

def State.engSlot (s : State) (cl e : Nat) (p : EngPart) : Nat := (s.engSlotAt cl e p).flat

/-- R229: the credit of a slot is taken, before the slot is used. -/
def State.engTake (s : State) (cl e : Nat) (p : EngPart) : State :=
  let b := (s.engine cl e).buf p.core (engBufNo p.w3)
  s.setBuf cl e p.core (engBufNo p.w3) { b with credits := b.credits - 1 }

/-- R229: a slot was used: the pointer moves on, and FILL counts the tile. -/
def State.engFill (s : State) (cl e : Nat) (p : EngPart) : State :=
  let b := (s.engine cl e).buf p.core (engBufNo p.w3)
  let b := { b with ptr := (b.ptr + 1) % b.nslot, fill := b.fill + 1 }
  let s := s.setBuf cl e p.core (engBufNo p.w3) b
  { s with mem := memWrite s.mem (scratchBase (cl * 64 + p.core) + b.base - 64) 8 (ones 8) b.fill }

/-- A tile is finished for its targets; cores that were to leave do (R48), and the last tile ends the command. -/
def State.engNext (s : State) (cl e : Nat) (c : EngCmd) : State :=
  let s := (c.targets c.next).foldl (fun s p => s.engFill cl e p) s
  let c := { c with
    begun := true, next := c.next + 1, tiles := tdel c.tiles c.next, page := none, busy := false, ended := c.ended ++ c.leaving, leaving := [] }
  if c.live.isEmpty then s.dropEng cl e c.id
  else if engTiles c ≤ c.next then s.engEnd cl e c 0 0 else s.putEng cl e c

/-- A page that must be walked first, or is absent: the engine waits for it (R231, R301). -/
def State.engWait (s : State) (cl e : Nat) (c : EngCmd) (acc : Acc) (va : Nat) : Option State :=
  let a : W64 := BitVec.ofNat 64 va
  let asked := (s.pageReqOf c.job (vpnOf a)).isSome ||
    s.walks.any (fun w => w.tsc == cl && w.job == c.job && w.vpn == vpnOf a)
  if c.page = some (vpnOf a) ∧ asked = true then none
  else
    let s := s.putEng cl e { c with begun := true, page := some (vpnOf a) }
    some (if asked then s
      else s.addWalk (coreCluster (sidCore c.sid)) (coreNum (sidCore c.sid)) (s.srcNum c.sid) c.job c.fn acc a none)

def EngTile.none : EngTile := ⟨[], 0, Option.none⟩
def EngCmd.tileAt (c : EngCmd) (n : Nat) : EngTile := tget EngTile.none c.tiles n

/-- The lines of a tile with their places. -/
def State.tilePlaces (s : State) (c : EngCmd) (n : Nat) : Option (List (Nat × UnitPlace)) :=
  (c.lineAddrs n).map (fun l => l.map (fun va => (va, s.engPlace c (if c.kind = 1 then .write else .read) va)))

/-- The first line of a tile that lies nowhere yet, with the code of its fault. -/
def tileFault (l : List (Nat × UnitPlace)) : Option (Nat × Nat) :=
  l.findSome? (fun x => match x.2 with
    | .fault f => some (f, x.1)
    | .walk => some (walkCode, x.1)
    | _ => none)

/-- The host holds a line of the tile (R406). -/
def State.tileHeld (s : State) (l : List (Nat × UnitPlace)) : Bool :=
  l.any (fun x => match x.2 with
    | .here p => s.hostHolds p 64
    | _ => false)

/-- The lines of tile `n` are fetched, or stored from `x`: those of this package at once, the rest is asked for. A merged walk
goes by the TLB, the stale mark and the RNRLIM of the command that was first (DESIGN CHOICE, log 42). -/
def State.tileMove (s : State) (cl e : Nat) (c : EngCmd) (n x : Nat) (l : List (Nat × UnitPlace)) : State :=
  let core := sidCore c.sid
  let bytes := fun (va : Nat) => x / 2 ^ (8 * (va - (l.headD (0, .walk)).1)) % 2 ^ 512
  let r := l.foldl (fun (p : Tbl Nat × State) q => match q.2 with
    | .here pl =>
      if c.kind = 1 then (tset p.1 (q.1 / 64) 0, p.2.writePlace cl 1 pl 64 (ones 64) (bytes q.1))
      else
        let d := p.2.readPlace cl (p.2.coreAt core).stale 1 pl 64
        (tset p.1 (q.1 / 64) d.1, d.2)
    | _ => p) ([], s)
  let ask := l.filterMap (fun q => match q.2 with
    | .away h pkg => some (q.1, h, pkg)
    | _ => none)
  let s := (r.2.touchAll core c.job (l.map (·.1))).putEng cl e { c with begun := true, tiles := tset c.tiles n ⟨r.1, ask.length, none⟩ }
  ask.foldl (fun s q =>
    let r := { s.newReq (if c.kind = 1 then 3 else 2) q.2.1 q.2.2 (BitVec.ofNat 64 q.1) (BitVec.allOnes 64)
        (if c.kind = 1 then (List.range 8).map (word64 (bytes q.1)) else []) false (.tile cl e c.id n) with
      sid := c.sid, tid := c.tid, launch := c.launch, job := c.job, fn := c.fn, limit := c.rnrlim, since := s.gtsOf (clusterDie cl) }
    s.addReqs [r]) s

/-- R230: every participant of a merged walk holds a credit for tile `n`, no earlier command on its buffer coming first. -/
def State.mergedCredits (s : State) (cl e : Nat) (c : EngCmd) (n : Nat) : Bool :=
  let g := s.engine cl e
  c.parts.length ≤ 1 || ((c.live.all (fun p => decide (n - c.next < (g.buf p.core (engBufNo p.w3)).credits))) &&
    (g.cmds.takeWhile (fun d => d.id != c.id)).all (fun d => !d.accepted || !engShares d c))

/-- R231: a tile is fetched up to 8 tiles ahead of its turn; one that meets anything but its lines is left for its turn. -/
def State.fetchAhead (s : State) (cl e id n : Nat) : State :=
  match (s.engine cl e).cmds.find? (fun c => c.id == id) with
  | none => s
  | some c =>
    if c.accepted = false ∨ c.kind = 1 ∨ n < c.next ∨ c.next + 8 < n ∨ engTiles c ≤ n ∨ thas c.tiles n = true ∨ s.mergedCredits cl e c n = false then s
    else match s.tilePlaces c n with
      | none => s
      | some l => if (tileFault l).isSome || s.tileHeld l then s else s.tileMove cl e c n 0 l

/-- Every line of the tile is here, or stored. -/
def EngTile.full (t : EngTile) (las : List Nat) : Bool := t.need == 0 && las.all (fun va => thas t.lines (va / 64))

/-- The bytes of a tile fetched. -/
def EngTile.data (t : EngTile) (las : List Nat) : Nat := las.foldr (fun va n => tget 0 t.lines (va / 64) + 2 ^ 512 * n) 0

/-- R229: the tile's bytes are written to the slots of its targets, or were stored from one, and it is finished. -/
def State.tileEnd (s : State) (cl e : Nat) (c : EngCmd) (ts : List EngPart) (data : Nat) : State :=
  let n := 64 * engTlen c
  (if c.kind = 1 then s
    else ts.foldl (fun s p =>
      { s.engTake cl e p with mem := memWrite s.mem (s.engSlot cl e p) n (ones n) data }) s).engNext cl e c

/-- The next tile of a command goes as far as it can; none when it must wait. A TDEAL whose tile is too long for one core's slot
ends for all of them (DESIGN CHOICE, log 42). A TWB whose slot holds an uncorrectable error ends FAULTED. -/
def State.tile (s : State) (cl e : Nat) (c : EngCmd) : Option State :=
  let g := s.engine cl e
  let t := c.tileAt c.next
  let ts := c.targets c.next
  let short := ts.filter (fun p => decide ((g.buf p.core (engBufNo p.w3)).slot < 64 * engTlen c))
  if t.need ≠ 0 then none
  else if let some f := c.fault.orElse (fun _ => t.fault) then some (s.engEnd cl e c 1 f)
  else if short ≠ [] then
    let c' := { c with ended := c.ended ++ short.map (·.core) }
    if c.kind ≠ 0 ∨ c'.live = [] then some (s.engEnd cl e c 2 0)
    else some (short.foldl (fun s p => s.engDone c p 2 0) (s.putEng cl e c'))
  else if (c.kind ≠ 1 ∨ c.busy = false) ∧ ts.any (fun p => (g.buf p.core (engBufNo p.w3)).credits == 0) = true then none
  else match c.lineAddrs c.next, s.tilePlaces c c.next with
    | some las, some l =>
      if t.full las then some (s.tileEnd cl e c ts (t.data las))
      else match tileFault l with
        | some (f, va) =>
          if f = 0 ∨ f = walkCode then s.engWait cl e c (if c.kind = 1 then .write else .read) va
          else
            some ((s.meetFault (sidCore c.sid) engUnit c.job f va).engEnd cl e c 1 f)
        | none =>
          let spoiled := ts.filter (fun p => c.kind == 1 && s.spoiled (s.engSlotAt cl e p) (64 * engTlen c))
          if s.tileHeld l then none
          else if spoiled ≠ [] then some ((spoiled.foldl (fun s p => s.reportPage (s.engSlotAt cl e p)) s).engEnd cl e c 1 6)
          else
            let mine := (ts.head?.map (fun p => memRead s.mem (s.engSlot cl e p) (64 * engTlen c))).getD 0
            let s := if c.kind = 1 then ts.foldl (fun s p => s.engTake cl e p) s else s
            let s := s.tileMove cl e { c with busy := true } c.next mine l
            -- with every line here the tile ends in the same event
            match (s.engine cl e).cmds.find? (fun d => d.id == c.id) with
            | none => some s
            | some c' =>
              if (c'.tileAt c'.next).full las then some (s.tileEnd cl e c' ts ((c'.tileAt c'.next).data las)) else some s
    | _, _ => some (s.engEnd cl e c 1 2)

/-- R229: commands of one core on one buffer are served one after another. -/
def engBlocked (before : List EngCmd) (c : EngCmd) : Bool :=
  before.any (fun d => d.accepted && c.live.any (fun p => d.live.any (fun q => q.core == p.core && engBufNo q.w3 == engBufNo p.w3)))

/-- The first command of the list that can go on. -/
def State.tileFirst (s : State) (cl e : Nat) : List EngCmd → List EngCmd → Option State
  | _, [] => none
  | before, c :: r =>
    if c.accepted && !engBlocked before c then
      match s.tile cl e c with
      | some t => some t
      | none => s.tileFirst cl e (before ++ [c]) r
    else s.tileFirst cl e (before ++ [c]) r

/-! ### Events -/

/-- A message may be taken: no earlier one of its slot waits but for a definition, and none on its buffers (R226, R228). -/
def mayTake (before : List EngCmd) (c : EngCmd) : Bool :=
  before.all (fun d => d.accepted || ((d.sid != c.sid || engDef d) && !engShares d c))

/-- The first message not yet taken that `p` wants and that may be taken. -/
def firstTaken (p : List EngCmd → EngCmd → Bool) : List EngCmd → List EngCmd → Option EngCmd
  | _, [] => none
  | before, c :: r => if !c.accepted && mayTake before c && p before c then some c else firstTaken p (before ++ [c]) r

/-- R230: a TWALK merges into one that has not begun. -/
def mergesWalk (now : Nat) (c d : EngCmd) : Bool :=
  d.accepted && d.kind == 0 && !d.begun && d.job == c.job && d.w1 == c.w1 && d.w2 == c.w2 && d.w3 >>> 16 == c.w3 >>> 16
    && d.cls == c.cls && decide (now ≤ d.arrived + 32) && d.parts.all (fun p => p.core != coreNum (sidCore c.sid))

/-- The first command of the list that `p` picks, by itself and those behind it. -/
def firstWalk (p : EngCmd → List EngCmd → Bool) : List EngCmd → Option EngCmd
  | [] => none
  | c :: r => if p c r then some c else firstWalk p r

/-- ENGINE_COMMAND_ACCEPT (R227, R230): the engine takes a walk: it is refused, merged, or joins the commands. It does not
merge past an earlier command of its core on the buffer, which is served first (R229, log 83). -/
def execEngineCommandAccept (cl e : Nat) (s : State) : Host.Outcome State Fault Refusal :=
  .next (
    let g := s.engine cl e
    match firstTaken (fun _ c => c.kind != 3) [] g.cmds with
    | none => s
    | some c =>
      let parts := engParts c
      let c := { c with accepted := true, parts := parts, arrived := s.cyc }
      if engBad c then s.engEnd cl e { c with parts := [EngPart.mk (coreNum (sidCore c.sid)) c.id c.w3 c.w4 c.sid c.tid c.launch] } 3 0
      else match firstWalk (fun d later => c.kind == 0 && mergesWalk s.cyc c d && !later.any (fun x => x.accepted && engShares x c)) g.cmds with
        | some d => (s.dropEng cl e c.id).putEng cl e { d with parts := d.parts ++ parts }
        | none => s.putEng cl e c)

/-- R228: a definition waits until every earlier command of the core on the buffer has ended. -/
def permitReady (before : List EngCmd) (c : EngCmd) : Bool :=
  c.kind == 3 && (!engDef c || !(before.any (fun d => d.accepted && d.live.any (fun p =>
    p.core == coreNum (sidCore c.sid) && engBufNo p.w3 == engBufOf c))))

/-- PERMIT_MESSAGE (R228): a buffer is defined, or credits are added. -/
def execPermitMessage (cl e : Nat) (s : State) : Host.Outcome State Fault Refusal :=
  .next (
    let g := s.engine cl e
    match firstTaken permitReady [] g.cmds with
    | none => s
    | some c =>
      let core := coreNum (sidCore c.sid)
      let count := bitsAt c.w1.toNat 48 8
      let old := g.buf core (engBufOf c)
      let s := s.dropEng cl e c.id
      if engDef c then
        let n := permSlots c.w1
        let s := s.setBuf cl e core (engBufOf c) ⟨permBase c.w1, n, permLen c.w1, min count n, 0, 0⟩
        { s with mem := memWrite s.mem (scratchBase (cl * 64 + core) + permBase c.w1 - 64) 8 (ones 8) 0 }
      else s.setBuf cl e core (engBufOf c) { old with credits := min (old.credits + count) old.nslot })

/-- ENGINE_TILE_WRITE (R229, R231): one tile of the first command that can go on. -/
def execEngineTileWrite (cl e : Nat) (s : State) : Host.Outcome State Fault Refusal :=
  .next ((s.tileFirst cl e [] (s.engine cl e).cmds).getD s)

end Sys2Proof.Machine
end

