-- ==== Sys2Proof/Machine/Cancel.lean ====
section
/-! DEFINITION. What the mark of a cancelled launch does on a core (R48): its queued images, tasks, lookups, engine commands and
barriers go. -/

namespace Sys2Proof.Machine

/-- The images an entry stands for. -/
def QEntry.count (e : QEntry) : Nat := match e.fan with
  | some (n, i) => n - i
  | none => 1

/-- R48: the entries of a launch leave a queue; those that stay, and how many images went. -/
def stripQueue (l : W32) (q : List QEntry) : List QEntry := q.filter (fun e => e.img.launch != l)
def countQueue (l : W32) (q : List QEntry) : Nat := (q.filter (fun e => e.img.launch == l)).foldl (fun n e => n + e.count) 0

/-- R64: the held urgent heads that stay when the entries of a launch leave the sub-queues `q`, at their new places. -/
def stripHeads (l : W32) (q : Nat → List QEntry) (h : Tbl Nat) : Tbl Nat :=
  h.filterMap (fun x => match nth (q x.1) x.2 with
    | some e => if e.img.launch = l then none else some (x.1, (stripQueue l ((q x.1).take x.2)).length)
    | none => none)

/-- The images of the launch queued on a core leave, also where its job is out (R48, R70). -/
def State.stripCore (s : State) (core : Nat) (l : W32) : State :=
  let c := s.coreAt core
  let none4 : RegFile 2 (List QEntry) := Vector.replicate 4 []
  let n := c.mail.toList.foldl (fun n q => n + countQueue l q) (countQueue l c.deque)
  let m := s.sched.saves.foldl (fun n v => (tget none4 v.mail core).toList.foldl (fun n q => n + countQueue l q)
    (n + countQueue l (tget [] v.deques core) + (v.dropped.filter (fun x => x.1 == core && x.2.launch == l)).length)) 0
  let heads := stripHeads l (subQueue c) c.heldHeads
  let strip := fun (v : JobSave) => { v with
    mail := v.mail.map (fun x => if x.1 = core then (x.1, x.2.map (stripQueue l)) else x)
    deques := v.deques.map (fun x => if x.1 = core then (x.1, stripQueue l x.2) else x)
    dropped := v.dropped.filter (fun x => !(x.1 == core && x.2.launch == l))
    heads := v.heads.map (fun x => if x.1 = core then (x.1, stripHeads l (fun k => RegFile.read (tget none4 v.mail core) (BitVec.ofNat 2 k)) x.2) else x) }
  let s1 := s.modCore core (fun c => { c with mail := c.mail.map (stripQueue l), deque := stripQueue l c.deque, heldHeads := heads })
  { s1 with sched := { s1.sched with saves := s1.sched.saves.map strip } }.countDown l (n + m)

/-- The images of the launch parked on page requests leave (R48, R311). -/
def State.stripPages (s : State) (core : Nat) (l : W32) : State :=
  let mine := fun (j : Joined) => match j with
    | .image c i _ => c == core && i.launch == l
    | .task _ _ => false
    | .remote _ _ _ => false
  let n := s.pageReqs.foldl (fun n r => n + (r.joined.filter mine).length) 0
  let s1 : State := { s with pageReqs := s.pageReqs.map (fun r => { r with joined := r.joined.filter (fun j => !mine j) }) }
  s1.countDown l n

/-- R48, R230, R232: a core drops out of an engine's command of the launch, after the tile under way. -/
def EngCmd.cancel (core : Nat) (l : W32) (c : EngCmd) : Option EngCmd :=
  if c.accepted = false then (if c.launch = l ∧ sidCore c.sid = core then none else some c)
  else
    let mine := (c.parts.filter (fun p => p.launch == l && sidCore p.sid == core)).map (·.core)
    if mine = [] then some c
    else if c.busy then some { c with leaving := c.leaving ++ mine }
    else
      let c' := { c with ended := c.ended ++ mine }
      if c'.live.isEmpty then none else some c'

def Engine.cancel (g : Engine) (core : Nat) (l : W32) : Engine := { g with cmds := g.cmds.filterMap (·.cancel core l) }

/-- R269: a barrier's generation of the launch is free. -/
def freeBars (l : W32) (b : RegFile 5 (Option Bar)) : RegFile 5 (Option Bar) := b.map (fun o => o.filter (fun b => b.launch != l))

/-- R48, R179, R232, R269: what units of the cluster do for the launch ends. -/
def State.stripUnits (s : State) (core : Nat) (l : W32) : State :=
  let cl := coreCluster core
  let ids := ((s.pklu cl).look.filter (fun x => sidCore x.sid == core && x.launch == l)).map (·.id)
  let s1 := ids.foldl (fun s i => s.modPklu cl (fun u => u.drop i)) s
  let s2 := s1.modCluster cl (fun c => { c with bars := freeBars l c.bars, eng := c.eng.map (fun g => g.cancel core l) })
  { s2 with sched := { s2.sched with saves := s2.sched.saves.map (fun v => { v with
      bars := v.bars.map (fun x => if x.1 = cl then (x.1, freeBars l x.2) else x)
      engs := v.engs.map (fun x => if x.1 = cl then (x.1, x.2.map (fun g => g.cancel core l)) else x) }) } }

/-- R48 steps 2 and 3: the tasks of the launch on a core end, bound, saved, or saved on a fenced core in whose place it stands. -/
def State.stripTasks (s : State) (core : Nat) (l : W32) : State :=
  let s1 := (List.range 5).foldl (fun s k =>
    let t := s.slotAt (core * 8 + k)
    if t.task.isSome ∧ t.launch = l then s.endTask (core * 8 + k) else s) s
  ((s1.saved.filter (fun e => (e.2.core == core || s.liveCore e.2.core == core) && e.2.slot.launch == l)).map (·.1)).foldl (fun s tid =>
    s.endSaved tid) s1

/-- R48: what the mark of a launch does on a core. -/
def State.stripMark (s : State) (core : Nat) (l : W32) : State :=
  (((s.stripTasks core l).stripUnits core l).stripPages core l).stripCore core l

/-- R48: the marks that a core holds, applied to work that has come to it since. -/
def State.stripMarks (s : State) (core : Nat) : State := (s.coreAt core).cancelled.foldl (fun s l => s.stripMark core l) s

end Sys2Proof.Machine
end

