-- ==== Sys2Proof/Machine/Wait.lean ====
section
/-! DEFINITION. WAITC and WAITM (R133), and the synchronisation instructions FENCE, DRAIN and BAR (R265 to R269). -/

namespace Sys2Proof.Machine

/-! ### Completions and memory waits -/

/-- WAITC (R133): taking a completion acquires the writes it covers for the core (R176, R231). -/
def execWaitc (d a : BitVec 5) (g : BitVec 4) (s : State) : Host.Outcome State Fault Refusal :=
  s.attempt g 4 (do
    let x := s.x a
    s.illegalIf (decide (2 ^ 16 ≤ x.toNat))
    match s.slot.compl.find? (fun e => e.1 == x.setWidth 16) with
    | none => .error (.wait 2 x 0)
    | some e =>
      let s1 := (s.acquire s.core 2).mod (fun t => { t with compl := t.compl.erase e })
      .ok ((s1.setX d e.2).retire 4))

/-- One read of WAITM on this package: .acq at PK (R133). The instruction ends when the word differs from X[b]. -/
def State.waitmRead (s : State) (sid : Nat) (p : Place) (d : BitVec 5) (va expect : W64) : State :=
  let core := sidCore sid
  let s1 := (s.acquire core 2).dropAhead sid
  let r := match p with
    | .link off => ((s1.linkRead s1.health.linksel.toNat off).toNat, s1)
    | p => s1.readPlace (coreCluster core) (s1.coreAt core).stale 0 p 8
  let x := BitVec.ofNat 64 r.1
  if x ≠ expect then
    (r.2.modSlot sid (fun t => t.putX d x)).retireAt sid ((s.slotAt sid).pc + 4)
  else
    (r.2.modSlot sid (fun t => { t with
      pend := some (.waitm d (s.gtsOf (coreDie core)))
      wait := match t.wait with
        | some w => some ⟨1, va, expect, if w.kind = 1 then w.since else s.cyc⟩
        | none => some ⟨1, va, expect, s.cyc⟩ })).closeIfOpener sid

/-- A read of WAITM on another package or the host: a remote load, the wait counting on (R133, R332). -/
def State.waitmAway (s : State) (host : Option Nat) (pkg : Nat) (d : BitVec 5) (va expect : W64) : State :=
  let w : WaitRec := ⟨1, va, expect, match s.slot.wait with
    | some w => if w.kind = 1 then w.since else s.cyc
    | none => s.cyc⟩
  ((s.awaitReq 4 0 0 (fun s => s.newReq 2 host pkg va (lineMask va 8) [] true (.waitm d expect))).mod
    (fun t => { t with wait := some w })).closeIfOpener s.cur

/-- WAITM (R133). -/
def execWaitm (d a b : BitVec 5) (g : BitVec 4) (s : State) : Host.Outcome State Fault Refusal :=
  s.attempt g 4 (do
    let va ← checkAddr (s.x a).toNat 8 8
    let p ← s.reach .read va 8
    let s1 := s.touchTlb s.core s.slot.job va
    .ok (match p.away with
      | some (host, pkg) => s1.waitmAway host pkg d va (s.x b)
      | none => s1.waitmRead s.cur p d va (s.x b)))

/-! ### FENCE and DRAIN -/

/-- FENCE (R265): .rel writes the cluster's dirty bytes back, .acq sets the core's stale mark, at PK or wider; stream elements are
fetched after it (R211). -/
def execFence (sc o : BitVec 3) (g : BitVec 4) (s : State) : Host.Outcome State Fault Refusal :=
  s.attempt g 4 (do
    s.relBlocked o.toNat sc.toNat
    let s1 := if ordRel o.toNat then s.release s.clusterNo sc.toNat else s
    let s2 := if ordAcq o.toNat then s1.acquire s1.core sc.toNat else s1
    .ok ((s2.dropAhead s2.cur).retire 4))

/-- The tile of a command after the `k` next ones that go to a core (R227). -/
def EngCmd.tileAfter (c : EngCmd) (core k : Nat) : Nat :=
  let n := bitsAt c.w3.toNat 32 16 * bitsAt c.w3.toNat 48 16
  if c.kind = 2 then
    let mine := (List.range n).filter (fun i => decide (c.next ≤ i) &&
      core == bitsAt c.w3.toNat 24 5 + i / 2 ^ bitsAt c.w3.toNat 16 3 % (bitsAt c.w3.toNat 19 5 + 1))
    ((mine.take k).getLast?.map (· + 1)).getD 0
  else if k = 0 then 0 else min n (c.next + k)

/-- The tiles of a command that still go to a core. -/
def EngCmd.tilesFor (c : EngCmd) (core : Nat) : Nat :=
  let n := bitsAt c.w3.toNat 32 16 * bitsAt c.w3.toNat 48 16
  if c.kind = 2 then ((List.range n).filter (fun i => decide (c.next ≤ i) &&
    core == bitsAt c.w3.toNat 24 5 + i / 2 ^ bitsAt c.w3.toNat 16 3 % (bitsAt c.w3.toNat 19 5 + 1))).length
  else n - c.next

/-- R266 .sp: the tiles for which the commands on buffer `b` of a core at an engine hold a credit, by the messages the core has
sent: command and the tile that the DRAIN waits to be reached, and, with tile 0, a message itself that brings credits. `slots` and
`credits` are those left for the commands of the rest of the list; the credit of a tile under way is taken already (R229). -/
def creditTiles (core b : Nat) : Nat → Nat → List EngCmd → List (Nat × Nat)
  | _, _, [] => []
  | slots, credits, c :: r =>
    let own := coreNum (sidCore c.sid) == core
    if c.kind = 3 then
      if own && bitsAt c.w1.toNat 56 3 == b then
        let n := bitsAt c.w1.toNat 48 8
        let slots' := bitsAt c.w1.toNat 40 8 + 1
        (c.id, 0) :: (if c.w1.getLsbD 63 then creditTiles core b slots' (min n slots') r else creditTiles core b slots (min slots (credits + n)) r)
      else creditTiles core b slots credits r
    else
      let served := if c.accepted then c.parts.any (fun p => p.core == core && bitsAt p.w3.toNat 29 3 == b && !c.ended.contains core)
        else bitsAt c.w3.toNat 29 3 == b && (if c.kind = 2 then decide (bitsAt c.w3.toNat 24 5 ≤ core)
          && decide (core ≤ bitsAt c.w3.toNat 24 5 + bitsAt c.w3.toNat 19 5) else own)
      let taken := (c.kind == 1 && c.busy).toNat
      let k := min (credits + taken) (c.tilesFor core)
      if served && k != 0 then (c.id, c.tileAfter core k) :: creditTiles core b slots (credits + taken - k) r
      else creditTiles core b slots credits r

/-- R266 .sp: what a DRAIN of the issuing core waits for: engine, command and tile. -/
def State.drainTiles (s : State) : List (Nat × Nat × Nat) :=
  (List.range 16).flatMap (fun k =>
    let g := RegFile.read (s.clusterAt s.clusterNo).eng (BitVec.ofNat 1 (k / 8))
    let buf := tget ⟨0, 0, 0, 0, 0, 0⟩ g.bufs (coreNum s.core * 8 + k % 8)
    (creditTiles (coreNum s.core) (k % 8) buf.nslot buf.credits g.cmds).map (fun x => (k / 8, x.1, x.2)))

/-- R266 .sp: a transfer of the list is not yet done: its command, or the walk it was merged into (R230), has not come to the
tile, and it has a credit of the core, or one that a message of the list brings. -/
def State.drainSp (s : State) (l : List (Nat × Nat × Nat)) : Bool :=
  let k := coreNum s.core
  l.any (fun x =>
    let g := RegFile.read (s.clusterAt s.clusterNo).eng (BitVec.ofNat 1 x.1)
    g.cmds.any (fun c =>
      let w3 := ((c.parts.find? (fun p => p.core == k)).map (·.w3)).getD c.w3
      let b := bitsAt w3.toNat 29 3
      let brings := l.any (fun y => y.1 == x.1 && y.2.2 == 0 && g.cmds.any (fun d => d.id == y.2.1 && bitsAt d.w1.toNat 56 3 == b))
      (c.id == x.2.1 || c.parts.any (fun p => p.id == x.2.1)) && decide (c.next < x.2.2) &&
        !(c.accepted && c.ended.contains k) &&
        (c.busy || brings || (tget ⟨0, 0, 0, 0, 0, 0⟩ g.bufs (k * 8 + b)).credits != 0)))

/-- R266 .gl: a store or atomic of the core that left before request `snap` is not yet accepted at its remote target. -/
def State.drainGl (s : State) (snap : Nat) : Bool :=
  s.reqs.any (fun r => sidCore r.sid == s.core && decide (3 ≤ r.num) && decide (r.num < 64) && decide (r.rid < snap))

/-- R266 .wg: an update of the core issued before `snap` is neither acknowledged nor failed. -/
def State.drainWg (s : State) (snap : Nat) : Bool :=
  s.wreqs.any (fun r => sidCore r.sid == s.core && r.src.toNat / 2 ^ 16 == s.pkg.toNat && r.fetch.isNone && decide (r.num ≠ 64) && decide (r.ord < snap))

/-- A cause from its code (R321). -/
def causeOf (code : Nat) : Cause := match code with
  | 5 => .page
  | 6 => .perm
  | 8 => .remoteUnsupported
  | 9 => .remotePerm
  | 11 => .mcheck
  | _ => .remoteTimeout

/-- The wait of a DRAIN that goes on; a task that was saved meanwhile executes it in full again (R266). -/
def State.draining (s : State) : Option WaitRec := s.slot.wait.filter (fun w => w.kind == 7 && w.expect != BitVec.allOnes 64)

/-- What the DRAIN waits for was issued before this mark: the mark of the wait that goes on, or now. -/
def State.drainMark (s : State) : Nat := (s.draining.map (fun w => w.expect.toNat)).getD s.nextReq

/-- DRAIN (R266). A failure mark makes .wg trap with its cause, and is cleared. -/
def execDrain (p : BitVec 2) (g : BitVec 4) (s : State) : Host.Outcome State Fault Refusal :=
  s.attempt g 4 (
    let m := s.drainMark
    let wait : Res State := .error (.wait 7 (BitVec.ofNat 64 p.toNat) (BitVec.ofNat 64 m))
    match p.toNat with
    | 0 =>
      let l := if s.draining.isSome then s.slot.drain else s.drainTiles
      if s.drainSp l then .ok ((s.mod (fun t => { t with drain := l })).startWait 7 0 (BitVec.ofNat 64 m))
      else .ok (s.retire 4)
    | 1 => if s.drainGl m || s.hostBlocks s.clusterNo 2 then wait else .ok ((s.release s.clusterNo 2).retire 4)
    | _ =>
      if s.drainWg m then wait
      else if s.slot.failCause ≠ 0 then
        .ok ((s.mod (fun t => { t with failCause := 0, failAddr := 0 })).takeTrap s.cur (causeOf s.slot.failCause) s.slot.failAddr)
      else .ok (s.retire 4))

/-! ### BAR -/

def barNum (x : W64) : BitVec 5 := x.setWidth 5
def barCount (x : W64) : Nat := bitsAt x.toNat 8 8
/-- R267: a reserved bit is set, or COUNT is 0. -/
def barBad (x : W64) : Bool := decide (2 ^ 16 ≤ x.toNat) || decide (bitsAt x.toNat 5 3 ≠ 0) || decide (barCount x = 0)

def State.setBar (s : State) (cl : Nat) (n : BitVec 5) (b : Option Bar) : State :=
  s.modCluster cl (fun c => { c with bars := RegFile.write c.bars n b })

/-- R269: the generation is in use: a task has arrived, or one whose arrival of this cycle's withdrawal is not yet final. -/
def Bar.inUse (cyc : Nat) (b : Bar) : Bool := b.arrived != [] || b.lost.any (fun e => e.2 == cyc)

/-- R269: the arrivals that count towards an opening in this cycle, those withdrawn in it too: the opening wins. -/
def Bar.counted (cyc : Nat) (b : Bar) : Nat := b.arrived.length + (b.lost.filter (fun e => e.2 == cyc)).length

/-- R268 steps 4 and 5: the arrival of the issuing task at generation `b` (its arrivals before). -/
def State.barArrive (s : State) (x : W64) (b : Bar) : State :=
  let n := barNum x
  let tid := s.slot.tid
  let cls := s.issueClass s.cur
  if b.count ≤ b.counted s.cyc + 1 then
    let s1 := s.setBar s.clusterNo n none
    (b.arrived.foldl (fun s t => (s.acquire (s.coreOf t) 1).retireTask t 4 id) (s1.acquire s.core 1)).retire 4
  else
    let s1 := s.setBar s.clusterNo n (some { b with arrived := b.arrived ++ [tid], cls := min b.cls cls })
    (s1.mod (fun t => { t with pend := some (.bar n.toNat) })).startWait 4 x 0

/-- BAR (R267, R268). -/
def execBar (a : BitVec 5) (g : BitVec 4) (s : State) : Host.Outcome State Fault Refusal :=
  s.attempt g 4 (do
    s.workerOnly
    let x := s.x a
    s.illegalIf (barBad x)
    match (RegFile.read (s.clusterAt s.clusterNo).bars (barNum x)).filter (·.inUse s.cyc) with
    | none => .ok (s.barArrive x ⟨s.slot.launch, barCount x, [], 3, []⟩)
    | some b => do
      openIf (b.launch != s.slot.launch) .perm
      s.illegalIf (decide (b.count ≠ barCount x))
      .ok (s.barArrive x b))

end Sys2Proof.Machine
end

