-- ==== Sys2Proof/Machine/System.lean ====
section
/-! DEFINITION. The system instructions (R77, R78, R392 to R402): special registers, TRAP and ERET, the TLB instructions, IDLE
and WFM, fencing of cores, and self-tests. -/

namespace Sys2Proof.Machine

/-! ### Special registers (R77, R78, R394) -/

/-- The number an SRD or SWR names. -/
def srNum (n : BitVec 5) (m : BitVec 4) : Nat := m.toNat * 32 + n.toNat

/-- How a slot may use a special register. -/
inductive SrAccess
  | priv | ro | rw
deriving DecidableEq, Repr

/-- R394: the access columns. -/
def sysAccess (core num : Nat) : SrAccess :=
  if isTsc core then (if [0x101, 0x103, 0x105, 0x106, 0x107, 0x108, 0x109, 0x10B].contains num then .ro else .priv)
  else if isEsc core then
    (if [0x100, 0x101, 0x102, 0x103, 0x104, 0x107, 0x108, 0x109, 0x10B].contains num then .ro else .priv)
  else if isSteward core then
    (if [0x100, 0x101, 0x102, 0x103, 0x104, 0x107].contains num then .ro
     else if [0x108, 0x109, 0x10A, 0x10B].contains num then .rw else .priv)
  else .priv

/-- R78: the access of the issuing slot. -/
def State.srAccess (s : State) (num : Nat) : SrAccess :=
  if num < 0x100 then (if num = 5 ∨ num = 6 ∨ num = 8 then .rw else .ro) else sysAccess s.core num

/-- The value of a special register, zero-extended. CYCLE counts on while IDLE gates its core's clock (log 1). -/
def State.srRead (s : State) (num : Nat) : W64 :=
  let t := s.slot
  match num with
  | 0x000 => (s.srcNum s.cur).setWidth 64
  | 0x001 => (t.image.w5.setWidth 32).setWidth 64
  | 0x002 => t.image.w5
  | 0x003 => BitVec.ofNat 64 s.gtsNow
  | 0x004 => BitVec.ofNat 64 s.cyc
  | 0x005 => t.fsr.setWidth 64
  | 0x006 => t.fen.setWidth 64
  | 0x007 => t.prio.setWidth 64
  | 0x008 => t.rnrlim.setWidth 64
  | 0x009 => if t.cmtd then 1 else 0
  | 0x00A => BitVec.ofNat 64 (s.issueClass s.cur)
  | 0x00B => s.health.eolhrs.setWidth 64
  | 0x100 => t.sys.cause.setWidth 64
  | 0x101 => t.sys.src.setWidth 64
  | 0x102 => t.sys.pc
  | 0x103 => t.sys.val
  | 0x104 => t.sys.frm
  | 0x105 => t.sys.base1
  | 0x106 => t.sys.base2
  | 0x107 => t.sys.vf.setWidth 64
  | 0x108 => s.sched.pending.getD s.sched.slicetab
  | 0x109 => s.health.pwrlim.setWidth 64
  | 0x10A => s.health.linksel.setWidth 64
  | 0x10B => s.health.hlthst
  | _ => 0

/-- R402: the bits of HLTHST that a write of 1 clears. -/
def hlthW1c : W64 := 0xFFFFC0FF00000000

/-- R146, R147, R77: the user-class registers that can be written. -/
def State.userWrite (s : State) (num : Nat) (v : W64) : State :=
  s.mod (fun t =>
    let t := { t with dirty := { t.dirty with x := setBit t.dirty.x 0 } }
    match num with
    | 5 => { t with fsr := v.setWidth 32 &&& fsrMask }
    | 6 => { t with fen := v.setWidth 32 &&& fenMask }
    | _ => { t with rnrlim := if v.setWidth 4 = (0 : BitVec 4) then 1 else v.setWidth 4 })

/-- R394: the system registers a steward can write, with the values they refuse. -/
def State.srWrite (s : State) (num : Nat) (v : W64) : Res State :=
  if num < 0x100 then .ok (s.userWrite num v)
  else match num with
    | 0x108 => .ok { s with sched := { s.sched with pending := some v } }
    | 0x109 =>
      let w : BitVec 12 := v.setWidth 12
      if w.toNat < 500 ∨ 2000 < w.toNat then .error (.trap .illegal s.irVal)
      else .ok { s with health := { s.health with pwrlim := w } }
    | 0x10A =>
      let w : BitVec 5 := v.setWidth 5
      if 18 ≤ w.toNat then .error (.trap .illegal s.irVal) else .ok { s with health := { s.health with linksel := w } }
    | _ => .ok { s with health := { s.health with hlthst := s.health.hlthst &&& ~~~(v &&& hlthW1c) } }

/-- A privileged instruction (R86 step 2, R392): PRIV whatever its guard where the slot may not execute it. -/
def State.attemptPriv (s : State) (bad : Bool) (g : BitVec 4) (f : Res State) : Host.Outcome State Fault Refusal :=
  if bad then s.finish (.error (.trap .priv s.irVal)) else s.attempt g 4 f

/-- SRD (R78, R394, R397). -/
def execSrd (d n : BitVec 5) (m g : BitVec 4) (s : State) : Host.Outcome State Fault Refusal :=
  s.attemptPriv (s.srAccess (srNum n m) == .priv) g (.ok ((s.setX d (s.srRead (srNum n m))).retire 4))

/-- SWR (R78, R394, R397). -/
def execSwr (a n : BitVec 5) (m g : BitVec 4) (s : State) : Host.Outcome State Fault Refusal :=
  s.attemptPriv (s.srAccess (srNum n m) == .priv) g (do
    openIf (s.srAccess (srNum n m) == .ro) .perm
    let s1 ← s.srWrite (srNum n m) (s.x a)
    .ok (s1.retire 4))

/-! ### TRAP and ERET (R397) -/

/-- TRAP (R392, R397). -/
def execTrap (a : BitVec 5) (g : BitVec 4) (s : State) : Host.Outcome State Fault Refusal :=
  s.attempt g 4 (.error (.trap .brk (s.x a)))

/-- ERET (R325, R397). -/
def execEret (a b : BitVec 5) (g : BitVec 4) (s : State) : Host.Outcome State Fault Refusal :=
  s.attemptPriv (s.worker || isTsc s.core) g (do
    let frame := s.x a
    let disp := s.x b
    trapIf (decide (frame.toNat % 4096 ≠ 0)) .align frame
    s.illegalIf (decide (disp.toNat % 2 ^ 62 ≠ 0) || disp.toNat / 2 ^ 62 == 3)
    let s1 ← s.returnFrom frame (disp.toNat / 2 ^ 62)
    .ok (s1.retire 4))

/-! ### TLB instructions (R398 to R400) -/

/-- The issuing core is the destination TSC of its die (R312). -/
def State.isDestTsc (s : State) : Bool :=
  let die := coreDie s.core
  s.core == (die * 32 + (s.dieAt die).destTsc) * 64 + 32

/-- R398: a target selector. -/
def State.tlbTarget (s : State) (x : W64) : Res Nat := do
  s.illegalIf (!(decide (x.toNat < 32) || (x == 63 && s.isDestTsc)))
  .ok x.toNat

/-- The TLB a selector names. -/
def State.tlbOf (s : State) (sel : Nat) : List TlbEntry :=
  if sel = 63 then (s.dieAt (coreDie s.core)).tlb else (s.coreAt (s.clusterNo * 64 + sel)).tlb

/-- R304 to R306: the two words are no entry that TLBW may write. -/
def entryBad (a b : W64) : Bool :=
  let kind := a.toNat / 2 ^ 62
  let size := a.toNat / 2 ^ 60 % 4
  let low := 2 ^ sizeLog size
  let w := b.toNat
  let tgt := w / 2 ^ 62
  bitsAt a.toNat 56 4 != 0 || size == 3 || decide (a.toNat / 2 ^ 16 % 2 ^ 40 * 2 ^ 16 % low ≠ 0) ||
    (match kind with
      | 1 => (tgt != 0 && tgt != 2) || bitsAt w 56 6 != 0 || decide (bitsAt w 16 40 * 2 ^ 16 % low ≠ 0) || (tgt == 0 && bitsAt w 39 17 != 0)
          || bitsAt w 12 3 != 0 || bitsAt w 0 8 != 0
      | 2 => size == 0 || (tgt != 1 && tgt != 3) || bitsAt w 26 35 != 0 || decide (576 ≤ bitsAt w 16 10) || bitsAt w 0 16 != 0
      | _ => true)

/-- The page of a walk lies in the range of a tag, in its address space. -/
def State.tagCovers (s : State) (tag : W64) (job : W32) (vpn : Nat) : Bool :=
  let e : TlbEntry := ⟨tag, 0, 0⟩
  s.asid job == entAsid e && vpn * 2 ^ 16 / 2 ^ sizeLog (entSize e) == entBase e / 2 ^ sizeLog (entSize e)

/-- How a walk ends (R308). -/
inductive WalkEnd
  | written | absent | denied
deriving DecidableEq, Repr

/-- A stalled access of the task that missed issues again, its page refused or not (R303, R399); for a unit or stream, the core
latches the fault that its walk ended in (R308, R311). -/
def State.reissue (s : State) (w : Walk) (sel : Nat) (x : Nat × Nat) (e : WalkEnd) : State :=
  if 2 ^ 16 ≤ x.1 then
    if e = .written then s
    else s.modCore (w.tsc * 64 + sel) (fun c => { c with latched := c.latched ++ [(x.1, w.vpn, decide (e = .denied))] })
  else s.modSlot x.1 (fun t => if t.pend = some .tlb ∧ t.tid = x.2 then
    { t with pend := none, deny := if e = .denied then t.deny ++ [w.vpn] else t.deny } else t)

/-- R311: the work joined to a page request goes on: the page is present, or refused to the cores (and to the dies, numbered from
2^16) that `refuse` picks; the next retry of a refused remote request is answered NAK. A WAITM's wait runs on (R133). -/
def State.releaseJoined (s : State) (r : PageReq) (refuse : Nat → Bool) : State :=
  r.joined.foldl (fun s j => match j with
    | .image core i vpn => s.requeueHead core { i with deny := if refuse core then i.deny ++ [vpn] else i.deny }
    | .task tid vpn => match tfind s.saved tid with
      | none => s
      | some v => { s with saved := tset s.saved tid { v with ready := true, slot := { v.slot with
          wait := if v.slot.wait.any (fun w => w.kind == 9 && w.expect == 1) then v.slot.wait.map (fun w => { w with kind := 1 }) else none
          deny := if refuse v.core then v.slot.deny ++ [vpn] else v.slot.deny } } }
    | .remote die src va =>
      if refuse (2 ^ 16 + die) then s.modDie die (fun v => { v with deny := v.deny ++ [(r.job, src, va)] }) else s) s

/-- Marionette commands that wait for a refused page end (R311). -/
def State.refuseEngines (s : State) (cls : List Nat) (p : EngCmd → Bool) : State :=
  cls.foldl (fun s cl => s.modCluster cl (fun c => { c with eng := c.eng.map (fun g =>
    { g with cmds := g.cmds.map (fun d => if d.page.isSome && p d then { d with fault := some 1 } else d) }) })) s

/-- The command waits for a page of the range. -/
def State.engWaits (s : State) (tag : W64) (d : EngCmd) : Bool :=
  match d.page with
  | some vpn => s.tagCovers tag d.job vpn
  | none => false

def State.allClusters (s : State) : List Nat := s.clusters.map (·.1)

/-- The page requests whose response came and whose page is walked again, in the range of a tag. -/
def State.answeredIn (s : State) (tag : W64) (r : PageReq) : Bool := r.answered && s.tagCovers tag r.job r.vpn

/-- R399, R311: the requests walked again are settled: their pages are refused to the cores and dies that `refuse` picks; for the
others they were answered as present, and these try again (log 93). -/
def State.settleAnswered (s : State) (tag : W64) (refuse : Nat → Bool) : State :=
  let l := s.pageReqs.filter (s.answeredIn tag)
  let s1 := { s with pageReqs := s.pageReqs.filter (fun r => !s.answeredIn tag r) }
  let s2 := l.foldl (fun s r => s.releaseJoined r refuse) s1
  if l = [] then s2 else s2.refuseEngines s2.allClusters (fun c => refuse (sidCore c.sid) && s.engWaits tag c)

/-- The waiters in the range that `hit` picks, of the walks of the own TSC or of every one, and the walks left: those that wait for
none are over, but for another TSC's, which goes on until that TSC ends it (R317). -/
def State.takeWaiters (s : State) (tag : W64) (every : Bool) (hit : Nat × Nat × Nat → Bool) : List (Walk × Nat × Nat × Nat) × State :=
  let mine := fun (w : Walk) => (every || w.tsc == s.clusterNo) && s.tagCovers tag w.job w.vpn
  let taken := (s.walks.filter mine).flatMap (fun w => (w.waiters.filter hit).map (fun x => (w, x)))
  let rest := s.walks.filterMap (fun w =>
    if mine w then
      let l := w.waiters.filter (fun x => !hit x)
      if l = [] ∧ w.tsc = s.clusterNo then none else some { w with waiters := l }
    else some w)
  (taken, { s with walks := rest })

/-- TLBW mode 0, WRITE (R303, R398, R399). The job's page tables, as device agents see them, hold the entry too (log 6). -/
def execTlbwWrite (d a b : BitVec 5) (g : BitVec 4) (s : State) : Host.Outcome State Fault Refusal :=
  s.attemptPriv (!isTsc s.core) g (do
    let sel ← s.tlbTarget (s.x d)
    let x := s.x a
    let y := s.x b
    s.illegalIf (entryBad x y || (sel == 63 && (x.toNat / 2 ^ 62 != 1 || y.toNat / 2 ^ 62 != 0)))
    let e : TlbEntry := ⟨x, y, s.tick⟩
    let s1 := { s with
      tables := e :: s.tables.filter (fun o => !entOverlap o e)
      gone := s.gone ++ s.tables.filter (fun o => entOverlap o e) }.modCluster s.clusterNo (fun c =>
        { c with tableCache := (e :: c.tableCache.filter (fun o => !entOverlap o e)).take 32768 })
    let s2 := if sel = 63 then s1.modDie (coreDie s.core) (fun v => { v with tlb := tlbInsert 8 1024 v.tlb e })
      else s1.modCore (s.clusterNo * 64 + sel) (fun c => { c with tlb := tlbInsert 16 64 c.tlb e })
    let r := s2.takeWaiters x false (fun w => w.1 == sel)
    let s3 := r.1.foldl (fun s w => if sel = 63 then s else s.reissue w.1 w.2.1 w.2.2 .written) r.2
    .ok ((s3.settleAnswered x (fun _ => false)).retire 4))

/-- R310: the requests of a function that are outstanding: not yet answered. -/
def State.outstanding (s : State) (fn : BitVec 7) : Nat := (s.pageReqs.filter (fun r => r.fn == fn && !r.answered)).length

/-- The page request of an ABSENT: for the walk that missed, or for a page no walk is under way for. -/
def State.absentReq (s : State) (tag : W64) (prid : Nat) (ws : List Walk) : Option PageReq :=
  let e : TlbEntry := ⟨tag, 0, 0⟩
  match ws with
  | w :: _ => some ⟨w.fn, prid, w.vpn, sizeLog (entSize e), w.job, w.tsc, w.acc, w.sel, w.src, [], false⟩
  | [] => match s.sched.records.find? (fun r => s.asid (BitVec.ofNat 32 r.1) == entAsid e) with
    | some r => some ⟨127, prid, entBase e / 2 ^ 16, sizeLog (entSize e), BitVec.ofNat 32 r.1, s.clusterNo, 1, 0, s.srcNum s.cur, [], false⟩
    | none => none

/-- TLBW mode 1, ABSENT (R310, R311, R399): every current miss of the page, whichever TSC walks it, joins a page request; work
that was walked again after a response is refused. -/
def State.absent (s : State) (tag : W64) (prid : Nat) : State :=
  let mine := s.walks.filter (fun w => s.tagCovers tag w.job w.vpn)
  let again := s.pageReqs.any (s.answeredIn tag)
  let s1 := s.settleAnswered tag (fun _ => true)
  let covered := s1.pageReqs.any (fun r => s.tagCovers tag r.job r.vpn)
  let wanted := !covered && (!again || mine.any (fun w => w.waiters != []))
  match s1.absentReq tag prid (mine.filter (fun w => w.waiters != []) ++ mine) with
  | none => s1
  | some r =>
    if wanted && decide (1024 ≤ s1.outstanding r.fn) then s1
    else
      let s2 := if wanted then
          let f := tget FnSt.reset s1.host.fns r.fn.toNat
          { s1 with
            pageReqs := s1.pageReqs ++ [r]
            host := { s1.host with fns := tset s1.host.fns r.fn.toNat { f with prtail := f.prtail + 1, prid := (prid + 1) % 2 ^ 32 } } }
        else s1
      let t := s2.takeWaiters tag true (fun _ => true)
      t.1.foldl (fun s w =>
        if w.2.1 = 63 then match s.pageReqOf w.1.job w.1.vpn with
          | some k => s.joinRemote k (w.1.tsc / 32) w.2.2.1 w.2.2.2
          | none => s
        else s.reissue w.1 w.2.1 w.2.2 .absent) t.2

/-- TLBW mode 1, ABSENT (R398, R399). -/
def execTlbwAbsent (d a b : BitVec 5) (g : BitVec 4) (s : State) : Host.Outcome State Fault Refusal :=
  s.attemptPriv (!isTsc s.core) g (do
    let _sel ← s.tlbTarget (s.x d)
    .ok ((s.absent (s.x a) ((s.x b).toNat % 2 ^ 32)).retire 4))

/-- TLBW mode 2, DENY (R314, R398, R399): the misses of the page from the target fail, those walked again after a response too. -/
def execTlbwDeny (d a b : BitVec 5) (g : BitVec 4) (s : State) : Host.Outcome State Fault Refusal :=
  s.attemptPriv (!isTsc s.core) g (do
    let sel ← s.tlbTarget (s.x d)
    s.illegalIf (s.x b != 0)
    let tag := s.x a
    let r := s.takeWaiters tag false (fun w => w.1 == sel)
    let s1 := r.1.foldl (fun s w =>
      if sel = 63 then s.modDie (coreDie s.core) (fun v => { v with deny := v.deny ++ [(w.1.job, w.2.2.1, w.2.2.2)] })
      else s.reissue w.1 w.2.1 w.2.2 .denied) r.2
    let s2 := s1.refuseEngines [s.clusterNo] (fun c => coreNum (sidCore c.sid) == sel && s.engWaits tag c)
    let mine := fun (c : Nat) => if sel = 63 then c == 2 ^ 16 + coreDie s.core else c == s.clusterNo * 64 + sel
    .ok ((s2.settleAnswered tag mine).retire 4))

/-- The range a queued matrix command reaches. -/
def MOp.range : MOp → Option (Nat × Nat)
  | .load _ _ va ps => some (va.toNat, 2 ^ 16 * (ps.length - 1) + 1)
  | .store _ _ va ps => some (va.toNat, 2 ^ 16 * (ps.length - 1) + 1)
  | _ => none

/-- The pages of the ranges a lookup has translated: request block, descriptor, query, output and rows (R166). -/
def Pklu.pages (u : Pklu) : List (W32 × Nat) :=
  u.look.flatMap (fun l => ((pagesOf l.req.toNat (max 64 (24 + 8 * pkK l.words))) ++ pagesOf l.desc.toNat 128 ++
      (if l.queryPl = [] then [] else pagesOf l.query.toNat (4 * pkHdim l.words)) ++
      (if l.outPl = [] then [] else pagesOf l.output.toNat (4 * pkRowlen l.words))).map (fun v => (l.job, v))) ++
    (u.fetch.filter (fun f => !f.arrived)).flatMap (fun f => f.segs.flatMap (fun g => (pagesOf g.1 g.2.1).map (fun v => (f.job, v))))

/-- The pages of the tile under way of an engine's command, and of those fetched ahead that other parties have not answered. -/
def EngCmd.pages (c : EngCmd) : List (W32 × Nat) :=
  (c.tiles.filter (fun t => t.2.need != 0)).flatMap (fun t => ((c.lineAddrs t.1).getD []).flatMap (fun va => (pagesOf va 64).map (fun v => (c.job, v))))

/-- R317: an access translated through an entry for a page that `hit` picks is not yet performed: a queued matrix command, a lookup,
an engine's tile, or a request to the host. -/
def State.pageBusy (s : State) (hit : W32 → Nat → Bool) : Bool :=
  let any := fun (l : List (W32 × Nat)) => l.any (fun x => hit x.1 x.2)
  s.cores.any (fun c => c.2.cmds.any (fun m => match m.op.range with
      | some (va, n) => any ((pagesOf va n).map (fun v => (m.job, v)))
      | none => false)) ||
    s.clusters.any (fun c => any c.2.pklu.pages || c.2.eng.any (fun g => g.cmds.any (fun d => any d.pages))) ||
    s.reqs.any (fun r => r.host.isSome && hit r.job (vpnOf r.va))

/-- R317: the cache lines that hold bytes of the pages of the entries. -/
def State.entryLines (s : State) (l : List TlbEntry) : List (Nat × Nat) :=
  let inside := fun (n : Nat) => l.any (fun e => entKind e == 1 && entTgt e == 0 && decide (entFrame e ≤ 64 * n) &&
    decide (64 * n < entFrame e + 2 ^ sizeLog (entSize e)))
  s.clusters.flatMap (fun c => (c.2.lines.filter (fun x => x.2.dirty != 0 && inside x.1)).map (fun x => (c.1, x.1)))

/-- R400: every TLB, TSC table cache and the job's page tables lose the entries `hit` picks. -/
def State.invalidate (s : State) (hit : TlbEntry → Bool) : State :=
  let keep := fun (l : List TlbEntry) => l.filter (fun e => !hit e)
  { s with
    tables := keep s.tables
    gone := keep s.gone
    cores := s.cores.map (fun c => (c.1, { c.2 with tlb := keep c.2.tlb }))
    clusters := s.clusters.map (fun c => (c.1, { c.2 with tableCache := keep c.2.tableCache }))
    dies := s.dies.map (fun d => (d.1, { d.2 with tlb := keep d.2.tlb })) }

/-- The entries of the package, and those replaced whose bytes may still wait in a cache (R317). -/
def State.allEntries (s : State) : List TlbEntry :=
  s.tables ++ s.gone ++ s.cores.flatMap (fun c => c.2.tlb) ++ s.dies.flatMap (fun d => d.2.tlb)

/-- R317: a walk of another TSC for the range is still under way; the own TSC, which issues the TLBI, walks nothing meanwhile. -/
def State.walkBusy (s : State) (hit : W32 → Nat → Bool) : Bool :=
  s.walks.any (fun w => hit w.job w.vpn && decide (w.tsc * 64 + 32 ≠ s.core))

/-- TLBI (R317, R400): it waits until every access through the entries is performed, the dirty bytes of their pages at their
slices, and every other TSC's walk has ended. -/
def tlbiExec (hit : TlbEntry → Bool) (walk : W32 → Nat → Bool) (ok : Bool) (g : BitVec 4) (s : State) :
    Host.Outcome State Fault Refusal :=
  s.attemptPriv (!(isTsc s.core || isSteward s.core)) g (do
    s.illegalIf (!ok)
    let dirty := s.entryLines (s.allEntries.filter hit)
    waitIf (s.pageBusy walk || s.walkBusy walk || dirty.any (fun x => s.hostHeld.contains x.2)) 0 0
    .ok (((dirty.foldl (fun s x => s.writeBack x.1 x.2) s).invalidate hit).retire 4))

/-- TLBI mode 0: a page or range (R400). -/
def execTlbiPage (a : BitVec 5) (g : BitVec 4) (s : State) : Host.Outcome State Fault Refusal :=
  tlbiExec (fun e => entOverlap e ⟨s.x a, 0, 0⟩) (fun job vpn => s.tagCovers (s.x a) job vpn) true g s

/-- TLBI mode 1: an address space (R400). -/
def execTlbiAsid (a : BitVec 5) (g : BitVec 4) (s : State) : Host.Outcome State Fault Refusal :=
  tlbiExec (fun e => entAsid e == (s.x a).toNat % 2 ^ 16) (fun job _ => s.asid job == (s.x a).toNat % 2 ^ 16) true g s

/-- TLBI mode 2: every entry (R400). -/
def execTlbiAll (a : BitVec 5) (g : BitVec 4) (s : State) : Host.Outcome State Fault Refusal :=
  tlbiExec (fun _ => true) (fun _ _ => true) (s.x a == 0) g s

/-- TLBP (R400). -/
def execTlbp (d a b : BitVec 5) (g : BitVec 4) (s : State) : Host.Outcome State Fault Refusal :=
  s.attemptPriv s.worker g (do
    let sel ← s.tlbTarget (s.x b)
    let tag : TlbEntry := ⟨s.x a, 0, 0⟩
    let v := match tlbLookup (s.tlbOf sel) (entAsid tag) (BitVec.ofNat 64 (entBase tag)) with
      | some e => e.word
      | none => BitVec.allOnes 64
    .ok ((s.setX d v).retire 4))

/-! ### IDLE and WFM (R401) -/

/-- The images waiting in a core's mailbox. -/
def CoreSt.waiting (c : CoreSt) : Nat := c.mail.toList.foldl (fun n q => n + q.length) 0

/-- IDLE (R401). -/
def execIdle (a : BitVec 5) (g : BitVec 4) (s : State) : Host.Outcome State Fault Refusal :=
  s.attemptPriv s.worker g (
    if (s.coreAt s.core).waiting ≠ 0 ∨ (s.x a).toNat ≤ s.gtsNow then .ok (s.retire 4)
    else .ok (s.mod (fun t => { t with pend := some (.idle (s.x a)), wait := none })))

/-- WFM (R401). -/
def execWfm (d a : BitVec 5) (g : BitVec 4) (s : State) : Host.Outcome State Fault Refusal :=
  s.attemptPriv s.worker g (
    let n := (s.coreAt s.core).waiting
    if n ≠ 0 ∨ (s.x a).toNat ≤ s.gtsNow then .ok ((s.setX d (BitVec.ofNat 64 n)).retire 4)
    else .ok (s.mod (fun t => { t with pend := some (.wfm d (s.x a)), wait := none })))

/-! ### HALTC (R401) -/

/-- The images of a core's mailbox and deque go, in order, to another core. -/
def State.moveQueues (s : State) (src dst : Nat) : State :=
  let c := s.coreAt src
  (s.modCore src (fun c => { c with mail := Vector.replicate 4 [], deque := [], heldHeads := [] })).modCore dst (fun d => { d with
    mail := Vector.zipWith (fun x y => x ++ y.map s.anew) d.mail c.mail
    deque := d.deque ++ c.deque.map s.anew })

/-- R401: the tasks of the core are discarded or saved, gangs they or its saved tasks sit in break (R383), its steal request
ends, and its queues move; what is cancelled on the core that takes them goes (R48), and that core has acquired what the other
had (R283). -/
def State.fenceCore (s : State) (core : Nat) : State :=
  let s1 := (List.range 5).foldl (fun s k =>
    let sid := core * 8 + k
    let t := s.slotAt sid
    if t.task.isNone then s
    else if t.cmtd then
      let st := match t.pend with
        | some (.remote _ _ _ _ _ _) => 5
        | _ => 2
      (s.leaveGang core t.tid).saveTask sid st t.forced false
    else s.discard sid false) s
  let s2 := (s1.saved.filter (fun e => e.2.core == core)).foldl (fun s e => s.leaveSavedGang core e.1) s1
  let s2 := s2.modCore core (fun c => { c with fenced := true, steal := ⟨0, none, none, none⟩, parks := [], parkTo := [] })
  let s3 := (s2.moveQueues core (s2.liveCore core)).acquire (s2.liveCore core) 2
  s3.stripMarks (s3.liveCore core)

/-- The operand of HALTC names no worker core of this package. -/
def State.haltBad (s : State) (x : W64) : Bool :=
  decide (2 ^ 26 ≤ x.toNat) || !wellFormedSrc (x.toNat / 8 * 8) || x.toNat / 2 ^ 16 != s.pkg.toNat || !isWorkerCore (x.toNat % 2 ^ 16 / 8)

/-- HALTC mode 0 (R401). -/
def execHaltcFence (a : BitVec 5) (g : BitVec 4) (s : State) : Host.Outcome State Fault Refusal :=
  s.attemptPriv (!isSteward s.core) g (do
    s.illegalIf (s.haltBad (s.x a))
    let core := (s.x a).toNat % 2 ^ 16 / 8
    .ok ((if (s.coreAt core).fenced then s else s.fenceCore core).retire 4))

/-- HALTC mode 1 (R401). -/
def execHaltcUnfence (a : BitVec 5) (g : BitVec 4) (s : State) : Host.Outcome State Fault Refusal :=
  s.attemptPriv (!isSteward s.core) g (do
    s.illegalIf (s.haltBad (s.x a))
    .ok ((s.modCore ((s.x a).toNat % 2 ^ 16 / 8) (fun c => { c with fenced := false })).retire 4))

/-! ### SELFT (R401, R402) -/

/-- The unit word names no unit of its kind. -/
def State.unitBad (s : State) (u : W64) : Bool :=
  let id := u.toNat % 2 ^ 32
  match u.toNat / 2 ^ 56 with
  | 1 => s.haltBad (BitVec.ofNat 64 id)
  | 2 => !(coreExists (id / 512))
  | 3 => decide (2 ^ 23 ≤ id)
  | 4 => decide (18 * 8 ≤ id)
  | 5 => decide (6 ≤ id)
  | _ => decide (4 * 32 ≤ id) || decide (24 ≤ id % 32)

/-- R401: the result known before any test: 3 BADUNIT, 2 NOTFENCED. -/
def State.unitResult (s : State) (u : W64) : Option Nat :=
  if s.unitBad u then some 3
  else if u.toNat / 2 ^ 56 = 1 ∧ (s.coreAt (u.toNat % 2 ^ 16 / 8)).fenced = false then some 2 else none

/-- R402: STRES and STUNIT. -/
def State.setStres (s : State) (u : W64) (r : Nat) : State :=
  { s with health := { s.health with hlthst := (s.health.hlthst &&& 0xFFFFFFFFFF000000) ||| BitVec.ofNat 64 ((r + 1) * 2 ^ 16 + u.toNat % 2 ^ 16) } }

/-- SELFT (R401): the outcome of a test arrives by SELFT_RESULT. -/
def execSelft (d a : BitVec 5) (g : BitVec 4) (s : State) : Host.Outcome State Fault Refusal :=
  s.attemptPriv (!isSteward s.core) g (do
    let u := s.x a
    s.illegalIf (u.toNat / 2 ^ 56 == 0 || decide (7 ≤ u.toNat / 2 ^ 56))
    match s.unitResult u with
    | some r => .ok (((s.setStres u r).setX d (BitVec.ofNat 64 r)).retire 4)
    | none => .ok (s.mod (fun t => { t with pend := some (.selft d u), wait := none })))

end Sys2Proof.Machine
end

