-- ==== Sys2Proof/Machine/Packet.lean ====
section
/-! DEFINITION. Fabric packets (R337, R338) as lists of words, the answers this package sends and the record it keeps of
performed requests (R343), and translation at the destination (R312 to R314). -/

namespace Sys2Proof.Machine

/-! ### Fields (R337) -/

def pkDpkg (p : List W64) : Nat := bitsAt (recWord p 0).toNat 54 10
def pkSpkg (p : List W64) : Nat := bitsAt (recWord p 0).toNat 44 10
def pkType (p : List W64) : Nat := bitsAt (recWord p 0).toNat 41 3
def pkFn (p : List W64) : BitVec 7 := BitVec.ofNat 7 (bitsAt (recWord p 0).toNat 34 7)
def pkXreg (p : List W64) : Bool := (recWord p 0).getLsbD 33
def pkStatus (p : List W64) : Nat := bitsAt (recWord p 0).toNat 24 8
def pkLen (p : List W64) : Nat := bitsAt (recWord p 0).toNat 17 7
def pkOrdf (p : List W64) : Bool := (recWord p 0).getLsbD 16
def pkSeq (p : List W64) : Nat := (recWord p 0).toNat % 2 ^ 16
def pkAddr (p : List W64) : W64 := recWord p 1
/-- A HOP.V image names no core but an address, in a target word of kind 2 (log 19). -/
def virtTarget (va : W64) : W64 := BitVec.ofNat 64 (2 ^ 63 + va.toNat % 2 ^ 56)
def pkVirt (p : List W64) : Bool := targetKind (pkAddr p) == 2
def pkVa (p : List W64) : W64 := ((pkAddr p).setWidth 56).signExtend 64
def pkJob (p : List W64) : W32 := (recWord p 2).extractLsb' 32 32
def pkRid (p : List W64) : Nat := (recWord p 2).toNat % 2 ^ 32
def pkAux (p : List W64) : W64 := recWord p 3
/-- Image word `k`. -/
def pkWord64 (p : List W64) (k : Nat) : W64 := recWord p (4 + k)
/-- The built-in handler number of an AGENT packet (R30). -/
def pkNum (p : List W64) : Nat := (pkWord64 p 0).toNat / 256
/-- The source number in image word 6. -/
def pkSrc (p : List W64) : W32 := (pkWord64 p 6).extractLsb' 32 32
/-- The payload. -/
def pkPay (p : List W64) : List W64 := p.drop (if pkXreg p then 20 else 12)
/-- The image of a MSG, with its register block and payload. -/
def pkImage (p : List W64) : Image :=
  { w0 := pkWord64 p 0, w1 := pkWord64 p 1, w2 := pkWord64 p 2, w3 := pkWord64 p 3, w4 := pkWord64 p 4, w5 := pkWord64 p 5
    w6 := pkWord64 p 6, w7 := pkWord64 p 7
    regs := if pkXreg p then some ((p.drop 12).take 4) else none
    payload := pkPay p, job := pkJob p, fn := pkFn p, marked := false, deny := [], handOver := none }

/-- Header word 0. -/
def pkHead (dpkg spkg type : Nat) (fn : BitVec 7) (xreg : Bool) (status len : Nat) (seq : Option Nat) : W64 :=
  BitVec.ofNat 64 (dpkg * 2 ^ 54 + spkg * 2 ^ 44 + type * 2 ^ 41 + fn.toNat * 2 ^ 34 + xreg.toNat * 2 ^ 33 + status * 2 ^ 24
    + len * 2 ^ 17 + (match seq with
      | some n => 2 ^ 16 + n
      | none => 0))

/-- R338: a packet the destination drops. A MSG to a ring carries no handler (R30). -/
def pkBad (p : List W64) : Bool :=
  let t := pkType p
  let fn := pkFn p
  decide (3 ≤ t) || (recWord p 0).getLsbD 32 || (decide (64 ≤ fn.toNat) && fn != 127) || decide (64 < pkLen p) ||
    (t != 0 && pkXreg p) || (t != 2 && pkStatus p != 0) || (t == 2 && decide (8 ≤ pkStatus p)) || (!pkOrdf p && pkSeq p != 0) ||
    (t == 0 && pkAux p != 0) || (t == 2 && pkStatus p != 4 && pkAux p != 0) ||
    (t == 2 && pkStatus p == 4 && decide (bitsAt (pkAux p).toNat 2 14 ≠ 0 ∨ 2 ^ 26 ≤ (pkAux p).toNat)) ||
    (t == 0 && (pkAddr p).toNat / 2 ^ 62 != 1 && (pkNum p == 1 || (decide (72 ≤ pkNum p) && decide (pkNum p ≤ 79)))) ||
    (t == 1 && (decide (pkNum p < 2) || decide (72 ≤ pkNum p) || decide ((pkWord64 p 0).toNat % 256 ≠ 0))) ||
    p.length != 12 + 8 * (pkXreg p).toNat + 8 * pkLen p

/-- R337: the answer to a request. -/
def pkAnswer (req : List W64) (pkg : Nat) (status : Nat) (word1 aux : W64) (pay : List W64) : List W64 :=
  [pkHead (pkSpkg req) pkg 2 (pkFn req) false status (pay.length / 8) none, pkAddr req, recWord req 2, aux,
    0, word1, 0, 0, 0, 0, 0, 0] ++ pay

/-! ### Answers and records (R341, R343) -/

/-- A packet waits at a gateway for a port. -/
def State.queueOut (s : State) (die : Nat) (p : List W64) : State :=
  { s with fabric := { s.fabric with out := s.fabric.out ++ [OutPkt.mk p die (s.gtsOf die) none] } }

def sameReq (req : List W64) (d : Done) : Bool := d.pkg == pkSpkg req && d.rid == pkRid req

/-- The request was performed: its answer is recorded and sent. -/
def State.answer (s : State) (die : Nat) (req : List W64) (status : Nat) (word1 : W64) (pay : List W64) : State :=
  let a := pkAnswer req s.pkg.toNat status word1 0 pay
  let l := s.fabric.performed.map (fun d => if sameReq req d then { d with ans := some a, since := s.gtsOf die } else d)
  { s with fabric := { s.fabric with performed := l } }.queueOut die a

/-- The request was not performed: it is answered and leaves no record. -/
def State.refuseAux (s : State) (die : Nat) (req : List W64) (status : Nat) (aux : W64) : State :=
  let l := s.fabric.performed.filter (fun d => !sameReq req d)
  { s with fabric := { s.fabric with performed := l } }.queueOut die (pkAnswer req s.pkg.toNat status 0 aux [])

def State.refuse (s : State) (die : Nat) (req : List W64) (status : Nat) : State := s.refuseAux die req status 0

/-- Statuses of R337. -/
def stData : Nat := 0
def stAccept : Nat := 1
def stRnr : Nat := 2
def stNak : Nat := 3
def stMoved : Nat := 4
def stUnsupported : Nat := 5
def stFull : Nat := 6
def stIllegal : Nat := 7

/-! ### Translation at the destination (R312 to R314) -/

/-- What the destination finds: a local physical address, or the answer it gives, with its AUX. -/
inductive Dest
  | ok (pa : Nat) (tso : Bool)
  | ans (status : Nat) (aux : W64)
deriving DecidableEq, Repr

/-- The source number of the requester's TSC (R395). -/
def tscOf (src : W32) : W32 := BitVec.ofNat 32 (src.toNat / 512 * 512 + 256)

/-- R314: the forwarding record of the range that holds an address. -/
def State.forwardOf (s : State) (job : W32) (va : W64) : Option Forward :=
  s.fabric.forwards.find? (fun f => f.job == job && va.toNat % 2 ^ 56 / 2 ^ sizeLog f.size == f.base / 2 ^ sizeLog f.size)

/-- R313, R314: a miss in the destination TLB: MOVED for a range that has migrated; NAK after a refusal and UNSUPPORTED after a
walk that found no LOCAL leaf; else RNR, and the walk starts or the walk or page request is joined. -/
def State.destMiss (s : State) (die : Nat) (req : List W64) (acc : Acc) (va : W64) : Dest × State :=
  let job := pkJob req
  let src := (pkSrc req).toNat
  let d := (job, src, va.toNat)
  match s.forwardOf job va with
  | some f => (.ans stMoved (BitVec.ofNat 64 (f.pkg * 2 ^ 16 + f.size)), s)
  | none =>
    if (s.dieAt die).deny.contains d then (.ans stNak 0, s.modDie die (fun v => { v with deny := v.deny.erase d }))
    else if (s.dieAt die).unsup.contains d then (.ans stUnsupported 0, s.modDie die (fun v => { v with unsup := v.unsup.erase d }))
    else match s.pageReqOf job (vpnOf va) with
      | some k => (.ans stRnr 0, s.joinRemote k die src va.toNat)
      | none =>
        (.ans stRnr 0, s.addWalk (die * 32 + (s.dieAt die).destTsc) 63 (tscOf (pkSrc req)) job (pkFn req) acc va (some (src, va.toNat)))

/-- R307, R312, R314: the translation of a request. -/
def State.destTr (s : State) (die : Nat) (req : List W64) (acc : Acc) (perms : Bool) (va : W64) : Dest × State :=
  let sup := !isWorkerCore ((pkSrc req).toNat % 2 ^ 16 / 8)
  if addrFault va 1 || inReserved va || inLink va || (s.regionOf (pkJob req) va).isSome || (!sup && supervisorHalf va) then (.ans stNak 0, s)
  else
    match tlbLookup (s.dieAt die).tlb (s.asid (pkJob req)) va with
    | none => s.destMiss die req acc va
    | some e =>
      let pa := entFrame e + va.toNat % 2 ^ sizeLog (entSize e)
      if perms && !leafAllows e acc sup then (.ans stNak 0, s)
      else if !sup && e.word.getLsbD 11 then (.ans stNak 0, s)
      else (.ok pa (e.word.getLsbD 15), s.modDie die (fun v => { v with tlb := v.tlb.map (fun x => if x = e then { x with used := s.tick } else x) }))

end Sys2Proof.Machine
end

