-- ==== Sys2Proof/Machine/Sched.lean ====
section
/-! DEFINITION. From mailbox to issue slot (R31 to R37, R48 to R68, R132, R326): delivery of images, the choice of an image
for a slot, binding, handler start, the choice of a thread, stealing, and parking. -/

namespace Sys2Proof.Machine

/-- What an event does for slot `sid`. -/
def State.asSlot (s : State) (sid : Nat) (f : State → State) : State := { f { s with cur := sid } with cur := s.cur }

/-! ### Arrival of an image (R31, R34, R48, R70) -/

/-- R401: IDLE and WFM of a core end when an image reaches its mailbox. -/
def State.wakeCore (s : State) (core : Nat) : State :=
  let sid := core * 8
  match (s.slotAt sid).pend with
  | some (.idle _) => s.retireAt sid ((s.slotAt sid).pc + 4)
  | some (.wfm d _) => (s.modSlot sid (fun t => t.putX d (BitVec.ofNat 64 (s.coreAt core).waiting))).retireAt sid ((s.slotAt sid).pc + 4)
  | _ => s

/-- R31, R127: the payload reaches the target's scratchpad, a service core's too (R219), before the image enters the
mailbox. -/
def State.putPayload (s : State) (core : Nat) (i : Image) : State :=
  let n := 8 * i.payload.length
  if n = 0 then s
  else { s with mem := memWrite s.mem (scratchBase core + payDest i.w7) n (ones n) (ofWords i.payload) }

/-- R70: an image whose job is out joins its saved queue state. -/
def State.arriveOut (s : State) (core : Nat) (i : Image) : State :=
  let v := s.saveOf i.job
  let m := tget (Vector.replicate 4 []) v.mail core
  let k := BitVec.ofNat 2 i.cls
  s.putSave { v with mail := tset v.mail core (RegFile.write m k (RegFile.read m k ++ [QEntry.mk i none 0 0])) }

/-- An image enters a core's mailbox: removed when its launch is cancelled there (R48), saved when its job is out (R70). -/
def State.arrive (s : State) (core : Nat) (i : Image) : State :=
  if s.isCancelled core i.launch then s.countDown i.launch 1
  else if isWorkerCore core && !s.jobIn i.job then s.arriveOut core i
  else ((s.putPayload core i).enqueue core (s.entry { i with payload := [] } none)).wakeCore core

/-- R34: the sub-queue takes an image of its class. A message that a thread of this package sent has had its room
since it was sent. -/
def State.takes (s : State) (m : Msg) : Bool :=
  let used := (subQueue (s.coreAt m.dest) m.img.cls).length
  let mine := (s.flight.filter (fun o => !o.agent && o.ans.isNone && o.dest == m.dest && o.img.cls == m.img.cls)).length
  (isWorkerCore m.dest && !s.jobIn m.img.job) || s.isCancelled m.dest m.img.launch ||
    (if m.agent || m.ans.isSome then decide (used + mine < 64) else decide (used < 64))

/-- R51, R335: no earlier message of one source, destination and class is still on its way; `live` gives the core that takes
an image in place of a fenced one (R32). -/
def inOrder (live : Nat → Nat) (l : List Msg) (m : Msg) (idx : Nat) : Bool :=
  !(l.take idx).any (fun o => live o.dest == live m.dest && o.img.cls == m.img.cls && o.img.w6.extractLsb' 32 32 == m.img.w6.extractLsb' 32 32)

/-- The stream of an ordered image (R339): source number, target word, class, urgency. The source cannot know the core of a HOP.V:
those of one slot, class and urgency to a package form one stream (log 19). -/
def streamKey (p : List W64) : List Nat :=
  let i := pkImage p
  [(pkSrc p).toNat, if pkVirt p then 2 ^ 63 + pkDpkg p else (pkAddr p).toNat / 8 * 8, i.cls, if i.urg then 1 else 0]

/-- R342: the SEQ a stream expects next at a die. -/
def State.expected (s : State) (die : Nat) (k : List Nat) : Nat :=
  (((s.dieAt die).expect.find? (fun e => e.1 == k)).map (·.2)).getD 0

def State.advanceSeq (s : State) (die : Nat) (k : List Nat) : State :=
  let n := (s.expected die k + 1) % 2 ^ 16
  s.modDie die (fun v => { v with expect := (k, n) :: v.expect.filter (fun e => e.1 != k) })

/-- R411, R413: why a ring of this package does not take an image of another: NAK, or FULL. -/
def State.ringStatus (s : State) (p : List W64) : Option Nat :=
  let x := pkAddr p
  let g := s.ring (targetRing x)
  if bitsAt x.toNat 26 36 ≠ 0 ∨ bitsAt x.toNat 10 6 ≠ 0 ∨ g.on = false ∨ g.cfg.setWidth 32 ≠ pkJob p then some stNak
  else if g.full then some stFull else none

/-- R412: the image becomes a MESSAGE entry, and is accepted. -/
def State.ringPut (s : State) (die : Nat) (p : List W64) : State :=
  (s.putEntry (targetRing (pkAddr p)) 1 ((List.range 5).map (pkWord64 p) ++ [pkWord64 p 5, pkSrc p ++ 0#32])).answer die p stAccept 0 []

/-- The core that stands for none: an image of the stream that was refused for good, out of its turn. -/
def streamHole : Nat := 2 ^ 16

/-- R342: the held image whose turn has come goes on to its core or ring; `f` bounds the entries that follow it. -/
def State.releaseNext : Nat → State → Nat → List Nat → State
  | 0, s, _, _ => s
  | f + 1, s, die, k =>
    match (s.dieAt die).reorder.find? (fun x => streamKey x.2 == k && pkSeq x.2 == s.expected die k) with
    | none => s
    | some (c, p) =>
      let s := s.modDie die (fun v => { v with reorder := v.reorder.erase (c, p) })
      if c = streamHole then State.releaseNext f (s.advanceSeq die k) die k
      else if targetKind (pkAddr p) = 1 then
        match s.ringStatus p with
        | some st => if st = stFull then s.refuse die p st else State.releaseNext f ((s.refuse die p st).advanceSeq die k) die k
        | none => State.releaseNext f ((s.ringPut die p).advanceSeq die k) die k
      else { s with flight := s.flight ++ [Msg.mk (s.liveCore c) (pkImage p) false (some p)] }

/-- R342: the image is delivered; its stream goes on. -/
def State.streamGoes (s : State) (die : Nat) (p : List W64) : State :=
  if pkOrdf p then State.releaseNext 513 (s.advanceSeq die (streamKey p)) die (streamKey p) else s

/-- R342: an image that is refused for good will not come again; its stream goes on without it. -/
def State.consumeSeq (s : State) (die : Nat) (p : List W64) : State :=
  let ahead := (pkSeq p + 2 ^ 16 - s.expected die (streamKey p)) % 2 ^ 16
  if !pkOrdf p || decide (2 ^ 15 ≤ ahead) then s
  else if ahead = 0 then s.streamGoes die p
  else s.modDie die (fun v => { v with reorder := v.reorder ++ [(streamHole, p)] })

/-- A ring takes the image of another package. -/
def State.ringTake (s : State) (die : Nat) (p : List W64) : State := (s.ringPut die p).streamGoes die p

/-- The image of another package is in its mailbox: ACCEPT (R344), and its stream goes on (R342). -/
def State.accepted (s : State) (core : Nat) (p : List W64) : State :=
  let die := coreDie core
  (s.answer die p stAccept 0 []).streamGoes die p

/-- A message enters its mailbox, or is held by its agent, or is answered FULL (R34). -/
def State.deliver (s : State) (m : Msg) : State :=
  if s.takes m then
    let s := s.arrive m.dest m.img
    match m.ans with
    | some p => s.accepted m.dest p
    | none => s
  else match m.ans with
    | some p => s.refuse (coreDie m.dest) p stFull
    | none => { s with held := s.held ++ [m] }

/-- MAILBOX_DELIVERY (R31, R32, R34, R335): message `idx` of those on their way; a fenced core's go on to the live one. -/
def execMailboxDelivery (idx : Nat) (s : State) : Host.Outcome State Fault Refusal :=
  .next (match nth s.flight idx with
    | none => s
    | some m =>
      if inOrder s.liveCore s.flight m idx && inOrder s.liveCore s.held m s.held.length then
        { s with flight := delAt s.flight idx }.deliver { m with dest := s.liveCore m.dest }
      else s)

/-- AGENT_IMAGE_RETRY (R34): a held message tries again. -/
def execAgentImageRetry (idx : Nat) (s : State) : Host.Outcome State Fault Refusal :=
  .next (match nth s.held idx with
    | none => s
    | some m =>
      let m := { m with dest := s.liveCore m.dest }
      if inOrder s.liveCore s.held m idx && s.takes m then { s with held := delAt s.held idx }.deliver m else s)

/-- A refused request is due to be sent again. -/
def reqDue (now : Nat) (r : Req) : Bool := r.st == .backoff && decide (r.since ≤ now)

/-- The request is sent again: a new request with the same SEQ (R339). -/
def resendReq (now : Nat) (r : Req) : Req := { r with st := if r.host.isSome then .sent else .queued, since := now }

/-- SEND_FULL_RETRY (R34): the slot's message that was answered FULL is sent again 1 µs later. -/
def execSendFullRetry (sid : Nat) (s : State) : Host.Outcome State Fault Refusal :=
  .next { s with reqs := s.reqs.map (fun r =>
    let now := s.gtsOf (coreDie (sidCore r.sid))
    if r.sid == sid && r.num == 0 && reqDue now r then resendReq now r else r) }

/-! ### Ages and classes (R54, R59) -/

/-- R54: every 2^16 cc of waiting raise the class by one. -/
def State.aged (s : State) (e : QEntry) : QEntry := { e with promo := s.age e / 2 ^ 16 }

def State.promote (s : State) (core : Nat) : State :=
  s.modCore core (fun c => { c with mail := c.mail.map (fun q => q.map s.aged), deque := c.deque.map s.aged })

/-- IMAGE_AGE_PROMOTION (R54, R59). -/
def execImageAgePromotion (core : Nat) (s : State) : Host.Outcome State Fault Refusal := .next (s.promote core)

/-- R59, R65: the effective class of a waiting entry, its promotions brought up to date; a barrier's raise counts for urgent
entries as for others (log 77). -/
def State.effClass (s : State) (core : Nat) (e : QEntry) : Nat :=
  s.raisedClass (coreCluster core) e.img.launch 0 (e.img.cls - e.promo)

/-! ### Candidates (R60, R63) -/

/-- A candidate: sub-queue 0 to 3 with its place there, or 4 for the deque, its effective class and age. -/
structure Bid where
  k : Nat
  pos : Nat
  entry : QEntry
  cls : Nat
  age : Nat
deriving DecidableEq, Repr

/-- R326: the image needs no frame, or one is free. -/
def State.canFrame (s : State) (core : Nat) (i : Image) : Bool := !isWorkerCore core || i.idem || decide (s.freeFrame i.job ≠ 0)

def State.cand (s : State) (core k : Nat) (x : Option (QEntry × Nat)) : Option Bid :=
  x.bind (fun x => if s.canFrame core x.1.img then some ⟨k, x.2, x.1, s.effClass core x.1, s.age x.1⟩ else none)

/-- The entry of a list that `p` picks first, with its place. -/
def firstOf {α : Type} (p : α → Bool) (l : List α) : Option (α × Nat) := l.zipIdx.find? (fun x => p x.1)

/-- R60: lowest class, then a mailbox head before the deque, then the greater age; the list has the order of the last step. -/
def bestCand (l : List Bid) : Option Bid :=
  l.foldl (fun b x => match b with
    | none => some x
    | some y => if x.cls < y.cls ∨ (x.cls = y.cls ∧ x.k < 4 ∧ y.age < x.age) then some x else some y) none

/-- R60: what a normal slot may take: heads that are not urgent, and the deque bottom. A service core's one slot takes any
head. -/
def State.normalCands (s : State) (core : Nat) : List Bid :=
  let c := s.coreAt core
  (List.range 4).filterMap (fun k => s.cand core k ((firstOf (fun _ => true) (subQueue c k)).filter (fun x =>
    !x.1.img.urg || !isWorkerCore core))) ++ (s.cand core 4 (c.deque.getLast?.map (fun e => (e, c.deque.length - 1)))).toList

/-- R68: what the slot freed by parking may take: the launch's next images, at whatever place of a sub-queue or of the deque
they stand (log 78). -/
def State.launchCands (s : State) (core : Nat) (l : W32) : List Bid :=
  let c := s.coreAt core
  (List.range 4).filterMap (fun k => s.cand core k (firstOf (fun e => e.img.launch == l && !e.img.urg) (subQueue c k)))
    ++ (s.cand core 4 ((firstOf (fun e => e.img.launch == l) c.deque.reverse).map (fun x => (x.1, c.deque.length - 1 - x.2)))).toList

/-- R63: what TU may take. -/
def State.urgentCands (s : State) (core : Nat) : List Bid :=
  (List.range 4).filterMap (fun k => s.cand core k ((firstOf (fun _ => true) (subQueue (s.coreAt core) k)).filter (fun x => x.1.img.urg)))

/-- R35, R36: one image of an entry, and what remains of it. -/
def QEntry.take (e : QEntry) : Image × Option QEntry :=
  match e.fan with
  | none => (e.img, none)
  | some (n, i) => ({ e.img with w5 := e.img.launch ++ BitVec.ofNat 32 i }, if i + 1 < n then some { e with fan := some (n, i + 1) } else none)

def replaceAt {α : Type} (l : List α) (pos : Nat) (x : Option α) : List α := l.take pos ++ x.toList ++ l.drop (pos + 1)

/-- R64: an entry leaves place `pos` of sub-queue `k`: an urgent head held there is bound, one behind it moves up. -/
def dropHeld (k pos : Nat) (h : Tbl Nat) : Tbl Nat :=
  h.filterMap (fun e => if e.1 ≠ k then some e else if e.2 = pos then none else some (e.1, if pos < e.2 then e.2 - 1 else e.2))

/-- The candidate is taken from its queue. A fan entry leaves with its last index (R36), and holds UMASK off until then
(R64, log 77). -/
def State.takeCand (s : State) (core : Nat) (x : Bid) : Image × State :=
  let r := x.entry.take
  (r.1, s.modCore core (fun c =>
    if x.k = 4 then { c with deque := replaceAt c.deque x.pos r.2 }
    else { setSub c x.k (replaceAt (subQueue c x.k) x.pos r.2) with
      heldHeads := if r.2.isNone then dropHeld x.k x.pos c.heldHeads else c.heldHeads }))

/-! ### Binding (R37, R61, R326) -/

/-- R29: the scope a start acquires at. -/
def Image.scope (i : Image) : Nat := bitsAt i.w6.toNat 29 3

/-- An image is bound to a slot: on a service core committed and without a frame (R392), else as R37, R38 and R326 say. -/
def State.bind (s : State) (sid : Nat) (i : Image) (scope : Nat) : State :=
  let t := Slot.start i s.nextTid
  let worker := isWorkerCore (sidCore sid)
  let t := { t with
    cmtd := !worker || !i.idem
    frame := if worker && !i.idem then s.freeFrame i.job else 0
    starting := some scope }
  ({ s with nextTid := s.nextTid + 1 }.setSlot sid t).modCore (sidCore sid) (fun c => { c with parkTo := tdel c.parkTo (sidNum sid) })

/-- The candidate is bound; its start acquires at its scope, a stolen image's at that of the hand-over (R50). -/
def State.bindCand (s : State) (core sid : Nat) (x : Bid) : State :=
  let r := s.takeCand core x
  r.2.bind sid r.1 (r.1.handOver.getD r.1.scope)

/-! ### Tasks that resume (R55, R60, R326) -/

/-- Another member of the gang stands at its RMMA, bound or saved. -/
def State.standsRing (s : State) (tid : Nat) : Bool :=
  match s.slotOfTid tid with
  | some sid => (match (s.slotAt sid).pend with
    | some (.ring _ _ _ _) => true
    | _ => false)
  | none => (tfind s.saved tid).any (fun v => v.slot.wait.any (·.kind == 13) && v.slot.pend.isNone)

/-- R55: the condition of a wait holds. -/
def State.waitOver (s : State) (core : Nat) (t : Slot) : Bool :=
  match t.wait with
  | none => t.pend.isNone
  | some w => match w.kind with
    | 1 => t.pend.isNone
    | 2 => t.compl.any (fun e => e.1.setWidth 64 == w.operand)
    | 3 =>
      let n := (RegFile.read (s.coreAt core).q (w.operand.setWidth 2)).length
      if w.expect = 0 then decide (n ≠ 0) else decide (n < 8)
    | 4 => t.pend.isNone
    | 12 => (RegFile.read (s.coreAt core).claim (w.operand.setWidth 3)).isNone
    | 13 =>
      let g := s.gangAt (coreTroupe core)
      if t.pend.isSome then false
      else if g.formed && g.seats.any (fun e => e.2 == t.tid) then g.seats.all (fun e => e.2 == t.tid || s.standsRing e.2)
      else !g.seats.any (fun e => e.1 == core % 8)
    | _ => true

/-- A saved task can resume: it is ready, its condition holds, or an answer's trap waits for it. -/
def State.canResume (s : State) (v : Saved) : Bool :=
  let core := s.liveCore v.core
  v.st != 4 && (v.ready || (v.trap.isSome && v.st != 1) || (v.st == 2 && s.waitOver core v.slot) || v.st == 5)

/-- The saved tasks of a core that can resume, urgent ones or others, the longest parked first (R60). -/
def State.resumable (s : State) (core : Nat) (urgent : Bool) : Option (Nat × Saved) :=
  (s.saved.filter (fun e => s.liveCore e.2.core == core && s.jobIn e.2.slot.job && e.2.slot.image.urg == urgent && s.canResume e.2)).foldl
    (fun b x => match b with
      | none => some x
      | some y => if x.2.since < y.2.since then some x else some y) none

/-- The lowest-numbered free normal slot (R61). -/
def State.freeSlot (s : State) (core : Nat) : Option Nat :=
  (List.range (if isWorkerCore core then 4 else 1)).findSome? (fun k => if (s.slotAt (core * 8 + k)).task.isNone then some (core * 8 + k) else none)

/-- R60, R68: what a free slot takes: the slot a parking freed the launch's next image, then a task that resumes, then the
winner. -/
def State.selectFor (s : State) (core sid : Nat) : State :=
  let s := s.promote core
  match (tfind (s.coreAt core).parkTo (sidNum sid)).bind (fun l => bestCand (s.launchCands core l)) with
  | some x => s.bindCand core sid x
  | none => match s.resumable core false with
    | some (_, v) => s.restoreTask sid v
    | none => match bestCand (s.normalCands core) with
      | some x => s.bindCand core sid x
      | none => s

/-- IMAGE_BIND (R60, R61, R68). -/
def execImageBind (core : Nat) (s : State) : Host.Outcome State Fault Refusal :=
  .next (if (s.coreAt core).fenced then s
    else match s.freeSlot core with
      | none => s
      | some sid => s.selectFor core sid)

/-- R64: the window holds TU off, in the cycle of its close too; one that a UMASK of this very cycle opened does not, since the
binding comes first. -/
def State.windowHolds (s : State) (core : Nat) : Bool :=
  let c := s.coreAt core
  c.closedAt == some s.cyc || c.opener.isSome && !c.opened.any (fun o => some o.1 == c.opener && o.2 == s.cyc)

/-- R64: a UMASK of this cycle, after the binding of the last head that held it off, opens the window. -/
def State.reopen (s : State) (core : Nat) : State :=
  match (s.coreAt core).opened with
  | none => s
  | some (sid, t) =>
    if t = s.cyc ∧ (s.coreAt core).opener = none ∧ (s.coreAt core).heldHeads = [] ∧ (s.slotAt sid).task ≠ none then
      s.modCore core (fun c => { c with opener := some sid, retired := 0 })
    else s

/-- URGENT_BIND (R63, R64): TU binds no image while the urgent window is open; a saved urgent task resumes there even then
(log 77). -/
def execUrgentBind (core : Nat) (s : State) : Host.Outcome State Fault Refusal :=
  .next (
    let sid := core * 8 + 4
    if (s.coreAt core).fenced || !isWorkerCore core || (s.slotAt sid).task.isSome then s
    else match s.resumable core true with
      | some (_, v) => s.restoreTask sid v
      | none =>
        if s.windowHolds core then s
        else
          let s1 := s.promote core
          match bestCand (s1.urgentCands core) with
          | some x => (s1.bindCand core sid x).reopen core
          | none => s)

/-! ### Handler start (R37, R49, R395) -/

/-- The image is a message of the device (R395): no slot's creation has release sequence 0. -/
def Image.fromDevice (i : Image) : Bool := i.w6.toNat % 2 ^ 29 == 0

/-- R394: the message registers, by the kind of the service core. -/
def State.messageRegs (s : State) (core : Nat) (i : Image) : SysRegs :=
  if !i.fromDevice then SysRegs.zero
  else if isTsc core then
    let va := recWord (s.record i.job) 6
    let v := if i.fn = 127 then 64 else i.fn.toNat
    { SysRegs.zero with
      src := i.w2.extractLsb' 32 32
      val := i.w1
      base1 := BitVec.ofNat 64 (s.agentRead i.job (va + BitVec.ofNat 64 (16 * v)) 8)
      base2 := if i.fn = 127 then 0 else BitVec.ofNat 64 (s.agentRead i.job (va + BitVec.ofNat 64 (16 * v + 8)) 8)
      vf := i.fn }
  else
    { SysRegs.zero with
      cause := i.w1.setWidth 16, src := i.w1.extractLsb' 32 32, pc := i.w2, val := i.w3, frm := i.w4, vf := i.fn }

/-- HANDLER_START (R37, R49, R50): the acquire of the start; a service core's message registers. -/
def execHandlerStart (sid : Nat) (s : State) : Host.Outcome State Fault Refusal :=
  .next (match (s.slotAt sid).starting with
    | none => s
    | some scope =>
      let core := sidCore sid
      let s1 := s.acquire core scope
      s1.modSlot sid (fun t => { t with
        starting := none
        sys := if isWorkerCore core then t.sys else s.messageRegs core t.image }))

/-! ### The choice of a thread (R62, R132) -/

/-- The slot may issue: ready, and not known to wait in vain. -/
def State.mayIssue (s : State) (sid : Nat) : Bool :=
  let t := s.slotAt sid
  t.ready && (t.wait.isNone || decide (t.tried + 1 + s.idle < s.tick))

/-- R62: the normal slots in round-robin order after the one that issued last. -/
def rotation (last : Nat) : List Nat := (List.range 4).map (fun i => (last + 1 + i) % 4)

/-- R62, R65: the slot of a core that issues: TU if it is ready, else the ready normal slot of the lowest issue class, the first
in the rotation. A waiting thread whose condition may hold by now counts as ready, and is tried; a try that fails takes no issue
cycle and leaves the rotation where it was (log 1). -/
def State.choice (s : State) (core : Nat) : Option Nat :=
  if s.mayIssue (core * 8 + 4) then some (core * 8 + 4)
  else match (rotation (s.coreAt core).lastIssued).filter (fun k => s.mayIssue (core * 8 + k)) with
    | [] => none
    | k :: r => some (core * 8 + r.foldl (fun b k => if s.issueClass (core * 8 + k) < s.issueClass (core * 8 + b) then k else b) k)

/-- Slot `sid` issues. -/
def State.issueFrom (s : State) (sid : Nat) : State :=
  { s with cur := sid }.modCore (sidCore sid) (fun c => c.noteIssue (sidNum sid))

/-- ISSUE_SELECT (R62, R65): the choice of a core is the slot that an issue turn next issues, unless a change in between makes it
another one. -/
def execIssueSelect (core : Nat) (s : State) : Host.Outcome State Fault Refusal :=
  .next { s with idle := s.idle + 1, cur := (s.choice core).getD s.cur }

/-- URGENT_WINDOW_CLOSE (R64): the window closes when its thread has retired 64 instructions, waits, or is gone. -/
def execUrgentWindowClose (core : Nat) (s : State) : Host.Outcome State Fault Refusal :=
  .next (match (s.coreAt core).opener with
    | none => s
    | some sid =>
      let t := s.slotAt sid
      if 64 ≤ (s.coreAt core).retired ∨ t.task = none ∨ t.wait.any (fun w => closesWindow w.kind) = true then s.closeIfOpener sid
      else s)

/-- YIELD_TIMEOUT (R132): 64 cc after YIELD retired. -/
def execYieldTimeout (sid : Nat) (s : State) : Host.Outcome State Fault Refusal :=
  .next (match (s.slotAt sid).yielding with
    | some (_, t) => if t + 64 ≤ s.cyc then s.modSlot sid (fun t => { t with yielding := none }) else s
    | none => s)

/-! ### Stealing (R66, R67) -/

/-- R66: the victims in order. A number from 2^16 up is the steal agent of a cluster. -/
def victims (core : Nat) : List Nat :=
  let c := core % 32
  let cl := core / 64
  let base := cl * 64
  let troupe := [1, 7, 2, 6, 3, 5, 4].map (fun o => base + c / 8 * 8 + (c % 8 + o) % 8)
  let cluster := ((List.range 32).map (fun i => (c + 8 + i) % 32)).filter (fun k => k / 8 != c / 8) |>.map (base + ·)
  let die := (List.range 23).map (fun i => 2 ^ 16 + cl / 32 * 32 + (cl % 32 + 1 + i) % 24)
  let package := (List.range 3).flatMap (fun i => (List.range 24).map (fun k => 2 ^ 16 + (cl / 32 + 1 + i) % 4 * 32 + k))
  troupe ++ cluster ++ die ++ package

/-- R66: the core may steal: a free normal slot, no candidate, no task that resumes, its job on the package. -/
def State.maySteal (s : State) (core : Nat) : Bool :=
  isWorkerCore core && !(s.coreAt core).fenced && s.sched.slice.isSome && (s.freeSlot core).isSome
    && (s.normalCands core).isEmpty && (s.resumable core false).isNone

/-- STEAL_PROBE (R66): the next victim of the pass is asked; a pass that a candidate or a filled slot interrupted goes on at
its place in the list (log 79). -/
def execStealProbe (core : Nat) (s : State) : Host.Outcome State Fault Refusal :=
  .next (
    let v := (s.coreAt core).steal
    if v.victim.isNone && v.backoff.isNone && s.maySteal core then
      match nth (victims core) v.pos with
      | some x => s.modCore core (fun c => { c with steal := { v with victim := some x } })
      | none => s
    else s)

/-- The core that grants, of a victim or a cluster's steal agent: its deque is not empty. -/
def State.granter (s : State) (x : Nat) : Option Nat :=
  let l := if x < 2 ^ 16 then [x] else (List.range 32).map (fun i => (x - 2 ^ 16) * 64 + i)
  l.find? (fun c => !(s.coreAt c).deque.isEmpty)

/-- R67: a stolen image binds to the free slot, or enters the head of its sub-queue on the thief where the slot was filled or no
frame is free (log 79), keeping its age. The image keeps the scope of its hand-overs (R50), wherever it stands until it starts.
One whose launch's cancellation has reached the thief is removed (R48). -/
def State.stolen (s : State) (core : Nat) (e : QEntry) (i : Image) (scope : Nat) : State :=
  let i := { i with handOver := some (max scope (i.handOver.getD 0)) }
  let put := s.modCore core (fun c => pushHead c { e with img := i, fan := none })
  if s.isCancelled core i.launch then s.countDown i.launch 1
  else match s.freeSlot core with
    | some sid => if s.canFrame core i then s.bind sid i (i.handOver.getD scope) else put
    | none => put

/-- R66: the victim refuses; the pass goes on, or ends in the back-off. -/
def State.stealRefused (s : State) (core : Nat) : State :=
  let n := (s.coreAt core).steal.pos + 1
  s.modCore core (fun c => { c with steal := if (victims core).length ≤ n then ⟨0, none, some s.cyc, none⟩ else ⟨n, none, none, none⟩ })

/-- R50, R67: core `w` hands its deque's top over to the thief, after its release; one that must wait for the host leaves the
request open, and so does a core of a cluster whose owner was first: the steal agent asks on. -/
def State.handOver (s : State) (core w : Nat) : State :=
  let s := s.modCore core (fun c => { c with steal := { c.steal with seen := none } })
  let scope := scopeBetween w core
  match (s.coreAt w).deque with
  | [] => if (s.coreAt core).steal.victim.any (fun x => decide (x < 2 ^ 16)) then s.stealRefused core else s
  | e :: rest =>
    if s.hostBlocks (coreCluster w) scope then s
    else
      let r := e.take
      let s1 := (s.release (coreCluster w) scope).modCore w (fun c => { c with deque := r.2.toList ++ rest })
      (s1.modCore core (fun c => { c with steal := ⟨0, none, none, none⟩ })).stolen core e r.1 scope

/-- STEAL_GRANT (R50, R67): the victim's answer. A thief's take that reaches a deque with one entry is decided when the cycle is
over, since the owner's take of that cycle comes first. A thief fenced meanwhile takes nothing (R401). -/
def execStealGrant (core : Nat) (s : State) : Host.Outcome State Fault Refusal :=
  .next (
    match (s.coreAt core).steal.victim with
    | none => s
    | some x =>
      if (s.coreAt core).fenced then s.modCore core (fun c => { c with steal := ⟨0, none, none, none⟩ })
      else match s.granter x with
        | none => s.stealRefused core
        | some w =>
          if (s.coreAt w).deque.length = 1 then s.modCore core (fun c => { c with steal := { c.steal with seen := some w } })
          else s.handOver core w)

/-- R67: at the end of a cycle the takes that reached a deque's only entry in it are served, unless its owner took it. -/
def State.settleSteals (s : State) : State :=
  s.cores.foldl (fun s c => match (s.coreAt c.1).steal.seen with
    | some w => s.handOver c.1 w
    | none => s) s

/-- STEAL_BACKOFF_EXPIRY (R66): 1,024 cc after a pass that failed. -/
def execStealBackoffExpiry (core : Nat) (s : State) : Host.Outcome State Fault Refusal :=
  .next (match (s.coreAt core).steal.backoff with
    | some t => if t + 1024 ≤ s.cyc then s.modCore core (fun c => { c with steal := ⟨0, none, none, none⟩ }) else s
    | none => s)

/-! ### Parking (R55, R68) -/

/-- The waits in which a task may park. -/
def parkWait (w : WaitRec) : Bool := [1, 2, 3, 4, 12, 13].contains w.kind

/-- R55: the launch has normal images not yet admitted. -/
def State.unadmitted (s : State) (l : W32) : Bool :=
  let hit := fun (i : Image) => i.launch == l && !i.urg
  s.cores.any (fun c => c.2.mail.toList.any (fun q => q.any (fun e => hit e.img)) || c.2.deque.any (fun e => hit e.img)) ||
    s.flight.any (fun m => hit m.img) || s.held.any (fun m => hit m.img)

/-- The normal slots of a core. -/
def normalSlots (core : Nat) : List Nat := (List.range 4).map (core * 8 + ·)

/-- R55: every condition holds for a launch of the core. -/
def State.parkable (s : State) (core : Nat) (n : W32) : Bool :=
  let l := normalSlots core
  l.all (fun k => (s.slotAt k).task.isSome) && l.any (fun k => (s.slotAt k).launch == n) && s.unadmitted n &&
    l.all (fun k => (s.slotAt k).launch != n || ((s.slotAt k).wait.any parkWait && !s.waitOver core (s.slotAt k)))

/-- R68: a wait of the launch on the core began after cycle `t`, so the count began anew. -/
def State.waitSince (s : State) (core : Nat) (n : W32) (t : Nat) : Bool :=
  (normalSlots core).any (fun k => (s.slotAt k).launch == n && (s.slotAt k).wait.any (fun w => decide (t < w.since)))

/-- R68: the launches of a core for which the conditions of R55 hold at the end of this cycle, each with the cycle from which
they have held. -/
def State.parksOf (s : State) (core : Nat) : List (W32 × Nat) :=
  ((((normalSlots core).map (fun k => (s.slotAt k).launch)).eraseDups).filter (s.parkable core)).map (fun n =>
    (n, match (s.coreAt core).parks.find? (fun e => e.1 == n) with
      | some (_, t) => if s.waitSince core n t then s.cyc else t
      | none => s.cyc))

/-- R68: the counts of the cores brought up to date at the end of a cycle. -/
def State.notePark (s : State) : State :=
  (((s.slots.map (fun e => sidCore e.1)).eraseDups).filter isWorkerCore).foldl (fun s c =>
    if s.parksOf c = (s.coreAt c).parks then s else s.modCore c (fun x => { x with parks := s.parksOf c })) s

/-- R55, R68: the launch whose count has reached 4,096 cc, the longest counted first. -/
def State.parkLaunch (s : State) (core : Nat) : Option W32 :=
  (((s.coreAt core).parks.filter (fun e => s.parkable core e.1 && !s.waitSince core e.1 e.2 && decide (e.2 + 4096 ≤ s.cyc))).foldl
    (fun b x => match b with
      | none => some x
      | some y => if x.2 < y.2 then some x else some y) none).map (·.1)

/-- R68: the slot of the launch whose wait began first. -/
def State.longestWait (s : State) (core : Nat) (n : W32) : Option (Nat × Nat) :=
  ((normalSlots core).filterMap (fun k => if (s.slotAt k).launch = n then (s.slotAt k).wait.map (fun w => (k, w.since)) else none)).foldl
    (fun b x => match b with
      | none => some x
      | some y => if x.2 < y.2 then some x else some y) none

/-- R41, R326: the task parks; an uncommitted one for which no frame is free is discarded instead. -/
def State.park (s : State) (sid : Nat) : State :=
  let t := s.slotAt sid
  let frame := if t.frame ≠ 0 then t.frame else s.freeFrame t.job
  if frame = 0 ∧ t.cmtd = false then s.discard sid false
  else (s.modSlot sid (fun t => { t with frame := frame })).saveTask sid 2 t.forced false

/-- PARK_TIMEOUT (R55, R68): 4,096 cc after the conditions began to hold the longest waiting task of the launch parks, and its
slot is kept for the launch's next admission. -/
def execParkTimeout (core : Nat) (s : State) : Host.Outcome State Fault Refusal :=
  .next (match s.parkLaunch core with
    | none => s
    | some n => match s.longestWait core n with
      | none => s
      | some (sid, _) => (s.park sid).modCore core (fun c => { c with parkTo := tset c.parkTo (sidNum sid) n }))

end Sys2Proof.Machine
end

