-- ==== Sys2Proof/Machine/StreamOps.lean ====
section
/-! DEFINITION. The stream engines (R204 to R212): configuration, binding, and the fetch of elements ahead of use. -/

namespace Sys2Proof.Machine

def State.z (s : State) (k : BitVec 3) : Stream := RegFile.read s.slot.z k
def State.setZ (s : State) (k : BitVec 3) (v : Stream) : State := s.mod (fun t => t.putZ k v)

/-- R205, R206: a reserved bit of a configuration block is set, or its hint is 3. -/
def blockBad (x : Nat) : Bool :=
  bitsAt x (64 * 2 + 32) 32 != 0 || bitsAt x (64 * 6 + 2) 62 != 0 || bitsAt x (64 * 7) 64 != 0 || bitsAt x (64 * 6) 2 == 3

/-- R206: BASE or a stride is not a multiple of 64. -/
def blockAlign (x : Nat) : Bool := [0, 3, 4, 5].any (fun i => bitsAt x (64 * i) 6 != 0)

/-- R205: the configuration a block gives. -/
def blockCfg (x : Nat) : StreamCfg :=
  ⟨word64 x 0, bitsAt x 64 32, bitsAt x 96 32, bitsAt x 128 32, word64 x 3, word64 x 4, word64 x 5, BitVec.ofNat 2 (bitsAt x (64 * 6) 2)⟩

/-- SCFG (R206). A misaligned BASE or stride traps ALIGN with TRAPVAL X[a], the block's address: R206 does not say which address,
and this is the model's choice (log 92). -/
def execScfg (d : BitVec 3) (a : BitVec 5) (g : BitVec 4) (s : State) : Host.Outcome State Fault Refusal :=
  s.attempt g 4 (do
    s.workerOnly
    s.illegalIf (s.z d).reg.isSome
    let va ← checkAddr (s.x a).toNat 64 64
    let p ← s.place .read va 64
    s.withBlock va p 64 4 (fun x t => do
      t.illegalIf (blockBad x)
      trapIf (blockAlign x) .align va
      .ok ((t.setZ d { Stream.none with cfg := some (blockCfg x) }).retire 4)))

/-- SBIND (R207). -/
def execSbind (d : BitVec 3) (b : BitVec 5) (g : BitVec 4) (s : State) : Host.Outcome State Fault Refusal :=
  s.attempt g 4 (do
    s.workerOnly
    let z := s.z d
    s.illegalIf (z.cfg.isNone || z.reg.isSome || s.slot.isBound b)
    waitIf (decide (8 ≤ s.enginesHeld s.core)) 6 0
    .ok ((s.setZ d { z with reg := some b, engine := true, buf := [] }).retire 4))

/-- SSTOP (R208): of an engine that is not bound it has no effect. -/
def execSstop (d : BitVec 3) (g : BitVec 4) (s : State) : Host.Outcome State Fault Refusal :=
  s.attempt g 4 (do
    s.workerOnly
    let z := s.z d
    .ok ((if z.reg.isSome then (s.dropStreamReqs s.cur (some d)).setZ d { z with reg := none, engine := false, buf := [] }
      else s).retire 4))

/-- The index `n` elements on (R205). -/
def StreamCfg.ahead (c : StreamCfg) : Nat → Nat × Nat × Nat → Nat × Nat × Nat
  | 0, i => i
  | n + 1, i => c.ahead n (c.next i)

/-- The index of the next element to fetch, unless the buffer is full or every element is fetched (R204, R210). -/
def Stream.nextFetch (z : Stream) : Option (StreamCfg × Nat × Nat × Nat) :=
  match z.cfg with
  | .none => .none
  | some c =>
    let i := c.ahead z.buf.length (z.i0, z.i1, z.i2)
    if !z.engine || decide (8 ≤ z.buf.length) || z.ended || decide (c.cnt2 ≤ i.2.2) then .none else some (c, i)

/-- An element arrives at the end of a stream's buffer. -/
def Slot.putElem (t : Slot) (k : BitVec 3) (e : StreamElem) : Slot :=
  let z := RegFile.read t.z k
  { t with z := RegFile.write t.z k { z with buf := z.buf ++ [e] } }

/-- A remote fetch of a stream is under way; it brings the element at the end of the buffer. -/
def State.streamAsked (s : State) (sid : Nat) (k : BitVec 3) : Bool :=
  s.reqs.any (fun r => r.sid == sid && r.tid == (s.slotAt sid).tid && (match r.cont with
    | .stream j => j == k
    | _ => false))

/-- STREAM_FETCH_ARRIVAL (R204, R210, R211): the next element of a bound engine is read, .rlx at CO with the block's hint, and
joins the buffer, or the fault met is held with it, to be met and reported when the element is read. An element on another package
or the host is asked for first. A translation the core's TLB lacks is walked first (R301). -/
def execStreamFetchArrival (sid : Nat) (k : BitVec 3) (s : State) : Host.Outcome State Fault Refusal :=
  let t := s.slotAt sid
  let z := RegFile.read t.z k
  let hold := fun (c : Cause) (v : W64) => Host.Outcome.next (s.modSlot sid (fun t => t.putElem k ⟨0, some (c, v)⟩))
  match z.nextFetch with
  | none => .next s
  | some (c, i) =>
    if s.streamAsked sid k then .next s
    else match checkAddr (c.addr i.1 i.2.1 i.2.2) 64 64 with
      | .error (.trap c v) => hold c v
      | .error _ => .next s
      | .ok va =>
        let core := sidCore sid
        let u := streamUnit t.tid k
        match s.deviceTr core u t.job .read va 64 with
        | .fault c =>
          let s := s.meetLatched core u va
          .next (s.modSlot sid (fun t => t.putElem k ⟨0, some (c, va)⟩))
        | .miss => .next (s.unitWalk sid t.job t.image.fn .read va u)
        | .ok p =>
          let s := s.touchTlb core t.job va
          match p.away with
          | some (host, pkg) =>
            let r := { s.newReq 2 host pkg va (BitVec.allOnes 64) [] false (.stream k) with
              sid := sid, tid := t.tid, job := t.job, fn := t.image.fn, limit := t.rnrlim.toNat, since := s.gtsOf (coreDie core) }
            .next (s.addReqs [r])
          | none =>
            if s.hostHolds p 64 then .next s
            else if s.poison.contains (p.flat / 64) then
              .next (s.modSlot sid (fun t => t.putElem k ⟨0, some (.mcheck, va)⟩))
            else
              let r := s.readPlace (coreCluster core) (s.coreAt core).stale c.hint.toNat p 64
              .next (r.2.modSlot sid (fun t => t.putElem k ⟨BitVec.ofNat 512 r.1, none⟩))

end Sys2Proof.Machine
end

