-- ==== Sys2Proof/Machine/WhirlAns.lean ====
section
/-! DEFINITION. The answers of whirligig requests at the issuing package (R240 to R242, R273, R274): re-tags, read replies and
update acknowledgements. -/

namespace Sys2Proof.Machine

/-- A request fails at its agent (R168, R242): the row of a lookup is missing, a WREAD traps, an update leaves its mark. -/
def State.whirlFails (s : State) (w : WReq) (c : Cause) (row : Nat) : State :=
  match w.fetch with
  | some (cl, id) => s.failRow cl id row
  | none => s.failWhirl w c

/-- WHIRLIGIG_RETAG (R242): the agent sends a LATE or FULL request again with the next tag, three times at most. -/
def execWhirligigRetag (idx : Nat) (s : State) : Host.Outcome State Fault Refusal :=
  .next (match nth s.wreqs idx with
    | none => s
    | some w =>
      if w.st = 2 then
        let rest := { s with wreqs := delAt s.wreqs idx }
        let rest := match w.fetch with
          | some (cl, id) => rest.modFetch cl id (fun f => { f with tag := w.tag + 1 })
          | none => rest
        if w.retags < 3 then rest.sendWhirl { w with tag := w.tag + 1, retags := w.retags + 1, st := 0, status := 0 }
        else rest.whirlFails w .remoteTimeout 7
      else s)

/-- READ_REPLY (R240, R273): the final answer of a read reaches the issuing core or the lookup unit. -/
def execReadReply (idx : Nat) (s : State) : Host.Outcome State Fault Refusal :=
  .next (match nth s.wreqs idx with
    | none => s
    | some w =>
      if w.st = 3 ∧ w.num = 64 ∧ s.foreign w = false then
        let rest := { s with wreqs := delAt s.wreqs idx }
        match w.status with
        | 0 => match w.fetch with
          | some (cl, id) => rest.fillBlock cl id w.va w.line w.lap
          | none => rest.readDone w
        | 3 => rest.whirlFails w .mcheck 6
        | _ => rest.whirlFails w .remotePerm 1
      else s)

/-- UPDATE_ACKNOWLEDGEMENT (R240, R242, R247, R274). -/
def execUpdateAcknowledgement (idx : Nat) (s : State) : Host.Outcome State Fault Refusal :=
  .next (match nth s.wreqs idx with
    | none => s
    | some w =>
      if w.st = 3 ∧ w.num ≠ 64 ∧ s.foreign w = false then
        let rest := { s with wreqs := delAt s.wreqs idx }
        match w.status with
        | 0 => rest
        | 3 => rest.whirlFails w .mcheck 6
        | _ => rest.whirlFails w .remotePerm 1
      else s)

end Sys2Proof.Machine
end

