-- ==== Sys2Proof/Machine/Remote.lean ====
section
/-! DEFINITION. The remote agents (R114, R118, R119, R133, R261, R313 to R316, R343, R344): what an answer does at the source,
resends, what an arriving request does at its slice; completions and the re-reads of WAITM. -/

namespace Sys2Proof.Machine

/-! ### At the source: whom an answer concerns -/

/-- What a task that issues nothing more waits for (R114). -/
structure Await where
  len : Nat
  g : BitVec 4
  rids : List Nat
  fail : Option (Nat × Cause × W64)
  done : BitVec 16
  skip : BitVec 16
deriving DecidableEq, Repr

/-- The wait of the task that issued a request, if it still waits for this request. -/
def State.awaits (s : State) (r : Req) : Option Await :=
  (s.taskSlot r.tid).bind (fun t => match t.pend with
    | some (.remote len g rids fail done skip) => if rids.contains r.rid then some ⟨len, g, rids, fail, done, skip⟩ else none
    | _ => none)

/-- A request of an instruction, as against one of a unit. -/
def Cont.ofThread : Cont → Bool
  | .load _ _ _ => true
  | .waitm _ _ => true
  | .store => true
  | .atomic _ _ => true
  | .lanes _ _ _ _ => true
  | .block => true
  | .msg _ => true
  | _ => false

/-- The task of a thread's request is gone, or waits for it no more: the answer is dropped (R114). -/
def State.orphan (s : State) (r : Req) : Bool := r.cont.ofThread && (s.awaits r).isNone

/-- R45: the image of a message that was never accepted does not exist; a ring entry was never counted. -/
def State.uncount (s : State) (r : Req) : State :=
  if r.img.isSome && (r.mask != 0 || targetKind r.target != 1) then s.countDown r.launch 1 else s

def State.dropReq (s : State) (rid : Nat) : State := { s with reqs := s.reqs.filter (fun q => q.rid != rid) }
def State.putReq (s : State) (r : Req) : State := { s with reqs := s.reqs.map (fun q => if q.rid = r.rid then r else q) }

/-- The number of bytes a mask names, and their value in a line, from the lowest of them. -/
def maskLen (m : W64) : Nat := popBelow m.toNat 64
def maskVal (r : Req) (line : Nat) : Nat := line / 2 ^ (8 * (r.va.toNat % 64)) % 2 ^ (8 * maskLen r.mask)

/-! ### The end of an instruction that waited -/

/-- A line's answer, or its failure, is in: the instruction ends when the last one is (R258, R261). -/
def State.lanesEnd (s : State) (r : Req) (a : Await) (fail : Option (Nat × Cause × W64)) (done : BitVec 16) : State :=
  let rids := a.rids.filter (· != r.rid)
  if rids ≠ [] then s.modTask r.tid (fun t => { t with pend := some (.remote a.len a.g rids fail done a.skip) })
  else match fail with
    | none => s.retireTask r.tid a.len id
    | some (_, c, v) => match s.slotOfTid r.tid with
      | some sid => s.lanesFail sid a.g (done &&& ~~~a.skip) c v
      | none =>
        let s1 := s.modTask r.tid (fun t => { t.markDone a.g (done &&& ~~~a.skip) with pend := none })
        if c = .page then s1 else s1.trapTask r.tid c v

/-- R261: the loaded bytes of one line go to their lanes. -/
def putLanes (d : BitVec 5) (w : Nat) (which : List (Nat × Nat)) (mask : W64) (line : Nat) (t : Slot) : Slot :=
  let old := RegFile.read t.v d
  t.putV d (if w = 512 then mergeBytes old (BitVec.ofNat 512 line) mask
    else which.foldl (fun v x => mergeBytes v (BitVec.ofNat 512 (line / 2 ^ (8 * x.2) % 2 ^ w * 2 ^ (w * x.1)))
      (BitVec.ofNat 64 (ones (w / 8) * 2 ^ (w / 8 * x.1)))) old)

def laneBits (which : List (Nat × Nat)) : BitVec 16 := which.foldl (fun b x => setBit b x.1) 0

/-- The lowest lane of a line, with its address. -/
def lowLane (r : Req) (which : List (Nat × Nat)) : Nat × W64 :=
  which.foldl (fun b x => if x.1 < b.1 then (x.1, r.va + BitVec.ofNat 64 x.2) else b) (16, r.va)

/-! ### Success (R344) -/

/-- R119: ACCEPT commits the task in the action of the acceptance, with a frame. -/
def State.commitTask (s : State) (tid : Nat) : State :=
  match s.taskSlot tid with
  | none => s
  | some t =>
    let f := s.freeFrame t.job
    s.modTask tid (fun t => if t.cmtd then t else { t with cmtd := true, frame := if t.frame = 0 then f else t.frame })

/-- A change to a command of a job at an engine, running or saved with its job (R232). -/
def State.modCmd (s : State) (cl e id : Nat) (job : W32) (f : EngCmd → EngCmd) : State :=
  let g := fun (v : Engine) => { v with cmds := v.cmds.map (fun c => if c.id = id ∧ c.job = job then f c else c) }
  let s := s.modEngine cl e g
  { s with sched := { s.sched with saves := s.sched.saves.map (fun v => { v with
      engs := v.engs.map (fun x => if x.1 = cl then (x.1, RegFile.write x.2 (BitVec.ofNat 1 e) (g (RegFile.read x.2 (BitVec.ofNat 1 e)))) else x) }) } }

/-- What the answer of a line, or its failure, does to a tile of a command that still has it. -/
def EngCmd.modTile (n : Nat) (f : EngTile → EngTile) (c : EngCmd) : EngCmd :=
  if thas c.tiles n then { c with tiles := tset c.tiles n (f (c.tileAt n)) } else c

/-- A line another party answered reaches an engine's tile (R227). -/
def State.tileLine (s : State) (cl e id n : Nat) (r : Req) (line : Nat) : State :=
  s.modCmd cl e id r.job (EngCmd.modTile n (fun t => { t with need := t.need - 1, lines := tset t.lines (r.va.toNat / 64) line }))

/-- A fetched element of a stream (R210), while the task runs in its slot and the stream is bound. -/
def State.streamElem (s : State) (r : Req) (k : BitVec 3) (e : StreamElem) : State :=
  match s.slotOfTid r.tid with
  | some sid => s.modSlot sid (fun t => if (RegFile.read t.z k).engine then t.putElem k e else t)
  | none => s

/-- R114, R344: DATA with `line` and the old value of an atomic, or ACCEPT; the request is no longer listed. -/
def State.reqDone (s : State) (r : Req) (line : Nat) (old : W64) : State :=
  let s := if r.acq then (match s.slotOfTid r.tid with
    | some sid => (s.acquire (s.coreOf r.tid) 2).dropAhead sid
    | none => s.acquire (s.coreOf r.tid) 2) else s
  match r.cont with
  | .row cl f off => s.fillRow cl f off (maskVal r line) (maskLen r.mask)
  | .keys cl id => match s.lookOf cl id with
    | none => s
    | some l => s.putLook cl { l with need := l.need - 1, lines := tset l.lines (r.va.toNat / 64) line }
  | .tile cl e id n => s.tileLine cl e id n r line
  | .stream k => s.streamElem r k ⟨BitVec.ofNat 512 line, none⟩
  | .whirl _ => s
  | c => match s.awaits r with
    | none => s
    | some a => match c with
      | .load d size sgn => s.retireTask r.tid a.len (fun t => t.putX d (loadExt size sgn (maskVal r line)))
      | .atomic d size => s.retireTask r.tid a.len (fun t => t.putX d (if size = 4 then (old.setWidth 32).setWidth 64 else old))
      | .waitm d expect =>
        let x := BitVec.ofNat 64 (maskVal r line)
        if x ≠ expect then s.retireTask r.tid a.len (fun t => t.putX d x)
        else s.modTask r.tid (fun t => { t with pend := some (.waitm d (s.gtsOf (coreDie (s.coreOf r.tid)))) })
      | .block => s.modTask r.tid (fun t => { t with blk := some (r.va, maskVal r line), pend := none })
      | .lanes isLoad d w which =>
        let s1 := if isLoad then s.modTask r.tid (putLanes d w which r.mask line) else s
        s1.lanesEnd r a a.fail (a.done ||| laneBits which)
      | .msg ends =>
        if ends then match s.slotOfTid r.tid with
          | some sid => s.doneTask sid
          | none => (s.noteEnd r.job).endSaved r.tid
        else (s.commitTask r.tid).retireTask r.tid a.len id
      | _ => s.retireTask r.tid a.len id

/-! ### Failure (R114, R119, R165, R242, R258) -/

/-- The request fails with a cause; it is no longer listed. -/
def State.reqFails (s : State) (r : Req) (c : Cause) : State :=
  match r.cont with
  | .row cl f _ => s.failRow cl f (pkCause c)
  | .keys cl id => match s.lookOf cl id with
    | none => s
    | some l => s.putLook cl { l with need := l.need - 1, fault := some (l.fault.getD (pkCause c)) }
  | .tile cl e id n => s.modCmd cl e id r.job (EngCmd.modTile n (fun t => { t with need := t.need - 1, fault := some (t.fault.getD (pkCause c)) }))
  | .stream k => s.streamElem r k ⟨0, some (c, r.va)⟩
  | .whirl ord => match s.wreqs.find? (fun w => w.ord == ord) with
    | none => s
    | some w => { s with wreqs := s.wreqs.filter (fun x => x.ord != ord) }.whirlFails w c (pkCause c)
  | .msg _ =>
    let s1 := s.uncount r
    if (s1.awaits r).isNone then s1
    else if r.mask = 1 then s1.trapTask r.tid c r.va
    else s1.nextFree64.2.trapTask r.tid c s1.nextFree64.1
  | .lanes _ _ _ which => match s.awaits r with
    | none => s
    | some a =>
      let l := lowLane r which
      let f := match a.fail with
        | some x => if l.1 < x.1 then (l.1, c, l.2) else x
        | none => (l.1, c, l.2)
      s.lanesEnd r a (some f) a.done
  | _ =>
    if (s.awaits r).isNone then s
    else s.trapTask r.tid c (if c = .illegal then recWord r.ops 2 else r.va)

/-! ### Retries (R34, R313, R315, R344) -/

/-- R344: the stall of a message that is refused counts as kind 5; while the job is out the record holds the count reached (R332).
-/
def State.stallFull (s : State) (r : Req) : State :=
  s.modTask r.tid (fun t => if t.wait.any (·.kind == 5) then t else
    { t with wait := some ⟨5, r.target, 0, if s.jobIn r.job then s.cyc else 0⟩ })

/-- RNR, with the RNRLIM in force; it does not bound a message to a named core or ring. -/
def State.reqRnr (s : State) (r : Req) (now : Nat) : State :=
  let n := r.rnr + 1
  let bounded := !(r.num == 0 && r.mask == 0)
  if bounded ∧ r.limit ≤ n then (s.dropReq r.rid).reqFails r .remoteTimeout
  else
    let s := s.putReq { r with rnr := n, st := .backoff, since := now + 1000 * 2 ^ (n - 1) }
    if r.num = 0 then s.stallFull r else s

/-- R315: the placement entry a MOVED answer gives. -/
def movedEntry (asid : Nat) (va aux : W64) (used : Nat) : TlbEntry :=
  let size := aux.toNat % 4
  let base := va.toNat % 2 ^ 56 / 2 ^ sizeLog size * 2 ^ sizeLog size
  ⟨BitVec.ofNat 64 (2 * 2 ^ 62 + size * 2 ^ 60 + base + asid), BitVec.ofNat 64 (2 ^ 62 + bitsAt aux.toNat 16 10 * 2 ^ 16), used⟩

/-- R315: MOVED: the issuing core's placement is updated and the request sent again; a fifth one ends it. -/
def State.reqMoved (s : State) (r : Req) (aux : W64) (now : Nat) : State :=
  if 4 ≤ r.moved then (s.dropReq r.rid).reqFails r .remoteTimeout
  else
    let core := sidCore r.sid
    let size := aux.toNat % 4
    let s1 := if isWorkerCore core ∧ (size = 1 ∨ size = 2) then
        s.modCore core (fun c => { c with tlb := tlbInsert 16 64 c.tlb (movedEntry (s.asid r.job) r.va aux s.tick) })
      else s
    s1.putReq { r with moved := r.moved + 1, pkg := bitsAt aux.toNat 16 10, st := .queued, since := now, seq := none }

/-- The answer to a request (R344). -/
def State.answered (s : State) (r : Req) (status : Nat) (line : Nat) (old aux : W64) : State :=
  let now := s.gtsOf (coreDie (sidCore r.sid))
  if s.orphan r then (if status = stAccept ∧ r.num = 0 then s.dropReq r.rid else (s.dropReq r.rid).uncount r)
  else match status with
    | 0 => (s.dropReq r.rid).reqDone r line old
    | 1 => (s.dropReq r.rid).reqDone r line old
    | 2 => s.reqRnr r now
    | 3 => (s.dropReq r.rid).reqFails r .remotePerm
    | 4 => s.reqMoved r aux now
    | 5 => (s.dropReq r.rid).reqFails r .remoteUnsupported
    | 6 => if r.num = 0 then (s.putReq { r with st := .backoff, since := now + 1000 }).stallFull r else s.reqRnr r now
    | 7 => (s.dropReq r.rid).reqFails r .illegal
    | _ => s

/-! ### Host memory (R114, R405) -/

/-- The access of a request to the host's memory is performed there: the line, and the old value of an atomic. -/
def State.hostPerform (s : State) (r : Req) (pa : Nat) : Nat × W64 × State :=
  let base := hostBase + pa / 64 * 64
  let line := memRead s.mem base 64
  if r.num = 2 then (line, 0, s)
  else if r.num = 3 then
    let x := match r.ops with
      | [x] => x.toNat % 2 ^ (8 * maskLen r.mask) * 2 ^ (8 * (r.va.toNat % 64))
      | l => ofWords l
    (0, 0, { s with mem := memWrite s.mem base 64 r.mask.toNat x })
  else match atomOfNumber r.num with
    | some k =>
      let q := s.atomAt k (.host (pa / 64 * 64 + r.va.toNat % 64) false) (recWord r.ops 0) (recWord r.ops 1)
      (0, q.1, q.2)
    | none => (0, 0, s)

/-- REMOTE_ANSWER (R344): the answer of another package to the request sent with RID `rid`, or, from 2^32 up, the host's to
request `rid` − 2^32, whose access takes place then. -/
def execRemoteAnswer (rid status : Nat) (payload : List W64) (aux : W64) (s : State) : Host.Outcome State Fault Refusal :=
  .next (
    if rid < 2 ^ 32 then
      match s.reqs.find? (fun r => r.host.isNone && r.st == .sent && r.net == rid) with
      | none => s
      | some r => s.answered r status (ofWords (payload.take 8)) (payload.headD 0) aux
    else match s.reqs.find? (fun r => r.rid == rid - 2 ^ 32) with
      | none => s
      | some r => match r.host with
        | none => s
        | some pa =>
          if status ≤ 1 then
            let q := s.hostPerform r pa
            q.2.2.answered r 0 q.1 q.2.1 0
          else s.answered r status 0 0 0)

/-- RNR_RESEND (R313): a request whose back-off is over is sent again. -/
def execRnrResend (rid : Nat) (s : State) : Host.Outcome State Fault Refusal :=
  .next { s with reqs := s.reqs.map (fun r =>
    let now := s.gtsOf (coreDie (sidCore r.sid))
    if r.rid == rid && reqDue now r then resendReq now r else r) }

/-! ### At the destination (R344) -/

/-- The image an AADDF of another package creates: words 5 and 6 as by the issuing task, whose request carries them (R29,
R118). -/
def remoteImage (req : List W64) (words : List W64) : Image :=
  ⟨recWord words 0, recWord words 1, recWord words 2, recWord words 3, recWord words 4,
    (pkWord64 req 5).extractLsb' 32 32 ++ 0#32, pkWord64 req 6, 0, none, [], pkJob req, pkFn req, false, [], none⟩

/-- An atomic at the slice (R116, R118). In the range that holds region rows the value is free (R428). -/
def State.agentAtomic (s : State) (die : Nat) (req : List W64) (k : AtomKind) (pa : Nat) : State :=
  let b := pkWord64 req 1
  if s.heldFrom ≤ pa then
    let r := s.heldAccess pa
    r.2.answer die req stData (BitVec.ofNat 64 (r.1 % 2 ^ (8 * k.size))) []
  else if k = .int .addf then
    let x := memRead s.mem pa 64
    let old := word64 x 0
    let words := (List.range 5).map (fun i => word64 x (i + 1))
    let new := old + b
    let i := remoteImage req words
    let core := homeOf pa
    let fires := decide (new = 0 ∧ b ≠ 0) && !s.isCancelled core i.launch
    if fires && imageBad (recWord words 0) then s.answer die req stIllegal 0 []
    else
      let s1 := { s with mem := memWrite s.mem pa 8 (ones 8) new.toNat }
      let s2 := if fires then (s1.countUp i.launch 1).post core i true else s1
      s2.answer die req stData old []
  else
    let q := s.atomAt k (.hbm pa false) b (pkWord64 req 2)
    q.2.answer die req stData q.1 []

/-- A load, store or atomic at its slice; the line may be held by the host, and then waits (R406). -/
def State.agentAccess (s : State) (die : Nat) (req : List W64) (pa : Nat) : State :=
  let m := pkAux req
  let base := pa / 64 * 64
  match pkNum req with
  | 2 => if s.heldFrom ≤ pa then
      let r := s.heldAccess pa
      r.2.answer die req stData 0 ((List.range 8).map (word64 (mergeBytes 0 (BitVec.ofNat 512 r.1) m).toNat))
    else
    let x := (mergeBytes 0 (BitVec.ofNat 512 (memRead s.mem base 64)) m).toNat
    s.answer die req stData 0 ((List.range 8).map (word64 x))
  | 3 => if s.heldFrom ≤ pa then (s.heldAccess pa).2.answer die req stAccept 0 []
    else
    let x := if pkLen req = 0 then (pkWord64 req 1).toNat % 2 ^ (8 * maskLen m) * 2 ^ (8 * (pa % 64)) else ofWords (pkPay req)
    { s with mem := memWrite s.mem base 64 m.toNat x }.answer die req stAccept 0 []
  | n => match atomOfNumber n with
    | some k => s.agentAtomic die req k pa
    | none => s.refuse die req stUnsupported

/-- What a request's access needs of the leaf (R307). -/
def reqAcc (n : Nat) : Acc := if n = 2 then .read else if n = 3 then .write else .atomic

/-- A whirligig request of another package joins those on their way to their slice (R240); its record stays open until it is
answered (R343). -/
def State.whirlIn (s : State) (req : List W64) : State :=
  let w : WReq := ⟨s.nextReq, pkNum req, pkWord64 req 1, (pkWord64 req 2).toNat, (pkWord64 req 3).toNat, pkSrc req,
    (pkWord64 req 6).setWidth 32, (pkWord64 req 5).extractLsb' 32 32, pkJob req, pkFn req, 0, 0, 0, BitVec.ofNat 512 (ofWords (pkPay req)), 0, 0, 0, 0, s.pkg.toNat, none, pkRid req⟩
  { s with
    nextReq := s.nextReq + 1
    wreqs := s.wreqs ++ [w] }

/-- The answer of a holder on another package reaches the issuing agent (R240, R242): it is that of the request of the source number
for the address with the tag that it names, the oldest of them (log 87). -/
def State.whirlBack (s : State) (p : List W64) : State :=
  let st := (pkWord64 p 3).toNat
  let mine := fun (w : WReq) => w.st == 0 && w.src == pkSrc p && w.va == pkWord64 p 1 && w.holder == pkSpkg p &&
    BitVec.ofNat 64 w.tag == pkWord64 p 2 && (w.num == 64) == (pkNum p == 68)
  match s.wreqs.find? mine with
  | none => s
  | some w =>
    { s with
      reqs := s.reqs.filter (fun r => r.cont != .whirl w.ord)
      wreqs := s.wreqs.map (fun x => if x.ord = w.ord then
        { x with st := if st = 1 ∨ st = 2 then 2 else 3, status := st, lap := (pkWord64 p 2).toNat
                 line := if pkNum p = 68 then BitVec.ofNat 512 (ofWords (pkPay p)) else x.line } else x) }

/-- The unit of this package that an AGENT packet at a die goes to: the slice of its region's row or of its page's address; an
answer goes to the whirligig agent. -/
def State.agentUnit (s : State) (die : Nat) (p : List W64) : Nat :=
  if 68 ≤ pkNum p then 64
  else if 64 ≤ pkNum p then ((s.regionOf (pkJob p) (pkWord64 p 1)).map (fun r => r.slice (pkWord64 p 1).toNat)).getD 64
  else match tlbLookup (s.dieAt die).tlb (s.asid (pkJob p)) (pkAddr p) with
    | some e => sliceOf (entFrame e + (pkAddr p).toNat % 2 ^ sizeLog (entSize e))
    | none => 64

/-- R335: a packet of the same source for the same unit came to the gateway before. -/
def State.agentBefore (s : State) (idx : Nat) (die : Nat) (p : List W64) : Bool :=
  (s.fabric.agent.take idx).any (fun o => match o with
    | d :: q => d.toNat == die && pkSrc q == pkSrc p && s.agentUnit die q == s.agentUnit die p
    | [] => false)

/-- REMOTE_AGENT_REQUEST (R120, R335, R344): the agent takes request `idx`. Its first word is the die of the gateway. -/
def execRemoteAgentRequest (idx : Nat) (s : State) : Host.Outcome State Fault Refusal :=
  .next (match nth s.fabric.agent idx with
    | none => s
    | some [] => s
    | some (d :: req) =>
      let die := d.toNat
      let rest := { s with fabric := { s.fabric with agent := delAt s.fabric.agent idx } }
      let n := pkNum req
      if s.agentBefore idx die req then s
      else if 64 ≤ n ∧ n ≤ 67 then rest.whirlIn req
      else if n = 68 ∨ n = 69 then rest.whirlBack req
      else match rest.destTr die req (reqAcc n) true (pkAddr req) with
        | (.ans st aux, s1) => s1.refuseAux die req st aux
        | (.ok pa _, s1) => if s1.hostHolds (.hbm pa false) 64 then s else s1.agentAccess die req pa)

/-! ### Completions and memory waits (R133) -/

/-- COMPLETION_DELIVERY (R133): a slot or frame with room for it takes the completion; that of an ended task is dropped. Those of
one slot's task come in the order sent (R335). -/
def execCompletionDelivery (idx : Nat) (s : State) : Host.Outcome State Fault Refusal :=
  .next (match nth s.compls idx with
    | none => s
    | some c =>
      let rest := { s with compls := delAt s.compls idx }
      match s.taskSlot c.tid with
      | none => rest
      | some t => if 16 ≤ t.compl.length ∨ (s.compls.take idx).any (fun o => o.tid == c.tid) then s
        else rest.modTask c.tid (fun t => { t with compl := t.compl ++ [(c.tag, c.status)] }))

/-- A bound WAITM reads again. -/
def State.rereadSlot (s : State) (sid : Nat) (d : BitVec 5) (since : Nat) (w : WaitRec) : State :=
  s.asSlot sid (fun s => match s.reach .read w.operand 8 with
    | .ok p => match p.away with
      | none => s.waitmRead sid p d w.operand w.expect
      | some (host, pkg) => if since + 1000 ≤ s.gtsNow then s.waitmAway host pkg d w.operand w.expect else s
    | .error (.wait _ _ _) => s
    | .error e => s.stop e)

/-- A parked WAITM reads again, on its own package or by a request of its own (R55, R114). -/
def State.rereadSaved (s : State) (tid : Nat) (v : Saved) (d : BitVec 5) (since : Nat) (w : WaitRec) : State :=
  let again := { s with saved := tset s.saved tid { v with ready := true, slot := { v.slot with pend := none } } }
  match s.translate v.core v.slot.job .read w.operand 8 with
  | .fault c => s.trapTask tid c w.operand
  | .miss => again
  | .ok p => match p.away with
    | none =>
      if s.hostHolds p 8 then s
      else if s.spoiled p 8 then (s.reportPage p).trapTask tid .mcheck w.operand
      else
        let r := (s.acquire v.core 2).readPlace (coreCluster v.core) s.tick 0 p 8
        let x := BitVec.ofNat 64 r.1
        if x ≠ w.expect then r.2.retireTask tid 4 (fun t => t.putX d x) else r.2
    | some (host, pkg) =>
      if since + 1000 ≤ s.gtsOf (coreDie v.core) then
        let sid := v.core * 8 + v.num
        let q := { s.newReq 2 host pkg w.operand (lineMask w.operand 8) [] true (.waitm d w.expect) with
          sid := sid, tid := tid, launch := v.slot.launch, job := v.slot.job, fn := v.slot.image.fn
          limit := v.slot.rnrlim.toNat, since := s.gtsOf (coreDie v.core) }
        (s.addReqs [q]).modTask tid (fun t => { t with pend := some (.remote 4 7 [q.rid] none 0 0xFFFF) })
      else s

/-- WAITM_REREAD (R133): slot `sid`, or from 2^16 up the parked task `sid` − 2^16, while its job holds the package. -/
def execWaitmReread (sid : Nat) (s : State) : Host.Outcome State Fault Refusal :=
  .next (
    if sid < 2 ^ 16 then
      let t := s.slotAt sid
      match t.pend, t.wait with
      | some (.waitm d since), some w => s.rereadSlot sid d since w
      | _, _ => s
    else match tfind s.saved (sid - 2 ^ 16) with
      | none => s
      | some v => match v.slot.pend, v.slot.wait with
        | some (.waitm d since), some w => if s.jobIn v.slot.job then s.rereadSaved (sid - 2 ^ 16) v d since w else s
        | _, _ => s)

end Sys2Proof.Machine
end

