-- ==== Sys2Proof/Machine/Slices.lean ====
section
/-! DEFINITION. Time slices (R69 to R72, R178, R331, R396, R419, R420), cancellation (R47, R48), the watchdog (R332),
errors (R324), and the ends of IDLE, WFM and SELFT (R401). -/

namespace Sys2Proof.Machine

/-! ### Slice end (R70, R72, R331) -/

/-- A packet that carries an image of the job: a MSG of another package. -/
def imageOf (job : W32) (p : List W64) : Bool := pkType p == 0 && pkJob p == job

/-- R72: an image of the job remains outside the mailboxes and deques: on its way to a core or held, parked on a page request,
in a slot of a work queue bound to the job, or arrived from another package and not yet delivered. -/
def State.jobImages (s : State) (job : W32) : Bool :=
  s.flight.any (fun m => m.img.job == job) || s.held.any (fun m => m.img.job == job) ||
    s.pageReqs.any (fun r => r.joined.any (fun j => match j with
      | .image _ i _ => i.job == job
      | .task _ _ => false
      | .remote _ _ _ => false)) ||
    s.host.queues.any (fun q => q.2.slots.any (fun w => match w.2 with
      | .admitted i => i.job == job
      | .filled _ _ _ => q.2.cfg.setWidth 32 == job
      | .reserved _ _ => false)) ||
    s.dies.any (fun d => d.2.arrived.any (imageOf job) || d.2.reorder.any (fun x => imageOf job x.2))

/-- R72: no live task and no image of the job remains on the package. -/
def State.jobIdle (s : State) (job : W32) : Bool :=
  !(s.slots.any (fun e => e.2.task.isSome && e.2.job == job && isWorkerCore (sidCore e.1))) &&
    !(s.saved.any (fun e => e.2.slot.job == job)) && !s.jobImages job &&
    s.cores.all (fun c => !isWorkerCore c.1 || (c.2.mail.toList.all (·.isEmpty) && c.2.deque.isEmpty))

/-- R178: word 2 of a lookup that had not finished selection, by what it would have run as; a PKRES that waits keeps what it
found where it would have gone on, and ends BADREQ where it could not have, or where word 2 cannot be read (DESIGN CHOICE, log
91). -/
def State.preemptWaiting (s : State) (cl : Nat) (l : Lookup) : State :=
  let core := sidCore l.sid
  let words := if l.words ≠ [] then l.words else match State.placeRead core 0 (l.descAt.lines 128) s with
    | .ok (d, _) => (List.range 16).map (word64 d)
    | .error _ => []
  let all := fun (m : Nat) => s.endLook cl l (pkWord (ones (pkK words)) 0 m l.mix true 2)
  if l.member ≠ 3 then all l.member
  else match State.placeRead core 0 [(0, 8, l.reqAt.plus 16)] s with
    | .error _ => s.endLook cl l 5
    | .ok (w, _) =>
      let m := bitsAt w 18 2
      let st := w % 256
      if m = 3 then s.endLook cl l 5
      else if st = 1 ∨ (st = 2 ∧ w.testBit 16 = false) then s.endLook cl l (pkWord (w / 2 ^ 32) 0 m (w.testBit 17) false 2)
      else if st = 2 ∨ st = 3 then all m
      else s.endLook cl l 5

/-- R178: a lookup of the job ends PREEMPTED. -/
def State.preemptLook (s : State) (cl : Nat) (l : Lookup) : State :=
  match l.stage with
  | .gather =>
    let gone := l.missing.map (·.1)
    s.endGather cl l (missBits (l.left ++ gone.filter (fun r => !l.left.contains r))) 0 2
  | _ => s.preemptWaiting cl l

/-- R70, R178: every lookup ends, rows in flight are discarded, the cache is emptied. Answers still on their way find no
fetch. -/
def State.preemptLooks (s : State) : State :=
  s.clusters.foldl (fun s c =>
    let s := (s.pklu c.1).look.foldl (fun s l => s.preemptLook c.1 l) s
    s.modPklu c.1 (fun u => { u with fetch := [], rr := [], visited := false })) s

/-- R70: an uncommitted task is discarded, to stand at the head of its sub-queue in the next slice (R71); a committed one
is saved. -/
def State.expireTask (s : State) (sid : Nat) : State :=
  let t := s.slotAt sid
  if t.task.isNone ∨ isWorkerCore (sidCore sid) = false then s
  else if t.cmtd then s.saveTask sid 1 t.forced false
  else
    let s := s.dropTask sid
    let v := s.saveOf t.job
    s.putSave { v with dropped := v.dropped ++ [(sidCore sid, t.image)] }

/-- R332: the count of a wait stops while the job is out: `since` then holds what it has reached. -/
def Slot.stopCount (cyc : Nat) (t : Slot) : Slot := { t with wait := t.wait.map (fun w => { w with since := cyc - w.since }) }

/-- R331: a saved task, with the header state it had; its wait stops counting. -/
def Saved.expire (cyc : Nat) (v : Saved) : Saved :=
  { v with st := 1, old := if v.st = 1 then v.old else v.st, slot := v.slot.stopCount cyc }

/-- R70, R331: a saved task of the job at expiry: an uncommitted one that awaits no ESC is discarded like any other (R41), the
rest is state SLICE. -/
def State.expireSaved (s : State) (tid : Nat) : State :=
  match tfind s.saved tid with
  | none => s
  | some v =>
    if v.slot.cmtd = false ∧ v.st ≠ 4 then
      let s := ({ s with saved := tdel s.saved tid }.leaveSavedGang v.core tid).withdraw (coreCluster v.core) tid
      let j := s.saveOf v.slot.job
      s.putSave { j with dropped := j.dropped ++ [(v.core, v.slot.image)] }
    else s.putSaved tid (v.expire s.cyc)

/-- R59: an age stops while the job is out, when `since` holds what it has reached; the same change lets it count on. -/
def QEntry.stopAge (cyc : Nat) (e : QEntry) : QEntry := { e with since := cyc - e.since }

/-- R59: the ages of the job's images that stand on service cores, which no slice end saves. -/
def State.flipAges (s : State) (job : W32) : State :=
  { s with cores := s.cores.map (fun c => (c.1, if isWorkerCore c.1 then c.2 else
      { c.2 with mail := c.2.mail.map (fun q => q.map (fun e => if e.img.job = job then e.stopAge s.cyc else e)) })) }

/-- R232: an engine's command goes on from its next tile and fetches afresh. The tile that a TWB stores out is completed; a core
that was to leave after a tile under way leaves now. -/
def EngCmd.stop (c : EngCmd) : Option EngCmd :=
  if c.kind = 1 ∧ c.busy then some { c with page := none }
  else
    let c' := { c with
      tiles := [], busy := false, page := none, ended := c.ended ++ c.leaving, leaving := [], fault := if c.page.isSome then c.fault else none }
    if c.accepted && c'.live.isEmpty then none else some c'

def Engine.stop (g : Engine) : Engine := { g with cmds := g.cmds.filterMap (·.stop) }

/-- A line that an engine fetches, as against one it stores. -/
def isTileFetch (r : Req) : Bool := match r.cont with
  | .tile _ _ _ _ => r.num == 2
  | _ => false

/-- R70: the queue state that is saved for a job. -/
def State.queueSave (s : State) (job : W32) : JobSave :=
  let v := s.saveOf job
  let workers := s.cores.filter (fun c => isWorkerCore c.1)
  { v with
    mail := workers.map (fun c => (c.1, c.2.mail.map (fun q => q.map (·.stopAge s.cyc))))
    deques := workers.map (fun c => (c.1, c.2.deque.map (·.stopAge s.cyc)))
    queues := workers.map (fun c => (c.1, c.2.q))
    bars := s.clusters.map (fun c => (c.1, c.2.bars))
    engs := s.clusters.map (fun c => (c.1, c.2.eng.map (·.stop)))
    gangs := s.gangs
    heads := workers.map (fun c => (c.1, c.2.heldHeads)) }

/-- A worker core between two slices. -/
def CoreSt.idle (c : CoreSt) : CoreSt :=
  { c with
    mail := Vector.replicate 4 [], deque := [], q := Vector.replicate 4 [], qWait := Vector.replicate 4 []
    opener := none, retired := 0, heldHeads := [], opened := none, closedAt := none, steal := ⟨0, none, none, none⟩, parks := [], parkTo := [] }

def State.clearQueues (s : State) : State :=
  { s with
    cores := s.cores.map (fun c => (c.1, if isWorkerCore c.1 then c.2.idle else c.2))
    clusters := s.clusters.map (fun c => (c.1, { c.2 with
      bars := Vector.replicate 32 none, eng := c.2.eng.map (fun g => { g with cmds := [], bufs := [] }) }))
    gangs := []
    reqs := s.reqs.filter (fun r => !isTileFetch r) }

/-- R394: a new table base takes effect at a slice boundary. -/
def State.newTable (s : State) : State :=
  { s with sched := { s.sched with slicetab := s.sched.pending.getD s.sched.slicetab, pending := none } }

/-- The running slice ends (R70, R72, R331, R420): lookups, tasks, then the queue state; the SLICE entry. It is completed, and
nothing is saved, where a DONE or HOP of this cycle ended the job's last live task and no image of the job remains (R72). -/
def State.endSlice (s : State) (v : Slice) : State :=
  let now := s.gtsOf 0
  let completed := s.jobIdle v.job && v.ended == some s.cyc
  let s1 := s.preemptLooks
  let s2 := (s1.slots.map (·.1)).foldl (fun s sid => s.expireTask sid) s1
  let s3 := ((s2.saved.filter (fun e => e.2.slot.job == v.job)).map (·.1)).foldl (fun s tid => s.expireSaved tid) s2
  let s4 := (if completed then s3 else s3.putSave (s3.queueSave v.job)).flipAges v.job
  let s5 := { s4.clearQueues with sched := { s4.sched with slice := none, lastStop := min v.stop now } }
  s5.newTable.ringEntry 0 4 [v.job.setWidth 64, if completed then 0 else 1, BitVec.ofNat 64 v.start, s.gtsWord]

/-- SLICE_END (R69, R70): the first cycle at or after the end instant. -/
def execSliceEnd (s : State) : Host.Outcome State Fault Refusal :=
  .next (match s.sched.slice with
    | some v => if v.stop ≤ s.gtsOf 0 then s.endSlice v else s
    | none => s)

/-! ### The slice table (R396, R419) -/

/-- R419: the entry in its latest repetition that has begun. -/
def SliceEntry.shift (x : SliceEntry) (period now : Nat) : SliceEntry :=
  let c := if period = 0 then 0 else (now - x.start) / period
  { x with start := x.start + c * period, stop := x.stop + c * period }

/-- The slice of a table that the instant lies in, with its index. -/
def State.entryAt (s : State) (tab : W64) (now : Nat) : Option (Nat × SliceEntry) :=
  (List.range (s.tableLen tab)).findSome? (fun i =>
    let x := (s.tableEntry tab i).shift (s.tablePeriod tab) now
    if x.start ≤ now ∧ now < x.stop then some (i, x) else none)

/-- R396: the job record is refused. -/
def recordBad (r : List W64) : Bool :=
  let w := fun i => (recWord r i).toNat
  let nf := w 3 / 2 ^ 32
  let ne := w 5 / 2 ^ 32
  decide (w 0 % 256 ≠ 0) || decide (w 0 < 0x10000) || decide (w 1 % 256 ≠ 0) || decide (w 1 < 0x10000) || decide (w 2 % 4096 ≠ 0)
    || nf == 0 || bitsAt (w 3) 16 16 != 0 || decide (w 4 % 32768 ≠ 0) || decide (w 5 % 2 ^ 32 ≠ 0) || w 7 != 0
    || (decide (w 2 < w 4 + 32768 * ne) && decide (w 4 < w 2 + 4096 * nf) && ne != 0)

/-! ### Slice start (R71) -/

/-- The task's wait counts on. -/
def Slot.goCount (cyc : Nat) (t : Slot) : Slot := t.stopCount cyc

/-- R71, R331: a task saved at the slice end resumes in its slot, or as soon as one is free; one parked, trapped or waiting for
a page or an answer is again so; a disposition given meanwhile is carried out. -/
def State.resumeSaved (s : State) (tid : Nat) : State :=
  match tfind s.saved tid with
  | none => s
  | some v =>
    let v := { v with slot := v.slot.goCount s.cyc }
    match v.old with
    | 0 =>
      let sid := v.core * 8 + v.num
      if (s.slotAt sid).task.isNone ∧ (s.coreAt v.core).fenced = false then s.restoreTask sid v
      else s.putSaved tid { v with ready := true }
    | 8 => s.putSaved tid v.resume
    | 9 => s.endSaved tid
    | 10 => s.discardSaved tid
    | st => s.putSaved tid { v with st := st, old := 0 }

/-- The age of a saved entry of core `src` counts on, or, where another core takes it in a fenced one's place, from zero (R59). -/
def State.ageAgain (s : State) (src : Nat) (e : QEntry) : QEntry := if s.liveCore src = src then e.stopAge s.cyc else s.anew e

/-- A saved entry of core `src` stands in its queue again, its payload in the scratchpad (R31). -/
def State.requeueSaved (s : State) (src k : Nat) (l : List QEntry) : State :=
  let core := s.liveCore src
  let s := l.foldl (fun s e => s.putPayload core e.img) s
  s.modCore core (fun c => setSub c k (subQueue c k ++ l.map (fun e => let e := s.ageAgain src e
    { e with img := { e.img with payload := [] } })))

def State.requeueMail (s : State) (core : Nat) (m : RegFile 2 (List QEntry)) : State :=
  (List.range 4).foldl (fun s k => s.requeueSaved core k (RegFile.read m (BitVec.ofNat 2 k))) s

/-- R71, R124, R232, R269, R383: the saved queue state stands again. -/
def State.restoreQueues (s : State) (v : JobSave) : State :=
  let s1 := v.bars.foldl (fun s b => s.modCluster b.1 (fun c => { c with bars := b.2 })) s
  let s2 := v.engs.foldl (fun s b => s.modCluster b.1 (fun c => { c with eng := b.2 })) s1
  let s3 := v.queues.foldl (fun s b => s.modCore b.1 (fun c => { c with q := b.2 })) { s2 with gangs := v.gangs }
  let s3 := v.heads.foldl (fun s b => s.modCore b.1 (fun c => { c with heldHeads := if c.fenced then [] else b.2 })) s3
  let s4 := v.deques.foldl (fun s b => s.modCore (s.liveCore b.1) (fun c => { c with deque := c.deque ++ b.2.map (s.ageAgain b.1) })) s3
  v.mail.foldl (fun s b => s.requeueMail b.1 b.2) s4

/-- R71, R370: the job whose slice starts is restored, every accumulator zero but those that tasks take again: tasks, then the
images discarded at its last slice end at the heads, then what was saved behind them; what is cancelled on the cores that take it
goes (R48). -/
def State.restoreJob (s : State) (job : W32) : State :=
  let v := s.saveOf job
  let s : State := { s with
    sched := { s.sched with saves := s.sched.saves.filter (fun w => w.job != job) }
    cores := s.cores.map (fun c => (c.1, { c.2 with acc := Vector.replicate 8 0 })) }
  let s := (s.flipAges job).restoreQueues v
  let s := ((s.saved.filter (fun e => e.2.slot.job == job && e.2.st == 1)).map (·.1)).foldl (fun s tid => s.resumeSaved tid) s
  let s := v.dropped.reverse.foldl (fun s x => s.requeueHead x.1 x.2) s
  s.cores.foldl (fun s c => if c.2.cancelled = [] then s else s.stripMarks c.1) s

/-- The slice of an entry starts, or is refused for its job record (R396, R420). -/
def State.startSlice (s : State) (index : Nat) (x : SliceEntry) : State :=
  let r := (List.range 8).map (s.sysWord x.record)
  let s := { s with sched := { s.sched with last := x.start } }
  if recordBad r then
    (s.ringEntry 0 4 [x.job.setWidth 64, 2, BitVec.ofNat 64 x.start, s.gtsWord]).errorEntry 0 5 (BitVec.ofNat 64 index) 2
  else
    { s with sched := { s.sched with
        records := tset s.sched.records x.job.toNat r
        slice := some ⟨x.job, r, index, x.start, x.stop, s.cyc, none⟩ } }.restoreJob x.job

/-- R69, R417, R426: a slice may start now. -/
def State.mayStart (s : State) (start : Nat) : Bool :=
  s.sched.slice.isNone && s.health.step == 9 && s.health.inSync && decide (s.sched.last < start ∨ (s.sched.last = 0 ∧ s.sched.lastStop = 0))
    && decide (s.sched.lastStop = 0 ∨ s.sched.lastStop + 40000 ≤ s.gtsOf 0)

/-- SLICE_START (R69, R71, R396, R420). -/
def execSliceStart (s : State) : Host.Outcome State Fault Refusal :=
  .next (
    if s.sched.slice.isSome then s
    else
      let s := s.newTable
      match s.entryAt s.sched.slicetab (s.gtsOf 0) with
      | some (i, x) => if s.mayStart x.start then s.startSlice i x else s
      | none => s)

/-! ### A new slice table (R419) -/

/-- R419: the entry breaks a rule; `prev` is the end of the entry before it. -/
def entryBadAfter (prev : Option Nat) (x : SliceEntry) : Bool :=
  decide (x.stop ≤ x.start) || (match prev with
    | some p => decide (x.start < p + 40000)
    | none => false)

/-- The index of the first entry that breaks a rule. -/
def firstBadEntry : Option Nat → Nat → List SliceEntry → Option Nat
  | _, _, [] => none
  | prev, i, x :: r => if entryBadAfter prev x then some i else firstBadEntry (some x.stop) (i + 1) r

/-- R419: what is wrong with a table, as the index of the entry concerned. -/
def State.tableFault (s : State) (tab : W64) : Option Nat :=
  let n := s.tableLen tab
  let p := s.tablePeriod tab
  if n = 0 ∨ 4096 < n ∨ (List.range 6).any (fun i => s.sysWord tab (i + 2) != 0) = true then some 0
  else
    let l := (List.range n).map (s.tableEntry tab)
    match firstBadEntry none 0 l, l.head?, l.getLast? with
    | some i, _, _ => some i
    | none, some a, some z => if p ≠ 0 ∧ a.start + p < z.stop + 40000 then some 0 else none
    | none, _, _ => some 0

/-- SLICEREQ (R408, R419): the steward checks the table and installs it, or refuses it. -/
def execSlicereq (addr : W64) (s : State) : Host.Outcome State Fault Refusal :=
  .next (s.fromHost (match s.tableFault addr with
    | none => { s with sched := { s.sched with pending := some addr } }
    | some i => s.errorEntry 0 5 (BitVec.ofNat 64 i) 1))

/-! ### Cancellation (R47, R48) -/

/-- CANCEL_ANSWER (R47, R131): the deciding package's answer to the CANCEL of slot `sid`, or from 2^16 up of the saved task
`sid` − 2^16. -/
def execCancelAnswer (sid : Nat) (perm : Bool) (s : State) : Host.Outcome State Fault Refusal :=
  .next (
    let tid := if sid < 2 ^ 16 then (s.slotAt sid).tid else sid - 2 ^ 16
    match s.taskSlot tid with
    | none => s
    | some t => match t.pend with
      | some (.cancel name) =>
        if perm then s.nextFree64.2.trapTask tid .perm s.nextFree64.1
        else if t.cmtd = false ∧ t.frame = 0 ∧ s.freeFrame t.job = 0 then s
        else
          let s := (s.commitTask tid).retireTask tid 4 id
          if name.setWidth 32 = t.launch then (match s.slotOfTid tid with
            | some k => s.endTask k
            | none => s.endSaved tid) else s
      | _ => s)

/-- CANCEL_MARK_ARRIVAL (R48): the mark of a cancelled launch reaches a core. -/
def execCancelMarkArrival (core : Nat) (launch : W32) (s : State) : Host.Outcome State Fault Refusal :=
  .next (
    if s.homeHere launch && !(tfind s.launches launch.toNat).any (·.cancelled) then s
    else
      let s := s.modCore core (fun c => if c.cancelled.contains launch then c else { c with cancelled := launch :: c.cancelled })
      s.stripMark core launch)

/-! ### The watchdog and errors -/

/-- R332: an arrival of the waiting instruction has not taken effect: a barrier's, or MGANG's at a gang not formed. -/
def State.undoArrival (s : State) (core tid : Nat) (kind : Nat) : State :=
  if kind = 4 then s.withdraw (coreCluster core) tid
  else if kind = 13 then
    let g := s.gangAt (coreTroupe core)
    if g.formed then s else s.setGang (coreTroupe core) { g with seats := g.seats.filter (fun e => e.2 != tid) }
  else s

/-- R332: a message that was refused and waits to be sent again has not taken effect; it is not sent again. -/
def State.dropRefused (s : State) (tid : Nat) : State :=
  (s.reqs.filter (fun r => r.tid == tid && r.num == 0 && r.st != .sent)).foldl (fun s r => (s.dropReq r.rid).uncount r) s

/-- WATCHDOG (R332): the wait of slot `sid`, or from 2^16 up of the parked task `sid` − 2^16 whose job holds the package. A wait
for a page request is not counted (R303, R310). While the answer to a message is outstanding the message may take effect, so
the trap waits for it (log 80). -/
def execWatchdog (sid : Nat) (s : State) : Host.Outcome State Fault Refusal :=
  .next (
    let tid := if sid < 2 ^ 16 then (s.slotAt sid).tid else sid - 2 ^ 16
    match s.taskSlot tid with
    | none => s
    | some t => match t.wait with
      | none => s
      | some w =>
        let onPage := (tfind s.saved tid).any (fun v => v.st == 3 || v.st == 4)
        let asked := s.reqs.any (fun r => r.tid == tid && r.num == 0 && r.st == .sent)
        let counted := decide (1 ≤ w.kind) && decide (w.kind ≤ 13) && (decide (sid < 2 ^ 16) || s.jobIn t.job) && !onPage
        if counted && decide (w.since + 2 ^ 30 ≤ s.cyc) && !asked then
          ((s.dropRefused tid).undoArrival (s.coreOf tid) tid w.kind).trapTask tid .watchdog (BitVec.ofNat 64 w.kind)
        else s)

/-- ERROR_DETECT (R247, R324, R421): the task on slot `sid` consumes uncorrectable data of `unit` at `addr` (0: a register
file); an address of a region, whose rows no task reaches, is a block that its slice finds bad. -/
def execErrorDetect (sid : Nat) (addr unit : W64) (s : State) : Host.Outcome State Fault Refusal :=
  .next (
    let s := s.addTodo [unit]
    if s.regions.any (fun r => r.has addr) then { s with poison := s.poison ++ [(whirlBase + addr.toNat) / 64] }
    else if (s.slotAt sid).task.isNone then s else s.takeTrap sid .mcheck addr)

/-! ### IDLE, WFM, SELFT (R401) -/

/-- IDLE_WFM_TIMEOUT (R401): the GTS reaches the deadline. -/
def execIdleWfmTimeout (sid : Nat) (s : State) : Host.Outcome State Fault Refusal :=
  .next (
    let now := s.gtsOf (coreDie (sidCore sid))
    let pc := (s.slotAt sid).pc + 4
    match (s.slotAt sid).pend with
    | some (.idle t) => if t.toNat ≤ now then s.retireAt sid pc else s
    | some (.wfm d t) => if t.toNat ≤ now then (s.modSlot sid (fun x => x.putX d 0)).retireAt sid pc else s
    | _ => s)

/-- SELFT_RESULT (R401, R402): 0 PASS or 1 FAIL. -/
def execSelftResult (sid result : Nat) (s : State) : Host.Outcome State Fault Refusal :=
  .next (match (s.slotAt sid).pend with
    | some (.selft d u) =>
      if 2 ≤ result then s
      else ((s.setStres u result).modSlot sid (fun t => t.putX d (BitVec.ofNat 64 result))).retireAt sid ((s.slotAt sid).pc + 4)
    | _ => s)

end Sys2Proof.Machine
end

