-- ==== Sys2Proof/Machine/HostQ.lean ====
section
/-! DEFINITION. The host's side (R56 to R58, R406 to R415, R425): work queues, rings, graphs, phases, cancellation,
page-request responses, control-page registers, host accesses to HBM, and attestation reports. -/

namespace Sys2Proof.Machine

/-! ### Work queues (R56 to R58, R409) -/

def wqEn (c : W64) : Bool := c.getLsbD 63
def wqFn (c : W64) : Nat := bitsAt c.toNat 56 7
def wqDie (c : W64) : Nat := bitsAt c.toNat 54 2
def wqCluster (c : W64) : Nat := bitsAt c.toNat 49 5
def wqCore (c : W64) : Nat := bitsAt c.toNat 44 5
def wqSvc (c : W64) : Bool := c.getLsbD 43
def wqRing (c : W64) : Nat := bitsAt c.toNat 32 10
def wqJob (c : W64) : W32 := c.setWidth 32

/-- R407: the queue's window belongs to the function. -/
def State.wqBound (s : State) (fn q : Nat) : Bool := decide (q < 8192) && (s.queue q).cfg != 0 && wqFn (s.queue q).cfg == fn

/-- R426: the bring-up step from which the queue takes reservations. -/
def State.wqReady (s : State) (c : W64) : Bool := wqEn c && decide ((if wqSvc c then 5 else 9) ≤ s.health.step)

/-- A value the host reads. -/
def State.hostReply (s : State) (l : List W64) : State := { s with host := { s.host with replies := s.host.replies ++ l } }

/-- R56: the value of WQ_RSV. -/
def rsvWord (ok : Bool) (seq slot : Nat) : W64 := BitVec.ofNat 64 (ok.toNat * 2 ^ 63 + seq % 2 ^ 24 * 2 ^ 32 + slot)

/-- WQ_RSV (R56, R407, R426): a read reserves the lowest free slot. -/
def execWqRsv (fn q : Nat) (s : State) : Host.Outcome State Fault Refusal :=
  .next (s.fromHost (
    let w := s.queue q
    match (if s.wqBound fn q && s.wqReady w.cfg then w.freeSlot else none) with
    | none => s.hostReply [rsvWord false w.seq 0]
    | some i => (s.setQueue q { w with
        seq := (w.seq + 1) % 2 ^ 24, slots := tset w.slots i (.reserved w.seq (s.gtsOf 0)) }).hostReply [rsvWord true w.seq i]))

/-- A slot of a queue is free again; graphs that wait for one go on (R414). -/
def State.freeWq (s : State) (q slot : Nat) : State :=
  (s.setQueue q { s.queue q with slots := tdel (s.queue q).slots slot }).graphsGo

/-- An ERROR entry to the queue's ring (R412). -/
def State.wqError (s : State) (q code : Nat) (d2 : W64) : State :=
  s.errorEntry (wqRing (s.queue q).cfg) code (BitVec.ofNat 64 q) d2

/-- WQ_SLOT_WRITE (R30, R57): a write of `words` at byte `off` of the queue's window. -/
def execWqSlotWrite (fn q off : Nat) (words : List W64) (s : State) : Host.Outcome State Fault Refusal :=
  .next (s.fromHost (
    if !s.wqBound fn q || decide (off < 0x1000) || decide (0x2000 ≤ off) then s
    else
      let slot := (off - 0x1000) / 64
      match tfind (s.queue q).slots slot with
      | some (.reserved seq _) =>
        if off % 64 ≠ 0 ∨ words.length ≠ 8 then s.wqError q 2 (BitVec.ofNat 64 slot)
        else if imageBad (recWord words 0) then (s.freeWq q slot).wqError q 3 (recWord words 0)
        else s.setQueue q { s.queue q with slots := tset (s.queue q).slots slot (.filled seq words none) }
      | _ => s.wqError q 2 (BitVec.ofNat 64 slot)))

/-- WQ_RESERVATION_TIMEOUT (R57): a slot unfilled 100 µs after its reservation. -/
def execWqReservationTimeout (q slot : Nat) (s : State) : Host.Outcome State Fault Refusal :=
  .next (match tfind (s.queue q).slots slot with
    | some (.reserved _ since) =>
      if since + 100000 ≤ s.gtsOf 0 then (s.freeWq q slot).wqError q 1 (BitVec.ofNat 64 slot) else s
    | _ => s)

/-- How long ago, in reservations, a slot's turn was given; an admitted root goes before all. -/
def slotRank (q : WorkQueue) (w : WqSlot) : Nat :=
  match w with
  | .reserved seq _ => (q.seq + 2 ^ 24 - seq - 1) % 2 ^ 24
  | .filled seq _ _ => (q.seq + 2 ^ 24 - seq - 1) % 2 ^ 24
  | .admitted _ => 2 ^ 24

/-- The slot whose turn it is in SEQ order. -/
def WorkQueue.nextSlot (q : WorkQueue) : Option (Nat × WqSlot) :=
  q.slots.foldl (fun b x => match b with
    | none => some x
    | some y => if slotRank q y.2 < slotRank q x.2 then some x else some y) none

/-- R58: the cores a root may enter, the preferred one first. -/
def wqCores (c : W64) : List Nat :=
  if wqSvc c then [wqDie c * 2048 + 34 + wqCore c % 2]
  else (List.range 32).map (fun i => (wqDie c * 32 + wqCluster c) * 64 + (wqCore c + i) % 32)

/-- A core whose sub-queue takes the root; a core whose job is out saves it (R70). -/
def State.rootCore (s : State) (c : W64) (i : Image) : Option Nat :=
  ((wqCores c).map s.liveCore).find? (fun k => (isWorkerCore k && !s.jobIn i.job) || s.hasRoom k i.cls)

/-- R48, R58: a root enters a sub-queue and its slot frees, or it waits in its slot; a root of a cancelled launch goes. -/
def State.placeRoot (s : State) (q slot : Nat) (i : Image) : State :=
  if (tfind s.launches i.launch.toNat).any (·.cancelled) then (s.freeWq q slot).countDown i.launch 1
  else match s.rootCore (s.queue q).cfg i with
    | some core => (s.arrive core i).freeWq q slot
    | none => s.setQueue q { s.queue q with slots := tset (s.queue q).slots slot (.admitted i) }

/-- R29: the image of a host submission, creator 0xFC00_0000 + function, released at SY. -/
def State.hostImage (s : State) (fn : Nat) (launch job : W32) (words : List W64) : Image × State :=
  let r := s.relTag (2 ^ 32 + fn) 4
  (⟨recWord words 0, recWord words 1, recWord words 2, recWord words 3, recWord words 4, launch ++ 0#32,
    hostSource fn ++ r.1, 0, none, [], job, BitVec.ofNat 7 fn, false, [], none⟩, r.2)

/-- A graph's launch that its queue took, or refused. -/
def State.graphLaunch (s : State) (job gid : W32) (k : Nat) (f : GLaunch → GLaunch) : State :=
  s.setGraphs (s.host.graphs.map (fun g => if g.id == gid && g.job == job then { g with launches := modAt f g.launches k } else g))

/-- R44, R57, R58: the filled slot whose turn it is is admitted. -/
def State.admitRoot (s : State) (q slot : Nat) (words : List W64) (graph : Option (W32 × Nat)) : State :=
  let c := (s.queue q).cfg
  let job := wqJob c
  if imageBad (recWord words 0) then
    let s1 := match graph with
      | some (gid, k) => s.graphLaunch job gid k (fun l => { l with st := 3 })
      | none => s
    (s1.wqError q 3 (recWord words 0)).freeWq q slot
  else
    let n := s.newLaunch ⟨job, 1, 0, false, if graph.isNone then some (wqRing c) else none, graph⟩
    let s1 := match graph with
      | some (gid, k) => n.2.graphLaunch job gid k (fun l => { l with launch := n.1 })
      | none => n.2
    let r := s1.hostImage (wqFn c) n.1 job words
    r.2.placeRoot q slot r.1

/-- ROOT_ADMISSION (R44, R57, R58): in SEQ order. -/
def execRootAdmission (q : Nat) (s : State) : Host.Outcome State Fault Refusal :=
  .next (match (s.queue q).nextSlot with
    | some (slot, .filled _ words graph) => s.admitRoot q slot words graph
    | _ => s)

/-- ROOT_ADMIT_RETRY (R58). -/
def execRootAdmitRetry (q : Nat) (s : State) : Host.Outcome State Fault Refusal :=
  .next (match (s.queue q).nextSlot with
    | some (slot, .admitted i) => s.placeRoot q slot i
    | _ => s)

/-- R409: the write is ignored. -/
def wqcfgBad (v : W64) : Bool :=
  (decide (64 ≤ wqFn v) && wqFn v != 127) || decide (23 < wqCluster v) ||
    (wqSvc v && (wqFn v != 127 || wqCluster v != 0 || decide (1 < wqCore v)))

/-- The enable bit of a configuration word becomes that of `v`. -/
def withEn (old v : W64) : W64 := (old &&& ~~~(1#64 <<< 63)) ||| (v &&& (1#64 <<< 63))

/-- WQCFG (R409): while EN is set only EN changes; clearing it releases the unfilled reserved slots. -/
def execWqcfg (q : Nat) (value : W64) (s : State) : Host.Outcome State Fault Refusal :=
  .next (s.fromHost (
    let w := s.queue q
    if 8192 ≤ q ∨ wqcfgBad value then s
    else if wqEn w.cfg then
      let slots := if wqEn value then w.slots else w.slots.filter (fun e => match e.2 with
        | .reserved _ _ => false
        | _ => true)
      (s.setQueue q { w with cfg := withEn w.cfg value, slots := slots }).graphsGo
    else s.setQueue q { w with cfg := value &&& ~~~(1#64 <<< 42) }))

/-! ### Host rings (R410, R413) -/

/-- The entries a ring holds when it is disabled go to ring 0. -/
def State.moveHeld (s : State) (r : Nat) : State :=
  let h := (s.ring r).held
  h.foldl (fun s e => s.ringEntry 0 (recWord e 0).toNat e.tail) (s.setRing r { s.ring r with held := [] })

/-- R410: the reserved bits of word 1. -/
def ringMask : W64 := 0xFFF8FC00FFFFFFFF

/-- A write of word 1: while EN is set only EN changes; setting EN starts the ring afresh. -/
def State.ringControl (s : State) (r : Nat) (v : W64) : State :=
  let g := s.ring r
  if g.on then
    if v.getLsbD 63 then s else
      let s1 := s.setRing r { g with cfg := withEn g.cfg v }
      if r = 0 then s1 else s1.moveHeld r
  else
    let n := bitsAt v.toNat 51 5
    if n < 6 ∨ 16 < n then s
    else
      let g1 := { g with cfg := v &&& ringMask }
      if v.getLsbD 63 then State.flushRing (g.held.length + 1) (s.setRing r { g1 with tail := 0, head := 0 }) r
      else s.setRing r g1

/-- HRCFG (R410, R413). -/
def execHrcfg (ring word : Nat) (value : W64) (s : State) : Host.Outcome State Fault Refusal :=
  .next (s.fromHost (
    let g := s.ring ring
    if 1024 ≤ ring then s
    else match word with
      | 0 => if g.on then s else s.setRing ring { g with base := (value >>> 12) <<< 12 }
      | 1 => s.ringControl ring value
      | 3 =>
        let h := value.toNat % 2 ^ 32
        if (g.tail + 2 ^ 32 - g.head) % 2 ^ 32 < (h + 2 ^ 32 - g.head) % 2 ^ 32 then s
        else State.flushRing (g.held.length + 1) (s.setRing ring { g with head := h }) ring
      | _ => s))

/-! ### Control page (R408) -/

def State.fnAt (s : State) (fn : Nat) : FnSt := tget FnSt.reset s.host.fns fn
def State.setFn (s : State) (fn : Nat) (v : FnSt) : State := { s with host := { s.host with fns := tset s.host.fns fn v } }

/-- R408: PRCFG, as word 1 of HRCFG, LOG2N 10 to 16, bits 41:0 zero. -/
def FnSt.control (f : FnSt) (v : W64) : FnSt :=
  let n := bitsAt v.toNat 51 5
  if f.prcfg.getLsbD 63 then { f with prcfg := withEn f.prcfg v }
  else if n < 10 ∨ 16 < n then f
  else if v.getLsbD 63 then { f with prcfg := v &&& 0xFFF8FC0000000000, prtail := 0, prhead := 0 }
  else { f with prcfg := v &&& 0xFFF8FC0000000000 }

/-- A write of PRBASE, PRCFG or PRHEAD. -/
def State.pageWrite (s : State) (fn off : Nat) (v : W64) : State :=
  let f := s.fnAt fn
  if 64 ≤ fn ∧ fn ≠ 127 then s
  else match off with
    | 0x028 => s.setFn fn { f with prbase := (v >>> 12) <<< 12 }
    | 0x030 => s.setFn fn (f.control v)
    | 0x038 => s.setFn fn { f with prhead := v }
    | _ => s

/-- REGISTER_WRITE (R353, R354, R408): a register of the link window of port `unit`, or with `page` of the control page of
function `unit`. -/
def execRegisterWrite (page : Bool) (unit off : Nat) (value : W64) (s : State) : Host.Outcome State Fault Refusal :=
  .next (if page then s.fromHost (s.pageWrite unit off value) else if 18 ≤ unit ∨ off % 8 ≠ 0 then s else s.linkWrite unit off value)

/-! ### Host accesses (R249, R406) -/

/-- HOST_MEMORY_ACCESS (R249, R406, R428): an access to line `pa` of HBM at its slice, which the host then holds, or to a
region's rows. A read answers a word that says whether the data is poisoned, then the line. -/
def execHostMemoryAccess (write : Bool) (pa : Nat) (mask : W64) (line : Vec) (s : State) : Host.Outcome State Fault Refusal :=
  .next (s.fromHost (
    if 2 ^ 39 ≤ pa then s
    else if s.heldFrom ≤ pa then
      let s1 := s.errorEntry 0 7 (BitVec.ofNat 64 pa) 0
      if write then s1 else s1.hostReply (1 :: List.replicate 8 0)
    else
      let base := pa / 64 * 64
      let s1 : State := { s with hostHeld := if s.hostHeld.contains (pa / 64) then s.hostHeld else s.hostHeld ++ [pa / 64] }
      if write then { s1 with
        mem := memWrite s1.mem base 64 mask.toNat line.toNat
        poison := if mask = BitVec.allOnes 64 then s1.poison.filter (· != pa / 64) else s1.poison }
      else if s.poison.contains (pa / 64) then s1.hostReply (1 :: List.replicate 8 0)
      else s1.hostReply (0 :: (List.range 8).map (word64 (memRead s.mem base 64)))))

/-- BACK_INVALIDATE_COMPLETE (R406). -/
def execBackInvalidateComplete (pa : Nat) (s : State) : Host.Outcome State Fault Refusal :=
  .next { s with hostHeld := s.hostHeld.filter (· != pa / 64) }

/-- LOCAL_ACCESS_COMPLETION (R224): a slice's line reaches the cluster's cache, or a write-back its slice; the access itself
was performed at issue (log 4). A line the host holds waits (R406). -/
def execLocalAccessCompletion (cl pa : Nat) (fill : Bool) (s : State) : Host.Outcome State Fault Refusal :=
  .next (
    if 2 ^ 39 ≤ pa ∨ s.hostHeld.contains (pa / 64) = true then s
    else if fill then (s.loadLine cl 0 (pa / 64) 0).2
    else s.writeBack cl (pa / 64))

/-! ### Graphs and phases (R414, R415) -/

/-- Word `i` of the host's memory from an address. -/
def State.hostWord (s : State) (a : W64) (i : Nat) : W64 := BitVec.ofNat 64 (memRead s.mem (hostBase + a.toNat + 8 * i) 8)

/-- R414: the launches of a descriptor. -/
def State.graphWords (s : State) (a : W64) (n : Nat) : List (List W64) :=
  (List.range n).map (fun k => (List.range 16).map (fun i => s.hostWord a (8 + 16 * k + i)))

/-- R414: the cause for which a descriptor is refused. -/
def State.graphFault (s : State) (fn : Nat) (a : W64) : Option Nat :=
  let w := s.hostWord a
  let n := (w 1).toNat / 2 ^ 58 + 1
  let l := s.graphWords a n
  let q := (w 1).toNat % 2 ^ 13
  let c := (s.queue q).cfg
  let gid : W32 := (w 0).extractLsb' 32 32
  let phase : W32 := (w 0).setWidth 32
  if a.toNat % 64 ≠ 0 ∨ gid = 0 ∨ bitsAt (w 1).toNat 42 16 ≠ 0 ∨ bitsAt (w 1).toNat 13 19 ≠ 0
      ∨ (List.range 6).any (fun i => w (i + 2) != 0) = true
      ∨ l.any (fun x => (x.drop 9).any (· != 0)) = true then some 1
  else if l.zipIdx.any (fun x => decide (2 ^ x.2 ≤ (recWord x.1 8).toNat)) then some 2
  else if !(wqEn c && s.wqBound fn q) then some 3
  else if s.host.graphs.any (fun g => g.id == gid && g.job == wqJob c) then some 4
  else if phase ≠ 0 ∧ s.host.phases.any (fun p => p.id == phase && p.job == wqJob c) = false then some 5
  else none

/-- GRAPHSUB (R408, R414): the descriptor at a host address is read, and refused as a whole or submitted. -/
def execGraphsub (fn : Nat) (addr : W64) (s : State) : Host.Outcome State Fault Refusal :=
  .next (s.fromHost (
    let w := s.hostWord addr
    let ring := bitsAt (w 1).toNat 32 10
    match s.graphFault fn addr with
    | some c => s.errorEntry ring 4 addr (BitVec.ofNat 64 c)
    | none =>
      let q := (w 1).toNat % 2 ^ 13
      let l := (s.graphWords addr ((w 1).toNat / 2 ^ 58 + 1)).map (fun x => (⟨x.take 5, recWord x 8, 0, 0⟩ : GLaunch))
      let g : Graph := ⟨(w 0).extractLsb' 32 32, (w 0).setWidth 32, wqJob (s.queue q).cfg, ring, q, l⟩
      (s.setGraphs (s.host.graphs ++ [g])).graphsGo))

/-- PHASECTL (R408, R415): the phase of the ring's job is announced. A phase already announced stays as it is. -/
def execPhasectl (_fn : Nat) (word : W64) (s : State) : Host.Outcome State Fault Refusal :=
  .next (s.fromHost (
    let ring := bitsAt word.toNat 48 10
    let job : W32 := (s.ring ring).cfg.setWidth 32
    let id : W32 := word.setWidth 32
    if bitsAt word.toNat 58 5 ≠ 0 ∨ s.host.phases.any (fun p => p.id == id && p.job == job) = true then s
    else s.setPhases (s.host.phases ++ [⟨id, job, ring, bitsAt word.toNat 32 16, word.getLsbD 63, false⟩])))

/-- PHASE_ALLREDUCE_DONE (R43, R415): every package contributed its zero: the phase is complete, and with LAST its job. -/
def execPhaseAllreduceDone (phase : W32) (s : State) : Host.Outcome State Fault Refusal :=
  .next (match s.host.phases.find? (fun p => p.id == phase && p.left == 0) with
    | none => s
    | some p =>
      let hurt := p.cancelled || s.host.jobsCancelled.contains p.job
      let jobs := s.host.jobsCancelled.filter (· != p.job)
      let s1 := s.setPhases (s.host.phases.filter (fun x => !(x.id == p.id && x.job == p.job)))
      let s2 : State := { s1 with host := { s1.host with jobsCancelled := if hurt && !p.last then p.job :: jobs else jobs } }
      let s3 := s2.ringEntry p.ring 2 [BitVec.ofNat 64 (2 * 2 ^ 62 + p.id.toNat), if p.cancelled then 1 else 0, s.gtsWord]
      if p.last then s3.ringEntry p.ring 2 [BitVec.ofNat 64 (3 * 2 ^ 62 + p.job.toNat), if hurt then 1 else 0, s.gtsWord] else s3)

/-- CANCELW (R47, R408). -/
def execCancelw (fn : Nat) (name : W64) (s : State) : Host.Outcome State Fault Refusal :=
  .next (s.fromHost (
    if bitsAt name.toNat 32 30 ≠ 0 ∨ (fn ≠ 127 ∧ name.toNat / 2 ^ 62 = 3) then s
    else s.cancelName name (fun job => s.host.queues.any (fun q => q.2.cfg != 0 && wqFn q.2.cfg == fn && wqJob q.2.cfg == job))))

/-! ### Page-request responses (R310, R311) -/

/-- The page of a request is walked again. -/
def State.walkAgain (s : State) (r : PageReq) : State :=
  let va := BitVec.ofNat 64 (r.vpn * 2 ^ 16)
  let w : Walk := ⟨r.tsc, r.vpn, r.job, r.fn, r.acc, r.sel, r.src, []⟩
  ({ s with walks := s.walks ++ [w] } : State).sendMiss r.tsc r.sel r.src r.job r.fn r.acc va

/-- R311: a refused request leaves, and the work that waits for its page goes on to its PERM. -/
def State.refusePage (s : State) (r : PageReq) : State :=
  let hit := fun (c : EngCmd) => c.job == r.job && (match c.page with
    | some v => v * 2 ^ 16 / 2 ^ r.size == r.vpn * 2 ^ 16 / 2 ^ r.size
    | none => false)
  (s.releaseJoined r (fun _ => true)).refuseEngines s.allClusters hit

/-- PRRESP (R310, R311): present, the page is walked again; refused, the joined work goes on to its PERM. The response is that of
every request of its identity. -/
def execPrresp (fn : Nat) (word : W64) (s : State) : Host.Outcome State Fault Refusal :=
  .next (s.fromHost (
    let result := word.toNat / 2 ^ 62
    let mine := fun (r : PageReq) => r.fn.toNat == fn && r.prid == word.toNat % 2 ^ 32 && !r.answered
    let l := s.pageReqs.filter mine
    if bitsAt word.toNat 32 30 ≠ 0 ∨ 2 ≤ result then s
    else if result = 0 then
      l.foldl (fun s r => s.walkAgain r) { s with pageReqs := s.pageReqs.map (fun x => if mine x then { x with answered := true } else x) }
    else l.foldl (fun s r => s.refusePage r) { s with pageReqs := s.pageReqs.filter (fun x => !mine x) }))

/-! ### Attestation (R425) -/

/-- ATTREQ (R408, R425): ignored while a report is being made. -/
def execAttreq (addr : W64) (s : State) : Host.Outcome State Fault Refusal :=
  .next (s.fromHost (
    if s.host.attstat = 2 then s
    else { s with host := { s.host with
      attstat := 2, attBuf := addr, attNonce := (List.range 4).map (s.hostWord addr) } }))

/-- The UP ports as bits 17:0 (R425). -/
def State.upPorts (s : State) : Nat := packDigits 1 (fun n => BitVec.ofBool ((s.port n).st == .up)) 18

/-- The first 0x200 bytes of the report as 64 words (R425). -/
def State.reportHead (s : State) : List W64 :=
  [1, Config.serialNumber] ++ (List.range 4).map (recWord s.host.attNonce) ++ (List.range 9).map (recWord s.health.firmware)
    ++ [Config.serviceEntry, s.gtsWord, BitVec.ofNat 64 s.upPorts, Config.stewardTrapEntry] ++ List.replicate 45 0

/-- The report of 2 KiB. -/
def State.report (s : State) : List W64 :=
  s.reportHead ++ (List.range 64).map (Config.signatureWord (ofWords s.reportHead)) ++ (List.range 64).map Config.modulusWord
    ++ (List.range 64).map Config.golcenWord

/-- ATTESTATION_REPORT_DONE (R425). -/
def execAttestationReportDone (s : State) : Host.Outcome State Fault Refusal :=
  .next (
    if s.host.attstat = 2 then
      { s with
        mem := memWrite s.mem (hostBase + s.host.attBuf.toNat) 2048 (ones 2048) (ofWords s.report)
        host := { s.host with attstat := 1 } }
    else s)

end Sys2Proof.Machine
end

