-- ==== Sys2Proof/Machine/Flit.lean ====
section
/-! DEFINITION. The Tchirrix ports (R339, R343, R345 to R357, R386, R387): packets cut into flits, new flits and markers,
reception, replays, training, and the writes that have a step of their own. -/

namespace Sys2Proof.Machine

/-! ### Failure of a port -/

/-- The unit words of the lanes of a port (R401). -/
def laneUnits (n : Nat) : List W64 := (List.range 8).map (fun i => BitVec.ofNat 64 (4 * 2 ^ 56 + n * 8 + i))

/-- R346, R421: a port goes DOWN by a failure. -/
def State.portFails (s : State) (n : Nat) : State := (s.portLeaves n .down).addTodo (laneUnits n)

/-- R402: PORTBAD. -/
def State.portBad (s : State) (n : Nat) : State := s.setHealth (BitVec.ofNat 64 (2 ^ (46 + n)))

/-! ### Sending (R339, R345, R349 to R352) -/

/-- R338: a packet cut into pieces of 29 words, the last filled with zeros; `f` bounds them. -/
def cutPacket : Nat → List W64 → List (List W64)
  | 0, _ => []
  | f + 1, p =>
    if p.length ≤ 29 then [p ++ List.replicate (29 - p.length) 0] else p.take 29 :: cutPacket f (p.drop 29)

/-- The flits of a packet with their SOP and EOP. -/
def packetFlits (p : List W64) : List (Bool × Bool × List W64) :=
  let l := cutPacket (p.length + 1) p
  l.zipIdx.map (fun x => (x.2 == 0, x.2 + 1 == l.length, x.1))

/-- R339: the port for a destination package, rotating over the usable ones; the gateway of each die keeps its own turn. -/
def State.pickPort (s : State) (die pkg : Nat) : Option Nat :=
  let start := match tfind s.fabric.lastPort (die * 1024 + pkg) with
    | some n => n + 1
    | none => 0
  ((List.range 18).map (fun i => (start + i) % 18)).find? (fun n => (s.port n).usable)

/-- A packet of a die goes to the queue of a port. -/
def State.toPort (s : State) (die n : Nat) (p : List W64) : State :=
  let s1 := s.modPort n (fun q => { q with queue := q.queue ++ packetFlits p, sent := q.sent ++ [p] })
  { s1 with fabric := { s1.fabric with lastPort := tset s1.fabric.lastPort (die * 1024 + pkDpkg p) n } }

/-- R345: a flit's header. -/
def flitHdr (p : Port) (ftype : Nat) (sop eop : Bool) : W64 :=
  BitVec.ofNat 64 (ftype * 2 ^ 60 + p.txB.toNat * 2 ^ 59 + p.fseq.toNat * 2 ^ 47 + p.rxseq.toNat * 2 ^ 35 + p.naks.toNat * 2 ^ 34
    + sop.toNat * 2 ^ 33 + eop.toNat * 2 ^ 32)

/-- R352: the counter has reached the value kept for a marker. -/
def Port.atLimit (p : Port) : Bool := decide (p.tx.lim.toNat - 1 ≤ p.tx.txcnt.toNat)

def Port.otherReady (p : Port) : Bool := (p.slot (!p.txB)).ready

/-- R352: at the limit with the other slot not READY nothing new is sent. -/
def Port.checkLimit (p : Port) : Port := if p.atLimit && !p.otherReady then { p with limstall := true } else p

/-- R346, R349: a new flit: it takes the counter, is kept for replay, and answers a pending NAK. -/
def Port.newFlit (p : Port) (now ftype : Nat) (sop eop : Bool) (payload : List W64) : Port :=
  let k := p.tx
  let p1 := p.setSlot p.txB { k with txcnt := k.txcnt + 1 }
  { p1 with
    replay := p1.replay ++ [Flit.mk (flitHdr p ftype sop eop) k.txcnt payload], fseq := p.fseq + 1, naks := false, lastNew := now }.checkLimit

/-- R351, R352: a marker is due. -/
def Port.markerDue (p : Port) : Bool := p.otherReady && (p.swpend || p.atLimit || p.limstall)

/-- R351: the marker under the old slot, then the new slot. -/
def Port.sendMarker (p : Port) (now : Nat) : Port :=
  let q := p.newFlit now 2 false false (BitVec.ofNat 64 (!p.txB).toNat :: List.replicate 28 0)
  { q with txB := !p.txB, swpend := false, limstall := false }.checkLimit

/-- R353: a marker that no SWITCH asked for is noted with its cycle. -/
def Port.noteAuto (p : Port) (cyc : Nat) : Port := if p.swpend then p else { p with autoAt := some cyc }

/-- The port may send something new. -/
def Port.open (p : Port) : Bool := p.st == .up && decide (p.replay.length < 128)

/-- FLIT_TRANSMIT (R349 to R352): a marker that is due, or the next DATA flit. -/
def execFlitTransmit (port : Nat) (s : State) : Host.Outcome State Fault Refusal :=
  .next (
    let p := s.port port
    let now := s.gtsOf (portDie port)
    if p.open = false then s
    else if p.markerDue then s.setPort port ((p.noteAuto s.cyc).sendMarker now)
    else if p.atLimit then s.setPort port p.checkLimit
    else match p.queue with
      | [] => s
      | (sop, eop, w) :: r => s.setPort port ({ p with queue := r }.newFlit now 1 sop eop w))

/-- IDLE_FLIT (R386). -/
def execIdleFlit (port : Nat) (s : State) : Host.Outcome State Fault Refusal :=
  .next (
    let p := s.port port
    let now := s.gtsOf (portDie port)
    if p.open && !p.markerDue && !p.atLimit && p.queue.isEmpty && (p.naks || decide (p.lastNew + 1000 ≤ now)) then
      s.setPort port (p.newFlit now 0 false false (List.replicate 29 0))
    else s)

/-! ### Replay (R346, R387) -/

/-- R346, R387, R357: the flits from the oldest unacknowledged one are sent again, an attempt; after eight the port fails. -/
def State.replayFrom (s : State) (n : Nat) : State :=
  let p := s.port n
  if p.replay = [] then s
  else if 7 ≤ p.attempts then s.portFails n
  else
    let m := p.replays.toNat + p.replay.length
    s.setPort n { p with
      attempts := p.attempts + 1, replayAt := some (s.gtsOf (portDie n)), replays := if 2 ^ 32 ≤ m then BitVec.allOnes 32 else BitVec.ofNat 32 m }

/-- REPLAY_RETRY (R387): 2 µs after a replay that nothing has acknowledged. -/
def execReplayRetry (port : Nat) (s : State) : Host.Outcome State Fault Refusal :=
  .next (match (s.port port).replayAt with
    | some t => if (s.port port).st = .up ∧ t + 2000 ≤ s.gtsOf (portDie port) then s.replayFrom port else s
    | none => s)

/-! ### Reception (R345, R346, R349, R351, R386) -/

def fltType (h : W64) : Nat := bitsAt h.toNat 60 4
def fltSlot (h : W64) : Bool := h.getLsbD 59
def fltSeq (h : W64) : BitVec 12 := h.extractLsb' 47 12
def fltAck (h : W64) : BitVec 12 := h.extractLsb' 35 12
def fltNak (h : W64) : Bool := h.getLsbD 34
def fltSop (h : W64) : Bool := h.getLsbD 33
def fltEop (h : W64) : Bool := h.getLsbD 32

/-- R346: the flits an ACKSEQ passes are forgotten, and the packets whose last flit is among them are no longer held. -/
def Port.acked (p : Port) (a : BitVec 12) : Port :=
  match p.replay with
  | [] => p
  | f :: _ =>
    let n := (a - fltSeq f.hdr).toNat
    if n = 0 ∨ p.replay.length < n then p
    else
      let ends := ((p.replay.take n).filter (fun f => fltType f.hdr == 1 && fltEop f.hdr)).length
      { p with replay := p.replay.drop n, sent := p.sent.drop ends, attempts := 0, replayAt := none }

/-- R346, R387: what the acknowledgement of an accepted flit does. -/
def State.takeAck (s : State) (n : Nat) (h : W64) : State :=
  let s := s.modPort n (·.acked (fltAck h))
  if fltNak h then
    match (s.port n).replayAt with
    | some t => if s.gtsOf (portDie n) < t + 2000 then s else s.replayFrom n
    | none => s.replayFrom n
  else s

/-- The flit is answered NAK. -/
def State.nakFlit (s : State) (n : Nat) : State := s.modPort n (fun p => { p with naks := true })

/-- R346: an attempt at the expected FSEQ failed; the eighth takes the port down. -/
def State.rxFails (s : State) (n : Nat) : State :=
  let p := s.port n
  if 7 ≤ p.rxTries then s.portFails n else s.setPort n { p with rxTries := p.rxTries + 1, naks := true }

/-- The die whose gateway handles an arriving packet: the target core's for an image, that of the port otherwise. -/
def packetDie (n : Nat) (p : List W64) : Nat :=
  if pkType p = 0 then (if pkAux p = 0 ∧ targetKind (pkAddr p) = 0 then coreDie (targetCore (pkAddr p)) else 0) else portDie n

/-- A DATA flit's words join the packet that arrives; its last flit completes it. -/
def State.takeData (s : State) (n : Nat) (h : W64) (payload : List W64) : State :=
  let asm := (if fltSop h then [] else (s.port n).asm) ++ payload
  if fltEop h then
    let p := asm.take (12 + 8 * (pkXreg asm).toNat + 8 * pkLen asm)
    (s.modPort n (fun q => { q with asm := [] })).modDie (packetDie n p) (fun d => { d with arrived := d.arrived ++ [p] })
  else s.modPort n (fun q => { q with asm := asm })

/-- The marker's slot, if READY (R351). -/
def markerSlot (p : Port) (payload : List W64) : Option Bool :=
  let b := (payload.headD 0).toNat % 256
  if b = 0 ∧ p.slotA.ready then some false else if b = 1 ∧ p.slotB.ready then some true else none

/-- R349, R351: a flit is accepted. -/
def State.acceptFlit (s : State) (n : Nat) (h : W64) (payload : List W64) : State :=
  let p := s.port n
  let k := p.rx
  let p1 := p.setSlot p.rxB { k with rxcnt := k.rxcnt + 1 }
  let rxB := if fltType h = 2 then (markerSlot p payload).getD p.rxB else p.rxB
  let s1 := s.setPort n { p1 with rxseq := p.rxseq + 1, rxTries := 0, rxB := rxB }
  let s2 := if fltType h = 1 then s1.takeData n h payload else s1
  s2.takeAck n h

/-- FLIT_RECEIVE (R345, R346, R351, R386): FSEQ, slot, tag, then the type and what a marker names. -/
def execFlitReceive (port : Nat) (hdr : W64) (payload : List W64) (tagOk : Bool) (s : State) :
    Host.Outcome State Fault Refusal :=
  .next (
    let p := s.port port
    if p.st ≠ .up then s
    else if fltSeq hdr ≠ p.rxseq then s.nakFlit port
    else if fltSlot hdr ≠ p.rxB then s.rxFails port
    else if tagOk = false then
      (s.setPort port { p with authfail := if p.authfail = BitVec.allOnes 16 then p.authfail else p.authfail + 1 }).rxFails port
    else if 3 ≤ fltType hdr ∨ (fltType hdr = 2 ∧ (markerSlot p payload).isNone = true) then s.rxFails port
    else s.acceptFlit port hdr payload)

/-! ### Training (R347, R348) and the end of bring-up (R426) -/

/-- R426: step 6 ends when no port trains any more; step 7 when the GTS is in sync, which on the grandmaster's own package it is
once a port is UP; the report of step 8 is then prepared and the package is ready. -/
def State.bringUp (s : State) : State :=
  let ports := List.range 18
  let s1 : State := if s.health.step = 6 ∧ ports.all (fun n => (s.port n).st != .training) = true then
    { s with health := { s.health with step := 7 } } else s
  let master := s1.health.grandmaster == s1.pkg && ports.any (fun n => (s1.port n).st == .up)
  if s1.health.step = 7 ∧ (s1.health.inSync || master) = true then
    { s1 with health := { s1.health with step := 9, inSync := true, lastSync := s1.gtsOf 0, eolHour := s1.gtsOf 0 / (3600 * 10 ^ 9) } } else s1

/-- R348 step 2: the lanes a port runs on. -/
def goodLanes (g : BitVec 8) : Nat := if g = 0xFF then 8 else if g &&& 0x0F = 0x0F ∨ g &&& 0xF0 = 0xF0 then 4 else 0

/-- R348, R422: training ends, with the good lanes, of which a retired one is none, and what the partner reports. -/
def State.trained (s : State) (port : Nat) (good : BitVec 8) (plane sw : Nat) (partner : BitVec 10) : State :=
  (
    let p := s.port port
    if p.st ≠ .training then s
    else if goodLanes (good &&& ~~~p.bad) = 0 then
      let s1 := s.portFails port
      if s.health.step = 6 then s1.portBad port else s1
    else if plane ≠ port / 3 ∨ sw ≠ port % 3 ∨ partner ≠ s.pkg then
      ((s.portFails port).portBad port).modPort port (fun p => { p with partner := partner })
    else (s.setPort port { p with
      st := .nokey, lanes := goodLanes (good &&& ~~~p.bad), partner := partner, fseq := 0, rxseq := 0, replay := [], naks := false, attempts := 0
      rxTries := 0, replayAt := none, asm := [], entered := s.gtsOf 0 }).portUp port)

/-- TRAINING_COMPLETE (R348, R426). -/
def execTrainingComplete (port : Nat) (good : BitVec 8) (plane sw : Nat) (partner : BitVec 10) (s : State) :
    Host.Outcome State Fault Refusal :=
  .next (s.trained port good plane sw partner).bringUp

/-- TRAINING_TIMEOUT (R348, R426). -/
def execTrainingTimeout (port : Nat) (s : State) : Host.Outcome State Fault Refusal :=
  .next (
    let p := s.port port
    if p.st = .training ∧ p.entered + 10 ^ 9 ≤ s.gtsOf 0 then
      let s1 := s.portFails port
      (if s.health.step = 6 then s1.portBad port else s1).bringUp
    else s)

/-- PORT_RETRY (R347): from bring-up step 6 on, 1 s after the port went DOWN. -/
def execPortRetry (port : Nat) (s : State) : Host.Outcome State Fault Refusal :=
  .next (
    let p := s.port port
    if port < 18 ∧ p.st = .down ∧ 6 ≤ s.health.step ∧ p.entered + 10 ^ 9 ≤ s.gtsOf 0 then s.portLeaves port .training else s)

/-! ### Writes with a step of their own (R350 to R357) -/

/-- R351, R352: a marker that is due leaves at once. -/
def State.markerNow (s : State) (n : Nat) : State :=
  let p := s.port n
  if p.open && p.markerDue then s.setPort n ((p.noteAuto s.cyc).sendMarker (s.gtsOf (portDie n))) else s

/-- SWITCH (R351, R353). -/
def execSwitch (port : Nat) (s : State) : Host.Outcome State Fault Refusal :=
  .next ((s.switchWrite port).markerNow port)

/-- RETRAIN (R347, R356). -/
def execRetrain (port : Nat) (s : State) : Host.Outcome State Fault Refusal :=
  .next (if (s.port port).st = .disabled then s else s.retrainPort port)

/-- CLRERR (R356). -/
def execClrerr (port : Nat) (s : State) : Host.Outcome State Fault Refusal := .next (s.clearErr port)

/-- DISABLE (R347, R356). -/
def execDisable (port : Nat) (on : Bool) (s : State) : Host.Outcome State Fault Refusal := .next (s.disablePort port on)

/-- KS_CTL_READY (R350, R352, R353). -/
def execKsCtlReady (port slot : Nat) (s : State) : Host.Outcome State Fault Refusal :=
  .next (let s1 := s.keyReady port (slot == 1)
    (if (s1.port port).limstall then s1.markerNow port else s1).bringUp)

/-- KS_CTL_EMPTY (R353). -/
def execKsCtlEmpty (port slot : Nat) (s : State) : Host.Outcome State Fault Refusal := .next (s.keyEmpty port (slot == 1))

/-- WERR_CLEAR (R357). -/
def execWerrClear (port : Nat) (s : State) : Host.Outcome State Fault Refusal :=
  .next (s.modPort port (fun p => { p with werr := false }))

end Sys2Proof.Machine
end

