-- ==== Sys2Proof/Machine/Fabric.lean ====
section
/-! DEFINITION. The gateways (R336 to R343): outgoing packets, packets that find no port, arriving packets, and a die-to-die
link that fails. -/

namespace Sys2Proof.Machine

/-! ### Outgoing (R337 to R340) -/

def State.freshRid (s : State) : Nat × State :=
  let n := (s.fabric.nextRid + 1) % 2 ^ 32
  (n, { s with fabric := { s.fabric with nextRid := n } })

/-- R119, R337: a message names its target word; that of HOP.V its address (log 19). -/
def reqAddr (r : Req) : W64 := if r.num ≠ 0 then r.va else if r.mask = 0 then r.target else virtTarget r.va

/-- R338: what an AGENT request carries in image words 1 to 3, and its payload. -/
def reqWords (r : Req) : List W64 :=
  if 64 ≤ r.num then r.ops.take 3 else if r.num = 3 ∧ r.ops.length = 8 then [] else r.ops.take 2
def reqPay (r : Req) : List W64 :=
  if 64 ≤ r.num then r.ops.drop 3 else if r.num = 3 ∧ r.ops.length = 8 then r.ops else []

/-- R337: the byte mask of a line request in AUX. -/
def reqAux (r : Req) : W64 := if r.num = 2 ∨ r.num = 3 then r.mask else 0

/-- R337, R338: the packet of a request sent with a RID. -/
def State.reqPacket (s : State) (r : Req) (rid : Nat) (seq : Option Nat) : List W64 :=
  let id : W64 := r.job ++ BitVec.ofNat 32 rid
  match r.img with
  | some i =>
    [pkHead r.pkg s.pkg.toNat 0 i.fn i.regs.isSome 0 (i.payload.length / 8) seq, reqAddr r, id, reqAux r,
      i.w0, i.w1, i.w2, i.w3, i.w4, i.w5, i.w6, i.w7]
      ++ (match i.regs with
        | some l => (List.range 8).map (fun k => if k < 4 then recWord l k else 0)
        | none => []) ++ i.payload
  | none =>
    let w := reqWords r
    let pay := reqPay r
    [pkHead r.pkg s.pkg.toNat 1 r.fn false 0 (pay.length / 8) none, r.va, id, reqAux r,
      BitVec.ofNat 64 (r.num * 256), recWord w 0, recWord w 1, recWord w 2, 0, r.launch ++ 0#32, s.srcNum r.sid ++ r.tag,
      if pay = [] then 0 else BitVec.ofNat 64 (pay.length / 8 * 2 ^ 50)] ++ pay

/-- R339 step 2: the next SEQ of a stream. -/
def State.nextSeqOf (s : State) (k : List Nat) : Nat := ((s.fabric.nextSeq.find? (fun e => e.1 == k)).map (·.2)).getD 0
def State.takeNextSeq (s : State) (k : List Nat) : State :=
  let n := (s.nextSeqOf k + 1) % 2 ^ 16
  { s with fabric := { s.fabric with nextSeq := (k, n) :: s.fabric.nextSeq.filter (fun e => e.1 != k) } }

/-- R339 step 3, R340: a packet goes to a port, or waits for one. -/
def State.sendOut (s : State) (die : Nat) (p : List W64) : State :=
  match s.pickPort die (pkDpkg p) with
  | some n => s.toPort die n p
  | none => s.queueOut die p

/-- A request leaves: its RID, its SEQ if it is ordered, its port. A resent image keeps its SEQ. -/
def State.launchReq (s : State) (r : Req) : State :=
  let die := coreDie (sidCore r.sid)
  let q := s.freshRid
  let k := streamKey (s.reqPacket r 0 none)
  let ordered := r.img.any (·.ord)
  let seq := if ordered then some (r.seq.getD (s.nextSeqOf k)) else none
  let s1 := if ordered && r.seq.isNone then q.2.takeNextSeq k else q.2
  (s1.putReq { r with net := q.1, st := .sent, seq := seq }).sendOut die (s.reqPacket r q.1 seq)

/-- An answer of a whirligig holder takes a RID when it first leaves (R240, R339). -/
def State.giveRid (s : State) (p : List W64) : List W64 × State :=
  if pkType p = 1 ∧ pkRid p = 0 then
    let q := s.freshRid
    (p.take 2 ++ [pkJob p ++ BitVec.ofNat 32 q.1] ++ p.drop 3, q.2)
  else (p, s)

/-- R335: a request of the same source and class waits for the gateway before it. -/
def State.gatewayBefore (s : State) (idx : Nat) (r : Req) : Bool :=
  let cls := fun (q : Req) => (q.img.map (·.cls)).getD 0
  (s.reqs.take idx).any (fun q => q.st == .queued && q.host.isNone && q.sid == r.sid && cls q == cls r)

/-- GATEWAY_OUTGOING (R335, R339): request `idx` of those not yet sent; past them, packet `idx` less their number of those that wait
for a port. -/
def execGatewayOutgoing (idx : Nat) (s : State) : Host.Outcome State Fault Refusal :=
  .next (match nth s.reqs idx with
    | some r =>
      if r.st ≠ .queued ∨ r.host.isSome ∨ s.gatewayBefore idx r then s
      else if s.orphan r then (s.dropReq r.rid).uncount r
      else s.launchReq r
    | none => match nth s.fabric.out (idx - s.reqs.length) with
      | none => s
      | some o =>
        match s.pickPort o.die (pkDpkg o.pkt) with
        | none => s
        | some n =>
          let q := s.giveRid o.pkt
          ({ q.2 with fabric := { q.2.fabric with out := delAt q.2.fabric.out (idx - s.reqs.length) } } : State).toPort o.die n q.1)

/-- PORT_HOLD_TIMEOUT (R340): a packet for which no port was usable for 10 µs. Answers go on waiting. -/
def execPortHoldTimeout (idx : Nat) (s : State) : Host.Outcome State Fault Refusal :=
  .next (match nth s.fabric.out idx with
    | none => s
    | some o =>
      let now := s.gtsOf o.die
      let answers := pkType o.pkt == 2 || (pkType o.pkt == 1 && decide (68 ≤ pkNum o.pkt))
      if now < o.since + 10000 then s
      else if answers then
        { s with fabric := { s.fabric with out := modAt (fun o => { o with since := now }) s.fabric.out idx } }
      else
        let s1 : State := { s with fabric := { s.fabric with out := delAt s.fabric.out idx } }
        match s1.reqs.find? (fun r => r.host.isNone && r.st == .sent && r.net == pkRid o.pkt) with
        | none => s1
        | some r => s1.answered r (if pkType o.pkt = 0 then stFull else stRnr) 0 0 0)

/-! ### Arriving (R341 to R343) -/

/-- R343: records are kept for 100 µs after the answer. -/
def State.forget (s : State) (die : Nat) : State :=
  { s with fabric := { s.fabric with performed := s.fabric.performed.filter (fun d =>
      d.ans.isNone || decide (s.gtsOf die < d.since + 100000)) } }

/-- The request is recorded as begun. -/
def State.begun (s : State) (die : Nat) (p : List W64) (ans : Option (List W64)) : State :=
  { s with fabric := { s.fabric with performed := s.fabric.performed ++ [Done.mk (pkSpkg p) (pkRid p) ans (s.gtsOf die)] } }

/-- The record table of a source package is full. -/
def State.doneFull (s : State) (pkg : Nat) : Bool := decide (4096 ≤ (s.fabric.performed.filter (fun d => d.pkg == pkg)).length)

/-- R120: the agent implements the handler number. -/
def agentKnows (n : Nat) : Bool := decide (n < 20 ∧ n ≠ 15) || (decide (64 ≤ n) && decide (n ≤ 69))

/-- The request is handed to the remote agent. -/
def State.toAgent (s : State) (die : Nat) (p : List W64) (ans : Option (List W64)) : State :=
  let s1 := s.begun die p ans
  { s1 with fabric := { s1.fabric with agent := s1.fabric.agent ++ [BitVec.ofNat 64 die :: p] } }

/-- R341 steps 4 and 5: an AGENT packet. -/
def State.arriveAgent (s : State) (die : Nat) (p : List W64) : State :=
  let n := pkNum p
  if 68 ≤ n ∧ n ≤ 69 then s.toAgent die p (some [])
  else if agentKnows n = false then s.refuse die p stUnsupported
  else if 64 ≤ n then s.toAgent die p none
  else match s.destTr die p (reqAcc n) true (pkAddr p) with
    | (.ans st aux, s1) => s1.refuseAux die p st aux
    | (.ok _ _, s1) => s1.toAgent die p none

/-- R342: an image of a stream goes on by `pass` if it is unordered or its turn has come, and else waits for its predecessors at
the gateway of the die that keeps the stream; one whose turn has passed was delivered before. -/
def State.inTurn (s : State) (die core : Nat) (p : List W64) (pass : State → State) : State :=
  if !pkOrdf p then pass s
  else
    let k := streamKey p
    let ahead := (pkSeq p + 2 ^ 16 - s.expected die k) % 2 ^ 16
    if ahead = 0 then pass s
    else if 2 ^ 15 ≤ ahead then (s.begun die p none).answer die p stAccept 0 []
    else if 512 ≤ (s.dieAt die).reorder.length then s.refuse die p stFull
    else (s.begun die p none).modDie die (fun v => { v with reorder := v.reorder ++ [(core, p)] })

/-- An image for a core; the gateway of the core's die keeps its order. -/
def State.arriveImage (s : State) (core : Nat) (p : List W64) : State :=
  let die := coreDie core
  s.inTurn die core p (fun s => { s.begun die p none with flight := s.flight ++ [Msg.mk (s.liveCore core) (pkImage p) false (some p)] })

/-- R411 to R413: an image for a ring of this package. -/
def State.arriveRing (s : State) (die : Nat) (p : List W64) : State :=
  match s.ringStatus p with
  | some st => if st = stFull then s.refuse die p st else (s.refuse die p st).consumeSeq die p
  | none => s.inTurn die 0 p (fun s => (s.begun die p none).ringTake die p)

/-- R32: the target word of an arriving image, from a worker slot or a service core. -/
def State.msgTargetOk (s : State) (p : List W64) : Bool :=
  targetOk (pkAddr p) && targetPkg (pkAddr p) == s.pkg.toNat &&
    (!isWorkerCore ((pkSrc p).toNat % 2 ^ 16 / 8) || isWorkerCore (targetCore (pkAddr p)))

/-- R341 step 6: a MSG packet. -/
def State.arriveMsg (s : State) (die : Nat) (p : List W64) : State :=
  if pkVirt p then
    match s.destTr die p .read false (pkVa p) with
    | (.ans st aux, s1) =>
      if st = stRnr then s1.refuseAux die p st aux else (s1.refuseAux die p st aux).consumeSeq die p
    | (.ok pa _, s1) => s1.arriveImage (homeOf pa) p
  else if targetKind (pkAddr p) = 1 then s.arriveRing die p
  else if targetKind (pkAddr p) ≠ 0 ∨ s.msgTargetOk p = false then s.refuse die p stNak
  else s.arriveImage (targetCore (pkAddr p)) p

/-- R344: an answer goes to its request. -/
def State.arriveAnswer (s : State) (p : List W64) : State :=
  match s.reqs.find? (fun r => r.host.isNone && r.st == .sent && r.net == pkRid p) with
  | none => s
  | some r => s.answered r (pkStatus p) (ofWords ((pkPay p).take 8)) (pkWord64 p 1) (pkAux p)

/-- R341 steps 2, 3 and R343. -/
def State.arriveRequest (s : State) (die : Nat) (p : List W64) : State :=
  let back := pkType p == 1 && decide (68 ≤ pkNum p) && decide (pkNum p ≤ 69)
  if !thas s.sched.records (pkJob p).toNat then s.refuse die p stNak
  else match s.fabric.performed.find? (sameReq p) with
    | some d => match d.ans with
      | some (w :: a) => s.queueOut die (w :: a)
      | _ => s
    | none =>
      if !back && s.doneFull (pkSpkg p) then s.refuse die p stRnr
      else if pkType p = 1 then s.arriveAgent die p else s.arriveMsg die p

/-- GATEWAY_ARRIVAL (R341): packet `idx` of those that arrived at a die. -/
def execGatewayArrival (die idx : Nat) (s : State) : Host.Outcome State Fault Refusal :=
  .next (match nth (s.dieAt die).arrived idx with
    | none => s
    | some p =>
      let s1 := (s.modDie die (fun v => { v with arrived := delAt v.arrived idx })).forget die
      if pkBad p then s1.setHealth (BitVec.ofNat 64 (2 ^ 32))
      else if pkType p = 2 then s1.arriveAnswer p
      else s1.arriveRequest die p)

/-- DIE_LINK_FAILURE (R336, R402, R421). -/
def execDieLinkFailure (link : Nat) (s : State) : Host.Outcome State Fault Refusal :=
  .next (
    if 6 ≤ link then s
    else
      let s1 := (s.setHealth (BitVec.ofNat 64 (2 ^ (34 + link)))).addTodo [BitVec.ofNat 64 (5 * 2 ^ 56 + link)]
      { s1 with fabric := { s1.fabric with d2dFailed := setBit s1.fabric.d2dFailed link } })

end Sys2Proof.Machine
end

