-- ==== Sys2Proof/Machine/Health.lean ====
section
/-! DEFINITION. Global time (R416, R417), health (R421 to R423) and bring-up (R424, R426). -/

namespace Sys2Proof.Machine

/-! ### Time (R416, R417) -/

/-- R417: the package leaves sync: SYNCLOST, and the running slice ends. -/
def State.leaveSync (s : State) : State :=
  let s1 := ({ s with health := { s.health with inSync := false } } : State).errorEntry 0 6 (BitVec.ofInt 64 s.health.offset) 0
  match s1.sched.slice with
  | some v => s1.endSlice v
  | none => s1

/-- The package's own steward is the grandmaster. -/
def State.isMaster (s : State) : Bool := s.health.grandmaster == s.pkg

/-- R417: in sync, beyond the offset or the silence it may have. -/
def State.syncGone (s : State) : Bool :=
  s.health.inSync && (decide (80 < s.health.offset.natAbs) || (!s.isMaster && decide (s.health.lastSync + 250000000 ≤ s.gtsOf 0)))

/-- SYNC_MESSAGE (R416, R417): a message gives the offset of the package's GTS, behind the grandmaster's if `early`; the copy is
slewed as time passes (log 1). It arrives over a port that is UP. -/
def execSyncMessage (early : Bool) (ticks : Nat) (s : State) : Host.Outcome State Fault Refusal :=
  .next (
    if (List.range 18).all (fun n => (s.port n).st != .up) then s
    else
    let off : Int := if early then -(ticks : Int) else ticks
    let s1 : State := { s with health := { s.health with offset := off, lastSync := s.gtsOf 0 } }
    if s1.syncGone then s1.leaveSync
    else if !s1.health.inSync && decide (ticks < 50) && decide (7 ≤ s1.health.step) then
      ({ s1 with health := { s1.health with inSync := true } } : State).bringUp
    else s1.bringUp)

/-- SYNC_TIMEOUT (R417). -/
def execSyncTimeout (s : State) : Host.Outcome State Fault Refusal := .next (if s.syncGone then s.leaveSync else s)

/-- R416: the lowest-numbered package with a locked source, or package 0. -/
def lowest (l : List (BitVec 10)) : BitVec 10 :=
  match l with
  | [] => 0
  | a :: r => r.foldl (fun b x => if x.toNat < b.toNat then x else b) a

/-- EXTERNAL_SOURCE_LOCK (R416). -/
def execExternalSourceLock (pkg : BitVec 10) (locked : Bool) (s : State) : Host.Outcome State Fault Refusal :=
  .next (
    let rest := s.health.locked.filter (· != pkg)
    let l := if locked then rest ++ [pkg] else rest
    ({ s with health := { s.health with locked := l, grandmaster := lowest l } } : State).bringUp)

/-! ### Health (R421 to R423) -/

/-- A HEALTH entry (R412). -/
def State.healthEntry (s : State) (unit : W64) (cls : Nat) : State :=
  s.ringEntry 0 5 [unit, BitVec.ofNat 64 cls, s.health.eolhrs.setWidth 64, s.gtsWord]

def State.fenceOnce (s : State) (core : Nat) : State := if (s.coreAt core).fenced then s else s.fenceCore core

/-- R428: the blocks of region rows in a slice-local page, by its unit number: the spares first, from the top of the slice down,
then the parts in the order of their creation, each row by row (log 57). -/
def State.pageBlocks (s : State) (id : Nat) : List (Nat × Nat) :=
  let sl := id % 64
  let k := (2 ^ 23 - 1 - id) / 64
  if k < 32 then []
  else (((s.heldOn sl).foldl (fun (p : Nat × List (Nat × Nat)) r =>
    let n := r.part / 65536
    if p.1 < n then (2 ^ 39, p.2 ++ (List.range 1024).map (fun i => (r.base, (r.rowAt s.pkg.toNat sl (128 * p.1 + i / 8) + 64 * (i % 8)) / 64)))
    else (p.1 - n, p.2)) (k - 32, [])).2)

/-- R247: with no spare left, the blocks of a retired page stay poisoned until their region is destroyed. -/
def State.poisonPage (s : State) (id : Nat) : State :=
  let l := s.pageBlocks id
  { s with
    poison := s.poison ++ (l.map (fun b => (whirlBase + 64 * b.2) / 64)).filter (fun b => !s.poison.contains b)
    regions := s.regions.map (fun r => { r with bad := r.bad ++ (l.filter (fun b => b.1 == r.base && !r.bad.contains b.2)).map (·.2) }) }

/-- R422, R247: a page: one of the spares of the package's HBM, or of the slice for a page that holds region rows. -/
def State.retirePage (s : State) (id : Nat) : State × Bool :=
  let pa := id * 2 ^ 16
  if s.heldFrom ≤ pa then
    let sl := id % 64
    let n := tget 0 s.health.whirlSpares sl
    if n < 32 then ({ s with health := { s.health with whirlSpares := tset s.health.whirlSpares sl (n + 1) } }, true)
    else (s.poisonPage id, false)
  else if s.health.hbmSpares < 2048 then ({ s with health := { s.health with hbmSpares := s.health.hbmSpares + 1 } }, true)
  else (s, false)

/-- R422: a unit that failed is retired; false: no spare is left. -/
def State.retireUnit (s : State) (u : W64) : State × Bool :=
  let id := u.toNat % 2 ^ 32
  match u.toNat / 2 ^ 56 with
  | 1 => (s.fenceOnce (id % 2 ^ 16 / 8), true)
  | 2 =>
    let core := id / 512
    let n := tget 0 s.health.spares core
    if n < 8 then ({ s with health := { s.health with spares := tset s.health.spares core (n + 1) } }, true)
    else (if isWorkerCore core then s.fenceOnce core else s, false)
  | 3 => s.retirePage id
  | 4 =>
    let s1 := s.modPort (id / 8) (fun p => { p with bad := setBit p.bad (id % 8) })
    (if (s.port (id / 8)).st = .disabled then s1 else s1.retrainPort (id / 8), true)
  | 5 => ({ s.setHealth (BitVec.ofNat 64 (2 ^ (34 + id))) with fabric := { s.fabric with d2dFailed := setBit s.fabric.d2dFailed id } }, true)
  | _ => ((List.range 32).foldl (fun s i => s.fenceOnce (id * 64 + i)) s, true)

/-- HEALTH_SELFTEST (R421, R422): the steward's test of a unit that had an error. One that SELFT does not make, of a live worker
core or of no unit (R401), is reported with class TRANSIENT (DESIGN CHOICE, log 68). -/
def execHealthSelftest (unit : W64) (pass : Bool) (s : State) : Host.Outcome State Fault Refusal :=
  .next (
    if !s.health.todo.contains unit then s
    else
      let s1 : State := { s with health := { s.health with todo := s.health.todo.erase unit } }
      match s1.unitResult unit with
      | some k => (s1.setStres unit k).healthEntry unit 0
      | none =>
        if pass then (s1.setStres unit 0).healthEntry unit 0
        else
          let r := (s1.setStres unit 1).retireUnit unit
          r.1.healthEntry unit (if r.2 then 1 else 2))

/-- CORRECTABLE_ERROR (R246, R421): the 16th of a unit within 24 hours. -/
def execCorrectableError (unit : W64) (s : State) : Host.Outcome State Fault Refusal :=
  .next (
    let now := s.gtsOf 0
    let l := s.health.corr.filter (fun e => decide (now < e.2 + 86400 * 10 ^ 9)) ++ [(unit, now)]
    if 16 ≤ (l.filter (fun e => e.1 == unit)).length then
      ({ s with health := { s.health with corr := l.filter (fun e => e.1 != unit) } } : State).addTodo [unit]
    else { s with health := { s.health with corr := l } })

/-- EOL_UPDATE (R423): at each whole hour of the GTS, once the package is ready. -/
def execEolUpdate (s : State) : Host.Outcome State Fault Refusal :=
  .next (
    let hour := s.gtsOf 0 / (3600 * 10 ^ 9)
    if s.health.step ≠ 9 ∨ hour ≤ s.health.eolHour then s
    else
      let n := Config.eolPrediction hour
      let s1 : State := { s with health := { s.health with eolhrs := n, eolHour := hour } }
      if n.toNat < 8760 ∧ s.health.eolBelow = false then
        ({ s1 with health := { s1.health with eolBelow := true } } : State).healthEntry 0 3
      else s1)

/-! ### Bring-up (R424, R426) -/

/-- A number as `n` bytes, the most significant first (R424). -/
def bytesOf (n x : Nat) : List (BitVec 8) := (List.range n).map (fun i => BitVec.ofNat 8 (x / 2 ^ (8 * (n - 1 - i))))
def ofBytesBE (l : List (BitVec 8)) : Nat := l.foldl (fun x b => 256 * x + b.toNat) 0
def sha (l : List (BitVec 8)) : List (BitVec 8) := bytesOf 64 (Config.sha512 l).toNat

/-- The mask of MGF1 with SHA-512: `n` bytes from a seed (R424). -/
def mgf1 (seed : List (BitVec 8)) (n : Nat) : List (BitVec 8) :=
  ((List.range ((n + 63) / 64)).flatMap (fun i => sha (seed ++ bytesOf 4 i))).take n

/-- RSASSA-PSS with SHA-512, MGF1 with SHA-512 and a 64-byte salt: `sig` to the power 65,537 modulo the key encodes the message
(R424, log 82). -/
def pssOk (key sig : Nat) (msg : List (BitVec 8)) : Bool :=
  let em := bytesOf 512 ((List.range 16).foldl (fun x _ => x * x % key) sig * sig % key)
  let h := (em.drop 447).take 64
  let db := bytesOf 447 (ofBytesBE (List.zipWith (fun x y => x ^^^ y) (em.take 447) (mgf1 h 447)) % 2 ^ 3575)
  decide (sig < key) && em.drop 511 == [0xBC] && decide ((em.headD 0).toNat < 128) && db.take 383 == List.replicate 382 0 ++ [1] &&
    h == sha (List.replicate 8 0 ++ sha msg ++ db.drop 383)

/-- R424: the error code of the firmware check, the checks in the order of the codes (log 82); 0: the image is accepted. -/
def firmwareCode (image : Option FwImage) : Nat :=
  match image with
  | none => 1
  | some f =>
    if Config.sha512 (bytesOf 512 f.key.toNat) ≠ Config.fusedDigest then 2
    else if f.version < Config.rollbackFloor then 3
    else if pssOk f.key.toNat f.signature.toNat (f.header ++ sha f.body) then 0
    else 4

/-- R425: what a report says of the running firmware: its digest (log 82), its version and the rollback floor. -/
def firmwareWords (image : Option FwImage) : List W64 :=
  match image with
  | none => []
  | some f =>
    let d := sha (f.header ++ f.body)
    (List.range 8).map (fun i => BitVec.ofNat 64 (ofBytesBE ((d.drop (8 * i)).take 8).reverse)) ++ [Config.rollbackFloor ++ f.version]

/-- POWER_GOOD (R424, R426): steps 2 and 3, with the image in the flash, and with the error code of HBM training (the failing stack
of 8, + 1; 0 is success). -/
def execPowerGood (image : Option FwImage) (hbmFail : Nat) (s : State) : Host.Outcome State Fault Refusal :=
  .next (
    if 3 < s.health.step ∨ 8 < hbmFail then s
    else if firmwareCode image ≠ 0 then { s with health := { s.health with step := 2, errCode := firmwareCode image } }
    else
      let s1 : State := { s with health := { s.health with firmware := firmwareWords image } }
      if hbmFail ≠ 0 then { s1 with health := { s1.health with step := 3, errCode := hbmFail } }
      else { s1 with health := { s1.health with step := 4, errCode := 0 } })

/-- SMBUS_STATUS_READ (R426): the step and its error code. -/
def execSmbusStatusRead (s : State) : Host.Outcome State Fault Refusal :=
  .next { s with health := { s.health with smbus := s.health.smbus ++ [(s.health.step, s.health.errCode)] } }

end Sys2Proof.Machine
end

