-- ==== Sys2Proof/Machine/Int.lean ====
section
/-! DEFINITION. Scalar integer arithmetic and logic, immediates, bit fields, compares, predicates and select (R97 to
R103). -/

namespace Sys2Proof.Machine

/-! ### Majors 0x01 and 0x02 (R97 to R99) -/

/-- R98: an ALU or MULDIV instruction. -/
def aluExec (op : AluOp) (d a b : BitVec 5) (w : BitVec 2) (n : BitVec 1) (g : BitVec 4) (s : State) :
    Host.Outcome State Fault Refusal :=
  s.guarded g 4 (fun s => s.setX d (alu64 op w n (s.x a) (s.x b)))

/-- ADD (R98). -/
def execAdd (d a b : BitVec 5) (w : BitVec 2) (n : BitVec 1) (g : BitVec 4) (s : State) :
    Host.Outcome State Fault Refusal :=
  aluExec .add d a b w n g s

/-- SUB (R98). -/
def execSub (d a b : BitVec 5) (w : BitVec 2) (n : BitVec 1) (g : BitVec 4) (s : State) :
    Host.Outcome State Fault Refusal :=
  aluExec .sub d a b w n g s

/-- AND (R98). -/
def execAnd (d a b : BitVec 5) (w : BitVec 2) (n : BitVec 1) (g : BitVec 4) (s : State) :
    Host.Outcome State Fault Refusal :=
  aluExec .and d a b w n g s

/-- OR (R98). -/
def execOr (d a b : BitVec 5) (w : BitVec 2) (n : BitVec 1) (g : BitVec 4) (s : State) :
    Host.Outcome State Fault Refusal :=
  aluExec .or d a b w n g s

/-- XOR (R98). -/
def execXor (d a b : BitVec 5) (w : BitVec 2) (n : BitVec 1) (g : BitVec 4) (s : State) :
    Host.Outcome State Fault Refusal :=
  aluExec .xor d a b w n g s

/-- ANDN (R98). -/
def execAndn (d a b : BitVec 5) (w : BitVec 2) (n : BitVec 1) (g : BitVec 4) (s : State) :
    Host.Outcome State Fault Refusal :=
  aluExec .andn d a b w n g s

/-- SHL (R98). -/
def execShl (d a b : BitVec 5) (w : BitVec 2) (n : BitVec 1) (g : BitVec 4) (s : State) :
    Host.Outcome State Fault Refusal :=
  aluExec .shl d a b w n g s

/-- SHR (R98). -/
def execShr (d a b : BitVec 5) (w : BitVec 2) (n : BitVec 1) (g : BitVec 4) (s : State) :
    Host.Outcome State Fault Refusal :=
  aluExec .shr d a b w n g s

/-- SRA (R98). -/
def execSra (d a b : BitVec 5) (w : BitVec 2) (n : BitVec 1) (g : BitVec 4) (s : State) :
    Host.Outcome State Fault Refusal :=
  aluExec .sra d a b w n g s

/-- ROL (R98). -/
def execRol (d a b : BitVec 5) (w : BitVec 2) (n : BitVec 1) (g : BitVec 4) (s : State) :
    Host.Outcome State Fault Refusal :=
  aluExec .rol d a b w n g s

/-- MIN (R98). -/
def execMin (d a b : BitVec 5) (w : BitVec 2) (n : BitVec 1) (g : BitVec 4) (s : State) :
    Host.Outcome State Fault Refusal :=
  aluExec .min d a b w n g s

/-- MAX (R98). -/
def execMax (d a b : BitVec 5) (w : BitVec 2) (n : BitVec 1) (g : BitVec 4) (s : State) :
    Host.Outcome State Fault Refusal :=
  aluExec .max d a b w n g s

/-- MINN (R98). -/
def execMinn (d a b : BitVec 5) (w : BitVec 2) (n : BitVec 1) (g : BitVec 4) (s : State) :
    Host.Outcome State Fault Refusal :=
  aluExec .minn d a b w n g s

/-- MAXN (R98). -/
def execMaxn (d a b : BitVec 5) (w : BitVec 2) (n : BitVec 1) (g : BitVec 4) (s : State) :
    Host.Outcome State Fault Refusal :=
  aluExec .maxn d a b w n g s

/-- MUL (R98). -/
def execMul (d a b : BitVec 5) (w : BitVec 2) (n : BitVec 1) (g : BitVec 4) (s : State) :
    Host.Outcome State Fault Refusal :=
  aluExec .mul d a b w n g s

/-- MULH (R98). -/
def execMulh (d a b : BitVec 5) (w : BitVec 2) (n : BitVec 1) (g : BitVec 4) (s : State) :
    Host.Outcome State Fault Refusal :=
  aluExec .mulh d a b w n g s

/-- MULHN (R98). -/
def execMulhn (d a b : BitVec 5) (w : BitVec 2) (n : BitVec 1) (g : BitVec 4) (s : State) :
    Host.Outcome State Fault Refusal :=
  aluExec .mulhn d a b w n g s

/-- DIV (R98). -/
def execDiv (d a b : BitVec 5) (w : BitVec 2) (n : BitVec 1) (g : BitVec 4) (s : State) :
    Host.Outcome State Fault Refusal :=
  aluExec .div d a b w n g s

/-- DIVN (R98). -/
def execDivn (d a b : BitVec 5) (w : BitVec 2) (n : BitVec 1) (g : BitVec 4) (s : State) :
    Host.Outcome State Fault Refusal :=
  aluExec .divn d a b w n g s

/-- REM (R98). -/
def execRem (d a b : BitVec 5) (w : BitVec 2) (n : BitVec 1) (g : BitVec 4) (s : State) :
    Host.Outcome State Fault Refusal :=
  aluExec .rem d a b w n g s

/-- REMN (R98). -/
def execRemn (d a b : BitVec 5) (w : BitVec 2) (n : BitVec 1) (g : BitVec 4) (s : State) :
    Host.Outcome State Fault Refusal :=
  aluExec .remn d a b w n g s

/-- CLZ (R98): one source. -/
def execClz (d a : BitVec 5) (w : BitVec 2) (n : BitVec 1) (g : BitVec 4) (s : State) :
    Host.Outcome State Fault Refusal :=
  aluExec .clz d a a w n g s

/-- CTZ (R98): one source. -/
def execCtz (d a : BitVec 5) (w : BitVec 2) (n : BitVec 1) (g : BitVec 4) (s : State) :
    Host.Outcome State Fault Refusal :=
  aluExec .ctz d a a w n g s

/-- POPC (R98): one source. -/
def execPopc (d a : BitVec 5) (w : BitVec 2) (n : BitVec 1) (g : BitVec 4) (s : State) :
    Host.Outcome State Fault Refusal :=
  aluExec .popc d a a w n g s

/-- BSWAP (R98): one source. -/
def execBswap (d a : BitVec 5) (w : BitVec 2) (n : BitVec 1) (g : BitVec 4) (s : State) :
    Host.Outcome State Fault Refusal :=
  aluExec .bswap d a a w n g s

/-! ### Immediate forms (R100) -/

/-- X[d] := f X[a]. -/
def immExec (f : W64 → W64) (d a : BitVec 5) (g : BitVec 4) (s : State) : Host.Outcome State Fault Refusal :=
  s.guarded g 4 (fun s => s.setX d (f (s.x a)))

/-- ADDI (R100). -/
def execAddi (d a : BitVec 5) (i : BitVec 12) (g : BitVec 4) (s : State) : Host.Outcome State Fault Refusal :=
  immExec (· + sext64 i) d a g s

/-- ANDI (R100). -/
def execAndi (d a : BitVec 5) (i : BitVec 10) (g : BitVec 4) (s : State) : Host.Outcome State Fault Refusal :=
  immExec (· &&& zext64 i) d a g s

/-- ORI (R100). -/
def execOri (d a : BitVec 5) (i : BitVec 10) (g : BitVec 4) (s : State) : Host.Outcome State Fault Refusal :=
  immExec (· ||| zext64 i) d a g s

/-- XORI (R100). -/
def execXori (d a : BitVec 5) (i : BitVec 10) (g : BitVec 4) (s : State) : Host.Outcome State Fault Refusal :=
  immExec (· ^^^ zext64 i) d a g s

/-- SHLI (R100). -/
def execShli (d a : BitVec 5) (sh : BitVec 6) (g : BitVec 4) (s : State) : Host.Outcome State Fault Refusal :=
  immExec (· <<< sh.toNat) d a g s

/-- SHRI (R100). -/
def execShri (d a : BitVec 5) (sh : BitVec 6) (g : BitVec 4) (s : State) : Host.Outcome State Fault Refusal :=
  immExec (· >>> sh.toNat) d a g s

/-- SRAI (R100). -/
def execSrai (d a : BitVec 5) (sh : BitVec 6) (g : BitVec 4) (s : State) : Host.Outcome State Fault Refusal :=
  immExec (·.sshiftRight sh.toNat) d a g s

/-- LIU (R100). -/
def execLiu (d : BitVec 5) (i : BitVec 17) (g : BitVec 4) (s : State) : Host.Outcome State Fault Refusal :=
  s.guarded g 4 (fun s => s.setX d (sext64 i <<< 15))

/-- ADDPC (R100). -/
def execAddpc (d : BitVec 5) (i : BitVec 17) (g : BitVec 4) (s : State) : Host.Outcome State Fault Refusal :=
  s.guarded g 4 (fun s => s.setX d (s.pcPlus i))

/-! ### Fields (R101) -/

/-- EXTF (R101). -/
def execExtf (d a : BitVec 5) (w : BitVec 2) (n : BitVec 1) (p : BitVec 6) (g : BitVec 4) (s : State) :
    Host.Outcome State Fault Refusal :=
  immExec (extractField w n p.toNat) d a g s

/-- INSF (R101): the other bits of X[d] are kept, and n has no effect. -/
def execInsf (d a : BitVec 5) (w : BitVec 2) (_n : BitVec 1) (p : BitVec 6) (g : BitVec 4) (s : State) :
    Host.Outcome State Fault Refusal :=
  s.guarded g 4 (fun s => s.setX d (insertField w p.toNat (s.x d) (s.x a)))

/-- SEXT (R101). -/
def execSext (d a : BitVec 5) (w : BitVec 2) (g : BitVec 4) (s : State) : Host.Outcome State Fault Refusal :=
  immExec (extractField w 0 0) d a g s

/-- ZEXT (R101). -/
def execZext (d a : BitVec 5) (w : BitVec 2) (g : BitVec 4) (s : State) : Host.Outcome State Fault Refusal :=
  immExec (extractField w 1 0) d a g s

/-! ### Compare, predicates and select (R102, R103) -/

/-- All sixteen bits of a predicate hold one result (R84). -/
def allBits (b : Bool) : BitVec 16 := if b then 0xFFFF else 0

/-- CMP (R102). -/
def execCmp (p : BitVec 3) (a b : BitVec 5) (w : BitVec 2) (n : BitVec 1) (c : BitVec 3) (g : BitVec 4) (s : State) :
    Host.Outcome State Fault Refusal :=
  s.guarded g 4 (fun s =>
    s.setP p (allBits (intCond c n ((s.x a).setWidth (opWidth w)) ((s.x b).setWidth (opWidth w)))))

/-- CMPI (R102). -/
def execCmpi (n : BitVec 1) (p : BitVec 3) (a : BitVec 5) (c : BitVec 3) (i : BitVec 9) (g : BitVec 4) (s : State) :
    Host.Outcome State Fault Refusal :=
  s.guarded g 4 (fun s => s.setP p (allBits (intCond c n (s.x a) (sext64 i))))

/-- A lane-guarded predicate write of all sixteen bits (R84, R103). -/
def predExec (d : BitVec 3) (v : BitVec 16) (g : BitVec 4) (s : State) : Host.Outcome State Fault Refusal :=
  .next ((s.setP d ((v &&& s.guard g) ||| (s.p d &&& ~~~s.guard g))).retire 4)

/-- PAND (R103). -/
def execPand (d a b : BitVec 3) (g : BitVec 4) (s : State) : Host.Outcome State Fault Refusal :=
  predExec d (s.p a &&& s.p b) g s

/-- POR (R103). -/
def execPor (d a b : BitVec 3) (g : BitVec 4) (s : State) : Host.Outcome State Fault Refusal :=
  predExec d (s.p a ||| s.p b) g s

/-- PXOR (R103). -/
def execPxor (d a b : BitVec 3) (g : BitVec 4) (s : State) : Host.Outcome State Fault Refusal :=
  predExec d (s.p a ^^^ s.p b) g s

/-- PNOT (R103). -/
def execPnot (d a : BitVec 3) (g : BitVec 4) (s : State) : Host.Outcome State Fault Refusal :=
  predExec d (~~~s.p a) g s

/-- SEL (R103). -/
def execSel (d a b : BitVec 5) (q : BitVec 3) (g : BitVec 4) (s : State) : Host.Outcome State Fault Refusal :=
  s.guarded g 4 (fun s => s.setX d (if (s.p q).getLsbD 0 then s.x a else s.x b))

/-- PMOVX (R103). -/
def execPmovx (d : BitVec 5) (a : BitVec 3) (g : BitVec 4) (s : State) : Host.Outcome State Fault Refusal :=
  s.guarded g 4 (fun s => s.setX d (zext64 (s.p a)))

/-- XMOVP (R103). -/
def execXmovp (d : BitVec 3) (a : BitVec 5) (g : BitVec 4) (s : State) : Host.Outcome State Fault Refusal :=
  predExec d ((s.x a).setWidth 16) g s

end Sys2Proof.Machine
end

