-- ==== Sys2Proof/Machine/Matrix.lean ====
section
/-! DEFINITION. The matrix instructions (R364 to R384): loading, zeroing and storing, multiplies, rows and scales, claims,
gangs and the ring; the execution of queued commands. -/

namespace Sys2Proof.Machine

/-! ### Checks at issue -/

/-- R370: the issuing task holds a claim; one that MFREE is to return is held until it returns. -/
def State.holds (s : State) (d : BitVec 3) : Bool :=
  RegFile.read (s.coreAt s.core).claim d == some s.slot.tid

/-- R369: the record of a latch says that this slot loaded it in this run, with a format. -/
def State.owns (s : State) (o : Option (Nat × Nat × Nat)) (fmt : Nat) : Bool := o == some (fmt, s.cur, s.slot.run)

/-- R378: the latches a pair reads are this run's, with its formats. -/
def State.latchesOk (s : State) (p : Nat) : Bool :=
  let c := s.coreAt s.core
  s.owns c.ownA (pairA p) && s.owns c.ownB (pairB p) && (p != 4 || s.owns c.ownBhi (pairB p))

/-- R374, R375: every page of a command's range, translated at issue; only LOCAL pages and scratchpads are allowed. -/
def State.cmdPages (s : State) (acc : Acc) : Nat → Nat → Nat → Res (List Place)
  | 0, _, _ => .ok []
  | f + 1, va, n => do
    let k := min n (2 ^ 16 - va % 2 ^ 16)
    let p ← s.place acc (BitVec.ofNat 64 va) k
    trapIf p.away.isSome .perm (BitVec.ofNat 64 va)
    let ps ← if n ≤ k then .ok [] else s.cmdPages acc f (va + k) (n - k)
    .ok (p :: ps)

/-- R371: both queue entries are taken: a stall that is no wait. -/
def State.queueFull (s : State) : Res Unit := waitIf (decide (2 ≤ (s.coreAt s.core).cmds.length)) 0 0

/-- R371: the command takes a queue entry and the instruction retires. -/
def State.pushCmd (s : State) (op : MOp) : State :=
  (s.modCore s.core (fun c => { c with cmds := c.cmds ++ [⟨op, s.cur, s.slot.tid, s.slot.run, s.slot.job⟩] })).retire 4

/-! ### Loading, zeroing, storing -/

/-- R369: the record of the latch half a load names. -/
def recordLoad (toB : Bool) (lay : W64) (r : Nat × Nat × Nat) (c : CoreSt) : CoreSt :=
  if !toB then { c with ownA := some r } else if layHi lay then { c with ownBhi := some r } else { c with ownB := some r }

/-- MLDA and MLDB (R375). -/
def loadTile (toB : Bool) (a b : BitVec 5) (g : BitVec 4) (s : State) : Host.Outcome State Fault Refusal :=
  s.attempt g 4 (do
    s.workerOnly
    let lay := s.x b
    s.illegalIf (layoutBad toB lay)
    let va ← checkAddr (s.x a).toNat (loadBytes lay) 64
    let pages ← s.cmdPages .read 3 va.toNat (loadBytes lay)
    s.queueFull
    let t := (s.touchRange s.core s.slot.job va.toNat (loadBytes lay)).modCore s.core (recordLoad toB lay (layFmt lay, s.cur, s.slot.run))
    .ok (t.pushCmd (.load toB lay va pages)))

/-- MLDA (R375). -/
def execMlda (a b : BitVec 5) (g : BitVec 4) (s : State) : Host.Outcome State Fault Refusal := loadTile false a b g s

/-- MLDB (R375). -/
def execMldb (a b : BitVec 5) (g : BitVec 4) (s : State) : Host.Outcome State Fault Refusal := loadTile true a b g s

/-- MZERO (R376). -/
def execMzero (d : BitVec 3) (g : BitVec 4) (s : State) : Host.Outcome State Fault Refusal :=
  s.attempt g 4 (do
    s.workerOnly
    s.illegalIf (!s.holds d)
    s.queueFull
    .ok (s.pushCmd (.zero d)))

/-- MST and MST.W (R377). -/
def storeTile (wide : Bool) (d : BitVec 3) (a : BitVec 5) (g : BitVec 4) (s : State) : Host.Outcome State Fault Refusal :=
  s.attempt g 4 (do
    s.workerOnly
    s.illegalIf ((wide && d.getLsbD 0) || !s.holds d || (wide && !s.holds (d + 1)))
    let n := if wide then 8192 else 4096
    let va ← checkAddr (s.x a).toNat n 64
    let pages ← s.cmdPages .write 3 va.toNat n
    s.queueFull
    .ok ((s.touchRange s.core s.slot.job va.toNat n).pushCmd (.store wide d va pages)))

/-- MST (R377). -/
def execMst (d : BitVec 3) (a : BitVec 5) (g : BitVec 4) (s : State) : Host.Outcome State Fault Refusal :=
  storeTile false d a g s

/-- MST.W (R377). -/
def execMstW (d : BitVec 3) (a : BitVec 5) (g : BitVec 4) (s : State) : Host.Outcome State Fault Refusal :=
  storeTile true d a g s

/-! ### Multiplying -/

/-- MMA with a pair code (R378): the scale registers are captured at issue. -/
def mmaExec (p : Nat) (d a b : BitVec 3) (g : BitVec 4) (s : State) : Host.Outcome State Fault Refusal :=
  s.attempt g 4 (do
    s.workerOnly
    s.illegalIf (!s.holds d || (p == 8 && (d.getLsbD 0 || !s.holds (d + 1))))
    s.illegalIf (!s.latchesOk p)
    s.queueFull
    .ok (s.pushCmd (.mma p d (s.e a) (s.e b))))

/-- MMA.E4E4 (R378). -/
def execMmaE4e4 (d a b : BitVec 3) (g : BitVec 4) (s : State) : Host.Outcome State Fault Refusal := mmaExec 0 d a b g s

/-- MMA.E4E5 (R378). -/
def execMmaE4e5 (d a b : BitVec 3) (g : BitVec 4) (s : State) : Host.Outcome State Fault Refusal := mmaExec 1 d a b g s

/-- MMA.E5E4 (R378). -/
def execMmaE5e4 (d a b : BitVec 3) (g : BitVec 4) (s : State) : Host.Outcome State Fault Refusal := mmaExec 2 d a b g s

/-- MMA.E5E5 (R378). -/
def execMmaE5e5 (d a b : BitVec 3) (g : BitVec 4) (s : State) : Host.Outcome State Fault Refusal := mmaExec 3 d a b g s

/-- MMA.Q4E4 (R378). -/
def execMmaQ4e4 (d a b : BitVec 3) (g : BitVec 4) (s : State) : Host.Outcome State Fault Refusal := mmaExec 4 d a b g s

/-- MMA.BF (R378). -/
def execMmaBf (d : BitVec 3) (g : BitVec 4) (s : State) : Host.Outcome State Fault Refusal := mmaExec 5 d 0 0 g s

/-- MMA.HF (R378). -/
def execMmaHf (d : BitVec 3) (g : BitVec 4) (s : State) : Host.Outcome State Fault Refusal := mmaExec 6 d 0 0 g s

/-- MMA.F32 (R378). -/
def execMmaF32 (d : BitVec 3) (g : BitVec 4) (s : State) : Host.Outcome State Fault Refusal := mmaExec 7 d 0 0 g s

/-- MMA.F64 (R378). -/
def execMmaF64 (d : BitVec 3) (g : BitVec 4) (s : State) : Host.Outcome State Fault Refusal := mmaExec 8 d 0 0 g s

/-- MMA.I8 (R378). -/
def execMmaI8 (d : BitVec 3) (g : BitVec 4) (s : State) : Host.Outcome State Fault Refusal := mmaExec 9 d 0 0 g s

/-! ### The troupe -/

/-- The RMMA a slot stands at. -/
def Slot.ringPair (t : Slot) : Option (Nat × BitVec 3 × BitVec 3 × W32) := match t.pend with
  | some (.ring p a b w) => some (p, a, b, w)
  | _ => none

/-- The members of a troupe's gang that stand at an RMMA: slot, pair, scale registers, word. -/
def State.standing (s : State) (tr : Nat) : List (Nat × Nat × BitVec 3 × BitVec 3 × W32) :=
  (s.gangAt tr).seats.filterMap (fun e => (s.slotOfTid e.2).bind (fun sid => (s.slotAt sid).ringPair.map (fun r => (sid, r))))

/-- R382: when all eight members stand at their RMMAs, they capture their scales and queue, or trap where their pairs
differ. -/
def State.ringGo (s : State) (tr : Nat) : State :=
  let l := s.standing tr
  if (s.gangAt tr).formed ∧ l.length = 8 then
    if l.all (fun m => m.2.1 == (l.headD (0, 0, 0, 0, 0)).2.1) then
      if l.all (fun m => decide ((s.coreAt (sidCore m.1)).cmds.length < 2)) then
        l.foldl (fun s m =>
          let t := s.slotAt m.1
          let op := MOp.rmma m.2.1 (RegFile.read t.e m.2.2.1) (RegFile.read t.e m.2.2.2.1)
          (s.modCore (sidCore m.1) (fun c => { c with cmds := c.cmds ++ [⟨op, m.1, t.tid, t.run, t.job⟩] })).retireAt m.1 (t.pc + 4)) s
      else s
    else l.foldl (fun s m => s.takeTrap m.1 .illegal (m.2.2.2.2.setWidth 64)) (s.setGang tr (s.gangAt tr).dissolve)
  else s

/-- The troupe and position of the issuing core. -/
def State.troupe (s : State) : Nat := coreTroupe s.core
def State.position (s : State) : Nat := s.core % 8

/-- RMMA with a pair code (R382): it stands at issue. -/
def rmmaExec (p : Nat) (a b : BitVec 3) (g : BitVec 4) (s : State) : Host.Outcome State Fault Refusal :=
  s.attempt g 4 (do
    s.workerOnly
    let gang := s.gangAt s.troupe
    s.illegalIf (!(gang.formed && gang.seats.contains (s.position, s.slot.tid)))
    s.illegalIf (!((List.range 8).all (fun i => s.holds (BitVec.ofNat 3 i))))
    s.illegalIf (!s.latchesOk p)
    .ok (((s.startWait 13 0 0).mod (fun t => { t with pend := some (.ring p a b s.ir) })).ringGo s.troupe))

/-- RMMA.E4E4 (R382). -/
def execRmmaE4e4 (a b : BitVec 3) (g : BitVec 4) (s : State) : Host.Outcome State Fault Refusal := rmmaExec 0 a b g s

/-- RMMA.E4E5 (R382). -/
def execRmmaE4e5 (a b : BitVec 3) (g : BitVec 4) (s : State) : Host.Outcome State Fault Refusal := rmmaExec 1 a b g s

/-- RMMA.E5E4 (R382). -/
def execRmmaE5e4 (a b : BitVec 3) (g : BitVec 4) (s : State) : Host.Outcome State Fault Refusal := rmmaExec 2 a b g s

/-- RMMA.E5E5 (R382). -/
def execRmmaE5e5 (a b : BitVec 3) (g : BitVec 4) (s : State) : Host.Outcome State Fault Refusal := rmmaExec 3 a b g s

/-- RMMA.Q4E4 (R382). -/
def execRmmaQ4e4 (a b : BitVec 3) (g : BitVec 4) (s : State) : Host.Outcome State Fault Refusal := rmmaExec 4 a b g s

/-- RMMA.BF (R382). -/
def execRmmaBf (g : BitVec 4) (s : State) : Host.Outcome State Fault Refusal := rmmaExec 5 0 0 g s

/-- RMMA.HF (R382). -/
def execRmmaHf (g : BitVec 4) (s : State) : Host.Outcome State Fault Refusal := rmmaExec 6 0 0 g s

/-- RMMA.F32 (R382). -/
def execRmmaF32 (g : BitVec 4) (s : State) : Host.Outcome State Fault Refusal := rmmaExec 7 0 0 g s

/-- RMMA.I8 (R382). -/
def execRmmaI8 (g : BitVec 4) (s : State) : Host.Outcome State Fault Refusal := rmmaExec 9 0 0 g s

/-- R381: an arrival is seated; the eighth forms the gang and every MGANG retires. -/
def State.seat (s : State) : State :=
  let g := s.gangAt s.troupe
  let g' : Gang := { g with seats := g.seats ++ [(s.position, s.slot.tid)] }
  let s1 := (s.startWait 13 0 0).mod (fun t => { t with pend := some .gang })
  if g'.seats.length = 8 then
    g'.seats.foldl (fun s e => s.retireTask e.2 4 id) (s1.setGang s.troupe { g' with formed := true })
  else s1.setGang s.troupe g'

/-- MGANG (R381). -/
def execMgang (g : BitVec 4) (s : State) : Host.Outcome State Fault Refusal :=
  s.attempt g 4 (do
    s.workerOnly
    s.illegalIf (!s.slot.cmtd)
    waitIf ((s.gangAt s.troupe).seats.any (fun e => e.1 == s.position)) 13 0
    .ok s.seat)

/-! ### Major 0x33 -/

/-- MWAIT (R380): every command of the thread has completed; an uncorrectable error is consumed here (R374). -/
def execMwait (g : BitVec 4) (s : State) : Host.Outcome State Fault Refusal :=
  s.attempt g 4 (do
    s.workerOnly
    waitIf ((s.coreAt s.core).cmds.any (fun m => m.tid == s.slot.tid)) 0 0
    match s.slot.latchErr with
    | some va => .ok (((s.reportAt s.cur .mcheck va).mod (fun t => { t with latchErr := none })).takeTrap s.cur .mcheck va)
    | none => .ok (s.retire 4))

/-- MRD (R379): the accumulator as the commands completed so far left it (R372). -/
def execMrd (d : BitVec 5) (a : BitVec 3) (b : BitVec 5) (g : BitVec 4) (s : State) : Host.Outcome State Fault Refusal :=
  s.finish (do
    s.boundIf [d]
    if s.runs g then do
      s.workerOnly
      let x := (s.x b).toNat
      s.illegalIf (decide (64 ≤ x) || !s.holds a)
      let c := s.coreAt s.core
      waitIf ((s.gangAt s.troupe).running && (headRmma c).isSome) 0 0
      .ok ((s.setV d (ofLanes 32 (fun l => accElem (c.getAcc a) (x % 32) (x / 32 * 16 + l)))).retire 4)
    else .ok (s.retire 4))

/-- MWR (R379): a command; V[a] and X[b] are captured at issue. -/
def execMwr (d : BitVec 3) (a b : BitVec 5) (g : BitVec 4) (s : State) : Host.Outcome State Fault Refusal :=
  s.attempt g 4 (do
    s.workerOnly
    s.illegalIf (s.slot.isBound a)
    let x := (s.x b).toNat
    s.illegalIf (decide (64 ≤ x) || !s.holds d)
    s.queueFull
    .ok (s.pushCmd (.row d (s.v a) x)))

/-- R370: an MCLAIM of the accumulator issued earlier on the core, in its slot, parked or saved at a slice end, still waits. -/
def State.claimTurn (s : State) (d : BitVec 3) : Bool :=
  let mine := match s.slot.wait with
    | some w => if w.kind = 12 then w.since else s.cyc
    | none => s.cyc
  let before := fun (t : Slot) => t.tid != s.slot.tid && t.wait.any (fun w => w.kind == 12 && w.operand.toNat == d.toNat && decide (w.since < mine))
  (List.range 5).any (fun k => before (s.slotAt (s.core * 8 + k))) ||
    s.saved.any (fun e => s.liveCore e.2.core == s.core && (e.2.st == 2 || (e.2.st == 1 && e.2.ready)) && before e.2.slot)

/-- MCLAIM (R370, R329); the first claim of a task reserves its extension (R330). -/
def execMclaim (d : BitVec 3) (g : BitVec 4) (s : State) : Host.Outcome State Fault Refusal :=
  s.attempt g 4 (do
    s.workerOnly
    let c := s.coreAt s.core
    let o := RegFile.read c.claim d
    if o = some s.slot.tid then .ok (s.retire 4)
    else
      waitIf (o.isSome || s.claimTurn d) 12 (BitVec.ofNat 64 d.toNat)
      let ext := if s.slot.ext = 0 then s.freeExt s.slot.job else s.slot.ext
      waitIf (ext == 0) 10 0
      .ok (((s.mod (fun t => { t with ext := ext, dirty := { t.dirty with a := t.dirty.a ||| accMask d } })).modCore s.core
        (fun c => { c with claim := RegFile.write c.claim d (some s.slot.tid) })).retire 4))

/-- MFREE (R370). -/
def execMfree (d : BitVec 3) (g : BitVec 4) (s : State) : Host.Outcome State Fault Refusal :=
  s.attempt g 4 (do
    s.workerOnly
    .ok ((if s.holds d then s.modCore s.core (fun c => { c with freeing := setBit c.freeing d.toNat }.settle) else s).retire 4))

/-- ESET (R380). -/
def execEset (d : BitVec 3) (a : BitVec 5) (g : BitVec 4) (s : State) : Host.Outcome State Fault Refusal :=
  s.attempt g 4 (do
    s.workerOnly
    .ok ((s.setE d ((s.x a).setWidth 32)).retire 4))

/-- ERD (R380). -/
def execErd (d : BitVec 5) (a : BitVec 3) (g : BitVec 4) (s : State) : Host.Outcome State Fault Refusal :=
  s.attempt g 4 (do
    s.workerOnly
    .ok ((s.setX d (zext64 (s.e a))).retire 4))

/-! ### Events -/

/-- MATRIX_COMMAND_EXECUTE (R371): the head of a core's queue executes whole; room may let a gang's RMMAs queue. -/
def execMatrixCommandExecute (core : Nat) (s : State) : Host.Outcome State Fault Refusal :=
  .next ((s.runHead core).ringGo (coreTroupe core))

/-- RMMA_RING_STEP (R382): one step of a troupe's ring. -/
def execRmmaRingStep (troupe : Nat) (s : State) : Host.Outcome State Fault Refusal :=
  .next ((s.ringStep troupe).ringGo troupe)

end Sys2Proof.Machine
end

