-- ==== Sys2Proof/Machine/Queue.lean ====
section
/-! DEFINITION. The queue registers (R75, R122 to R124). -/

namespace Sys2Proof.Machine

def CoreSt.queue (c : CoreSt) (q : BitVec 2) : List W64 := RegFile.read c.q q
def CoreSt.setQueue (c : CoreSt) (q : BitVec 2) (l : List W64) : CoreSt := { c with q := RegFile.write c.q q l }

/-- R124: a task of the core that is parked, or saved at a slice end and not yet back in a slot, has waited since before cycle
`since` for the same thing on the queue. -/
def State.parkedFirst (s : State) (q : BitVec 2) (push since : Nat) : Bool :=
  s.saved.any (fun e => (e.2.st == 2 || (e.2.st == 1 && e.2.ready)) && s.liveCore e.2.core == s.core && e.2.slot.wait.any (fun w =>
    w.kind == 3 && w.operand.toNat == q.toNat && w.expect.toNat == push && decide (w.since < since)))

/-- The cycle at which the wait of the issuing slot on the queue began, or this one. -/
def State.queueSince (s : State) : Nat :=
  match s.slot.wait with
  | some w => if w.kind = 3 then w.since else s.cyc
  | none => s.cyc

/-- R124: no other task of the core, bound or parked, has waited longer for the same thing on the queue. -/
def State.queueTurn (s : State) (q : BitVec 2) (push : Nat) : Bool :=
  !s.parkedFirst q push s.queueSince && (match (RegFile.read (s.coreAt s.core).qWait q).filter (fun k => k % 2 == push) with
    | [] => true
    | k :: _ => k / 2 == s.cur)

/-- The wait begins or goes on; the slot keeps its place (R124, R332 kind 3). -/
def State.queueWait (s : State) (q : BitVec 2) (push : Nat) : State :=
  let s' := s.startWait 3 (BitVec.ofNat 64 q.toNat) (BitVec.ofNat 64 push)
  if (RegFile.read (s.coreAt s.core).qWait q).contains (2 * s.cur + push) then s' else s'.joinQueue s.core s.cur q.toNat push

/-- QPUSH (R123). -/
def execQpush (d : BitVec 2) (a : BitVec 5) (g : BitVec 4) (s : State) : Host.Outcome State Fault Refusal :=
  s.attempt g 4 (do
    s.workerOnly
    if ((s.coreAt s.core).queue d).length < 8 ∧ s.queueTurn d 1 then
      let s1 ← s.commit
      .ok (((s1.leaveQueues s.core s.cur).modCore s.core (fun c => c.setQueue d (c.queue d ++ [s.x a]))).retire 4)
    else .ok (s.queueWait d 1))

/-- QPOP (R123). -/
def execQpop (d : BitVec 5) (a : BitVec 2) (g : BitVec 4) (s : State) : Host.Outcome State Fault Refusal :=
  s.attempt g 4 (do
    s.workerOnly
    match (s.coreAt s.core).queue a with
    | x :: rest =>
      if s.queueTurn a 0 then
        let s1 ← s.commit
        .ok ((((s1.leaveQueues s.core s.cur).modCore s.core (fun c => c.setQueue a rest)).setX d x).retire 4)
      else .ok (s.queueWait a 0)
    | [] => .ok (s.queueWait a 0))

/-- QNPUSH (R123). -/
def execQnpush (d : BitVec 5) (a : BitVec 2) (b : BitVec 5) (g : BitVec 4) (s : State) : Host.Outcome State Fault Refusal :=
  s.attempt g 4 (do
    s.workerOnly
    let s1 ← s.commit
    .ok (if ((s.coreAt s.core).queue a).length < 8 then
      ((s1.modCore s.core (fun c => c.setQueue a (c.queue a ++ [s.x b]))).setX d 1).retire 4
    else (s1.setX d 0).retire 4))

/-- QCNT (R123). -/
def execQcnt (d : BitVec 5) (a : BitVec 2) (g : BitVec 4) (s : State) : Host.Outcome State Fault Refusal :=
  s.attempt g 4 (do
    s.workerOnly
    .ok ((s.setX d (BitVec.ofNat 64 ((s.coreAt s.core).queue a).length)).retire 4))

end Sys2Proof.Machine
end

