-- ==== Sys2Proof/Machine/Sfp.lean ====
section
/-! DEFINITION. Scalar floating point (R104 to R109). -/

namespace Sys2Proof.Machine

/-- R109: a scalar floating instruction that writes X[d]. `r` is the result in the low bits and the flags it raises; an
FP32 result leaves bits 63:32 zero (R74). -/
def sfpExec (d : BitVec 5) (g : BitVec 4) (s : State) (r : Nat × Flags) : Host.Outcome State Fault Refusal :=
  s.attempt g 4 (s.fpEnd r.2 (fun s => s.setX d (BitVec.ofNat 64 r.1)))

/-- FADD (R104). -/
def execFadd (d a b : BitVec 5) (t : BitVec 3) (g : BitVec 4) (s : State) : Host.Outcome State Fault Refusal :=
  sfpExec d g s (faddR (fpFmt t.toNat) s.rm (s.fx t.toNat a) (s.fx t.toNat b))

/-- FSUB (R104). -/
def execFsub (d a b : BitVec 5) (t : BitVec 3) (g : BitVec 4) (s : State) : Host.Outcome State Fault Refusal :=
  sfpExec d g s (fsubR (fpFmt t.toNat) s.rm (s.fx t.toNat a) (s.fx t.toNat b))

/-- FMUL (R104). -/
def execFmul (d a b : BitVec 5) (t : BitVec 3) (g : BitVec 4) (s : State) : Host.Outcome State Fault Refusal :=
  sfpExec d g s (fmulR (fpFmt t.toNat) s.rm (s.fx t.toNat a) (s.fx t.toNat b))

/-- FFMA (R104): X[a] × X[b] + X[d]. -/
def execFfma (d a b : BitVec 5) (t : BitVec 3) (g : BitVec 4) (s : State) : Host.Outcome State Fault Refusal :=
  sfpExec d g s (ffmaR (fpFmt t.toNat) s.rm false false (s.fx t.toNat a) (s.fx t.toNat b) (s.fx t.toNat d))

/-- FDIV (R104). -/
def execFdiv (d a b : BitVec 5) (t : BitVec 3) (g : BitVec 4) (s : State) : Host.Outcome State Fault Refusal :=
  sfpExec d g s (fdivR (fpFmt t.toNat) s.rm (unpack (fpFmt t.toNat) (s.fx t.toNat a)) (unpack (fpFmt t.toNat) (s.fx t.toNat b)))

/-- FSQRT (R104). -/
def execFsqrt (d a : BitVec 5) (t : BitVec 3) (g : BitVec 4) (s : State) : Host.Outcome State Fault Refusal :=
  sfpExec d g s (fsqrtR (fpFmt t.toNat) s.rm (unpack (fpFmt t.toNat) (s.fx t.toNat a)))

/-- FMIN (R106). -/
def execFmin (d a b : BitVec 5) (t : BitVec 3) (g : BitVec 4) (s : State) : Host.Outcome State Fault Refusal :=
  sfpExec d g s (fminmaxR (fpFmt t.toNat) false (s.fx t.toNat a) (s.fx t.toNat b))

/-- FMAX (R106). -/
def execFmax (d a b : BitVec 5) (t : BitVec 3) (g : BitVec 4) (s : State) : Host.Outcome State Fault Refusal :=
  sfpExec d g s (fminmaxR (fpFmt t.toNat) true (s.fx t.toNat a) (s.fx t.toNat b))

/-- FCMP (R107). -/
def execFcmp (t : BitVec 1) (p : BitVec 3) (a b : BitVec 5) (c : BitVec 3) (g : BitVec 4) (s : State) :
    Host.Outcome State Fault Refusal :=
  let r := fcmpR (fpFmt t.toNat) c.toNat (s.fx t.toNat a) (s.fx t.toNat b)
  s.attempt g 4 (s.fpEnd r.2 (fun s => s.setP p (if r.1 then 0xFFFF else 0)))

/-- The type codes of FCVT (R88): 0 .f64, 1 .f32, 2 .f16, 3 .bf16, 4 .i64, 5 .n64, 6 .i32, 7 .n32. -/
def cvtFmt (t : Nat) : Fmt := match t with
  | 0 => fp64
  | 1 => fp32
  | 2 => fp16
  | _ => bf16
def cvtBits (t : Nat) : Nat := match t with
  | 0 => 64
  | 1 => 32
  | 2 => 16
  | 3 => 16
  | 4 => 64
  | 5 => 64
  | _ => 32
def cvtUnsigned (t : Nat) : Bool := t == 5 || t == 7

/-- R108: the source value converted, with the flags it raises, as X[d] receives it. -/
def fcvtResult (rm : RM) (src dst : Nat) (x : W64) : W64 × Flags :=
  let n := cvtBits src
  let k := cvtBits dst
  if src < 4 then
    if dst < 4 then
      let r := fcvtR (cvtFmt src) (cvtFmt dst) rm (x.toNat % 2 ^ n)
      (BitVec.ofNat 64 r.1, r.2)
    else
      let lo : Int := if cvtUnsigned dst then 0 else -(2 ^ (k - 1) : Nat)
      let hi : Int := if cvtUnsigned dst then (2 ^ k : Nat) - 1 else (2 ^ (k - 1) : Nat) - 1
      let r := toIntR rm lo hi (unpack (cvtFmt src) (x.toNat % 2 ^ n))
      (BitVec.ofInt 64 r.1, r.2)
  else
    let i : Int := if cvtUnsigned src then (x.toNat % 2 ^ n : Nat) else signed n x.toNat
    let r := fromIntR (cvtFmt dst) rm i
    (BitVec.ofNat 64 r.1, r.2)

/-- FCVT (R108). -/
def execFcvt (d a : BitVec 5) (src dst : BitVec 3) (g : BitVec 4) (s : State) : Host.Outcome State Fault Refusal :=
  let r := fcvtResult s.rm src.toNat dst.toNat (s.x a)
  s.attempt g 4 (s.fpEnd r.2 (fun s => s.setX d r.1))

end Sys2Proof.Machine
end

