-- ==== Sys2Proof/Machine/VecMem.lean ====
section
/-! DEFINITION. Vector loads and stores, strided and indexed forms, short and long (R253 to R261). -/

namespace Sys2Proof.Machine

/-- One access of a vector memory instruction: its number, address, byte mask, and its place or the fault of its checks. -/
structure Lane where
  idx : Nat
  va : W64
  mask : Nat
  res : Except (Cause × W64) Place

/-- The checks of one access (R258). A page with an outstanding page request is absent (R303, R310). -/
def State.laneCheck (s : State) (acc : Acc) (size : Nat) (i : Nat) (va : Int) (mask : Nat) : Res Lane :=
  match checkAddr va size size with
  | .error (.trap c v) => .ok ⟨i, v, mask, .error (c, v)⟩
  | .error e => .error e
  | .ok a => match s.reach acc a size with
    | .ok p => .ok ⟨i, a, mask, .ok p⟩
    | .error (.trap c v) => .ok ⟨i, a, mask, .error (c, v)⟩
    | .error (.miss ac v) =>
      if (s.pageReqOf s.slot.job (vpnOf v)).isSome then .ok ⟨i, a, mask, .error (.page, v)⟩ else .error (.miss ac v)
    | .error e => .error e

/-- The checks of every enabled access; one that misses stalls the whole instruction (R303). -/
def State.laneChecks (s : State) (acc : Acc) (size mask : Nat) : List (Nat × Int) → Res (List Lane)
  | [] => .ok []
  | (i, va) :: r => do
    let l ← s.laneCheck acc size i va mask
    let ls ← s.laneChecks acc size mask r
    .ok (l :: ls)

/-- The lowest failing access (R258). -/
def lowestFail : List Lane → Option (Nat × Cause × W64)
  | [] => none
  | l :: r => match l.res with
    | .ok _ => lowestFail r
    | .error (c, v) => some (l.idx, c, v)

/-- R259: the lanes of a store that cannot count as completed: a failed lane, and one that a lower such lane overlaps. -/
def blockedLanes (size : Nat) : List Lane → List Lane → BitVec 16
  | _, [] => 0
  | bad, l :: r =>
    let laps := bad.any (fun b => decide (b.va.toNat < l.va.toNat + size) && decide (l.va.toNat < b.va.toNat + size))
    match l.res with
    | .ok _ => if laps then setBit (blockedLanes size (l :: bad) r) l.idx else blockedLanes size bad r
    | .error _ => setBit (blockedLanes size (l :: bad) r) l.idx

/-- `w`-bit lane `i` of a register replaced in the bytes the mask names. -/
def mergeLane (w i : Nat) (old : Vec) (mask x : Nat) : Vec :=
  mergeBytes old (BitVec.ofNat 512 (x * 2 ^ (w * i))) (BitVec.ofNat 64 (mask * 2 ^ (w / 8 * i)))

/-- A passing access on this package is performed (R258): `hint` only, its ordering done around it. -/
def State.laneLocal (s : State) (isLoad : Bool) (d : BitVec 5) (w hint : Nat) (l : Lane) (p : Place) : State :=
  let s := s.touchTlb s.core s.slot.job l.va
  if isLoad then
    let r := s.readAt p (w / 8) hint 0 0
    r.2.setV d (mergeLane w l.idx (r.2.v d) l.mask r.1)
  else s.writeAt p (w / 8) l.mask (bitsAt (s.v d).toNat (w * l.idx) w) hint 0 0

/-- The accesses that stay on this package, in ascending order; a store's bytes reach their slice when `flush` says so. Every access
uses its translation (R302). -/
def State.lanesLocal (isLoad flush : Bool) (d : BitVec 5) (w hint : Nat) : State → List Lane → State
  | s, [] => s
  | s, l :: r =>
    let s' := match l.res with
      | .ok p => match p.away with
        | none =>
          let t := s.laneLocal isLoad d w hint l p
          if flush then t.flushPlace p (w / 8) else t
        | some _ => s.touchTlb s.core s.slot.job l.va
      | .error _ => s
    State.lanesLocal isLoad flush d w hint s' r

/-- The lanes that travel to one 64-byte line of one target (R261): its byte mask, line bytes, and lanes with their
offsets. -/
structure LineGroup where
  host : Option Nat
  pkg : Nat
  line : Nat
  mask : Nat
  data : Nat
  lanes : List (Nat × Nat)

/-- A lane joins the message of its line; where lanes overlap the later one's bytes win (R259). -/
def joinLine (host : Option Nat) (pkg : Nat) (l : Lane) (x : Nat) : List LineGroup → List LineGroup
  | [] => [⟨host, pkg, l.va.toNat / 64, l.mask * 2 ^ (l.va.toNat % 64), x * 2 ^ (8 * (l.va.toNat % 64)), [(l.idx, l.va.toNat % 64)]⟩]
  | g :: r =>
    if g.pkg = pkg ∧ g.host = host ∧ g.line = l.va.toNat / 64 then
      let m := l.mask * 2 ^ (l.va.toNat % 64)
      { g with
        mask := (BitVec.ofNat 64 g.mask ||| BitVec.ofNat 64 m).toNat
        data := (mergeBytes (BitVec.ofNat 512 g.data) (BitVec.ofNat 512 (x * 2 ^ (8 * (l.va.toNat % 64)))) (BitVec.ofNat 64 m)).toNat
        lanes := g.lanes ++ [(l.idx, l.va.toNat % 64)] } :: r
    else g :: joinLine host pkg l x r

/-- The host line a lane's physical address lies in; every lane of one page line shares it. -/
def lineGroups (src : Vec) (w : Nat) : List Lane → List LineGroup → List LineGroup
  | [], gs => gs
  | l :: r, gs => match l.res with
    | .ok p => match p.away with
      | some (host, pkg) => lineGroups src w r (joinLine (host.map (fun a => a / 64 * 64)) pkg l (bitsAt src.toNat (w * l.idx) w) gs)
      | none => lineGroups src w r gs
    | .error _ => lineGroups src w r gs

/-- The message of a line (R254, R261, R337). -/
def State.lineReq (s : State) (isLoad acq : Bool) (d : BitVec 5) (w : Nat) (g : LineGroup) : Req :=
  s.newReq (if isLoad then 2 else 3) g.host g.pkg (BitVec.ofNat 64 (64 * g.line)) (BitVec.ofNat 64 g.mask)
    (if isLoad then [] else (List.range 8).map (word64 g.data)) acq (.lanes isLoad d w g.lanes)

/-- The local accesses that completed, as lane bits. -/
def localDone : List Lane → BitVec 16
  | [] => 0
  | l :: r => match l.res with
    | .ok p => if p.away.isNone then setBit (localDone r) l.idx else localDone r
    | .error _ => localDone r

/-- A vector memory instruction whose checks are made: a release before its accesses, an acquire with them, the lanes of
this package, the messages to others, and its end (R255, R258, R261). `prior` are the lanes an earlier run completed;
`skip` those that are never marked. -/
def State.runLanes (s : State) (isLoad : Bool) (d : BitVec 5) (w : Nat) (g : BitVec 4) (hint ord scope len : Nat)
    (prior skip : BitVec 16) (ls : List Lane) : State :=
  let s := s.mod (fun t => if t.laneDone = 0 then t else
    { t with laneDone := 0, dirty := { t.dirty with x := setBit t.dirty.x 0 } })
  let s := if ordRel ord then s.release s.clusterNo scope else s
  let s := if ordAcq ord && isLoad then s.acquireHere scope else s
  let s := State.lanesLocal isLoad (ord == 4 && !isLoad && decide (2 ≤ scope)) d w hint s ls
  let s := if ordAcq ord && !isLoad then s.acquireHere scope else s
  let gs := lineGroups (s.v d) w ls []
  let fail := lowestFail ls
  let done := prior ||| localDone ls
  if gs.isEmpty then
    match fail with
    | none => s.retire len
    | some (_, c, v) => s.lanesFail s.cur g (done &&& ~~~skip) c v
  else s.awaitLanes len g (gs.map (s.lineReq isLoad (ordAcq ord) d w)) fail done skip

/-- LDV and STV (R253 to R256): one access of 64 bytes whose byte mask holds the enabled lanes. -/
def vecBlock (isLoad : Bool) (d a : BitVec 5) (off : Int) (hint ord scope len : Nat) (g : BitVec 4) (s : State) :
    Host.Outcome State Fault Refusal :=
  s.finish (do
    s.boundIf [d]
    let en := s.guard g
    if en = 0 then .ok (s.retire len)
    else
      let va ← checkAddr ((s.x a).toNat + off) 64 64
      trapIf (decide (off % 64 ≠ 0)) .align va
      let p ← s.reach (if isLoad then .read else .write) va 64
      let ord := p.ord (if isLoad then 1 else 2) ord
      let scope := p.scope scope
      s.relBlocked ord scope
      let mask := packDigits 4 (fun i => if en.getLsbD i then 15 else 0) 16
      .ok (s.runLanes isLoad d 512 g hint ord scope len 0 0xFFFF [⟨0, va, mask, .ok p⟩]))

/-- R294: a place on a TSO page that some access of the instruction has. -/
def tsoPlace (ls : List Lane) : Place :=
  (ls.findSome? (fun l => match l.res with
    | .ok p => if p.tso then some p else none
    | .error _ => none)).getD (.remote 0)

/-- LDVS, STVS, VGATHER and VSCATTER (R255 to R260): lane `i` accesses `addr i`. -/
def vecLanes (isLoad : Bool) (d : BitVec 5) (vecs : List (BitVec 5)) (w : Nat) (hint ord scope len : Nat) (g : BitVec 4)
    (s : State) (addr : Nat → Int) : Host.Outcome State Fault Refusal :=
  s.finish (do
    s.boundIf vecs
    let prior := if s.slot.lanePc = s.pc then s.slot.laneDone else 0
    let on := (List.range (512 / w)).filter (fun i => (s.guard g).getLsbD i && !prior.getLsbD i)
    let ls ← s.laneChecks (if isLoad then .read else .write) (w / 8) (ones (w / 8)) (on.map (fun i => (i, addr i)))
    if on.isEmpty then .ok (s.mod (fun t => { t with laneDone := 0 }) |>.retire len)
    else
      let p := tsoPlace ls
      let ord := p.ord (if isLoad then 1 else 2) ord
      let scope := p.scope scope
      s.relBlocked ord scope
      .ok (s.runLanes isLoad d w g hint ord scope len prior (if isLoad then 0 else blockedLanes (w / 8) [] ls) ls))

/-- R258: the lane address of the strided forms, X[a] + i × SignExt(X[b]). -/
def State.strideAddr (s : State) (a b : BitVec 5) (i : Nat) : Int := (s.x a).toNat + i * (s.x b).toInt

/-- R258: the lane address of the indexed forms, X[a] + SignExt(V[b].lane(i, W)) × S. -/
def State.indexAddr (s : State) (a b : BitVec 5) (w sc : Nat) (i : Nat) : Int :=
  (s.x a).toNat + (laneOf w (s.v b) i).toInt * (2 ^ sc : Nat)

/-- LDV, short form: .rlx.co.wb (R253). -/
def execLdv (d a : BitVec 5) (i : BitVec 10) (g : BitVec 4) (s : State) :
    Host.Outcome State Fault Refusal :=
  vecBlock true d a (scaledImm i 64) 0 0 0 4 g s

/-- LDV, long form (R93, R253). -/
def execLdvLong (d a : BitVec 5) (g : BitVec 4) (sc ord : BitVec 3) (h : BitVec 2) (off : BitVec 24) (s : State) :
    Host.Outcome State Fault Refusal :=
  vecBlock true d a off.toInt h.toNat ord.toNat sc.toNat 8 g s

/-- STV, short form: .rlx.co.wb (R253). -/
def execStv (d a : BitVec 5) (i : BitVec 10) (g : BitVec 4) (s : State) :
    Host.Outcome State Fault Refusal :=
  vecBlock false d a (scaledImm i 64) 0 0 0 4 g s

/-- STV, long form (R93, R253). -/
def execStvLong (d a : BitVec 5) (g : BitVec 4) (sc ord : BitVec 3) (h : BitVec 2) (off : BitVec 24) (s : State) :
    Host.Outcome State Fault Refusal :=
  vecBlock false d a off.toInt h.toNat ord.toNat sc.toNat 8 g s

/-- LDVS, short form (R257, R258). -/
def execLdvs (d a b : BitVec 5) (w : BitVec 1) (g : BitVec 4) (s : State) :
    Host.Outcome State Fault Refusal :=
  vecLanes true d [d] (if w = 0 then 32 else 64) 0 0 0 4 g s (s.strideAddr a b)

/-- LDVS, long form (R93, R257). -/
def execLdvsLong (d a : BitVec 5) (w : BitVec 1) (g : BitVec 4) (sc ord : BitVec 3) (h : BitVec 2)
    (b : BitVec 5) (s : State) :
    Host.Outcome State Fault Refusal :=
  vecLanes true d [d] (if w = 0 then 32 else 64) h.toNat ord.toNat sc.toNat 8 g s (s.strideAddr a b)

/-- STVS, short form (R257, R258). -/
def execStvs (d a b : BitVec 5) (w : BitVec 1) (g : BitVec 4) (s : State) :
    Host.Outcome State Fault Refusal :=
  vecLanes false d [d] (if w = 0 then 32 else 64) 0 0 0 4 g s (s.strideAddr a b)

/-- STVS, long form (R93, R257). -/
def execStvsLong (d a : BitVec 5) (w : BitVec 1) (g : BitVec 4) (sc ord : BitVec 3) (h : BitVec 2)
    (b : BitVec 5) (s : State) :
    Host.Outcome State Fault Refusal :=
  vecLanes false d [d] (if w = 0 then 32 else 64) h.toNat ord.toNat sc.toNat 8 g s (s.strideAddr a b)

/-- VGATHER, short form (R257, R258). -/
def execVgather (d a b : BitVec 5) (w : BitVec 1) (sc : BitVec 2) (g : BitVec 4) (s : State) :
    Host.Outcome State Fault Refusal :=
  vecLanes true d [d, b] (if w = 0 then 32 else 64) 0 0 0 4 g s (s.indexAddr a b (if w = 0 then 32 else 64) sc.toNat)

/-- VGATHER, long form (R93, R257). -/
def execVgatherLong (d a : BitVec 5) (w : BitVec 1) (k : BitVec 2) (g : BitVec 4) (sc ord : BitVec 3)
    (h : BitVec 2) (b : BitVec 5) (s : State) :
    Host.Outcome State Fault Refusal :=
  vecLanes true d [d, b] (if w = 0 then 32 else 64) h.toNat ord.toNat sc.toNat 8 g s (s.indexAddr a b (if w = 0 then 32 else 64) k.toNat)

/-- VSCATTER, short form (R257, R258). -/
def execVscatter (d a b : BitVec 5) (w : BitVec 1) (sc : BitVec 2) (g : BitVec 4) (s : State) :
    Host.Outcome State Fault Refusal :=
  vecLanes false d [d, b] (if w = 0 then 32 else 64) 0 0 0 4 g s (s.indexAddr a b (if w = 0 then 32 else 64) sc.toNat)

/-- VSCATTER, long form (R93, R257). -/
def execVscatterLong (d a : BitVec 5) (w : BitVec 1) (k : BitVec 2) (g : BitVec 4) (sc ord : BitVec 3)
    (h : BitVec 2) (b : BitVec 5) (s : State) :
    Host.Outcome State Fault Refusal :=
  vecLanes false d [d, b] (if w = 0 then 32 else 64) h.toNat ord.toNat sc.toNat 8 g s (s.indexAddr a b (if w = 0 then 32 else 64) k.toNat)

end Sys2Proof.Machine
end

