-- ==== Sys2Proof/Machine/VecMove.lean ====
section
/-! DEFINITION. Vector conversions (R190, R191), Q16N lanes (R192, R193), packing (R194) and movement of lanes (R195 to
R198). -/

namespace Sys2Proof.Machine

/-! ### Conversion -/

/-- R191: the rounding mode of VCVT; .dyn takes FSR.RM. -/
def State.cvtMode (s : State) (r : BitVec 3) : RM := if r.toNat < 4 then RM.ofCode r.toNat else s.rm

/-- Integer destinations (R108, R191): the result sign-extended, in two's complement of 64 bits. -/
def cvtInt (rm : RM) (lo hi : Int) (v : FVal) : Nat × Flags :=
  let r := toIntR rm lo hi v
  ((BitVec.ofInt 64 r.1).toNat, r.2)

/-- R191: a scaled conversion to an 8-bit format: the exact product, rounded once. -/
def cvtScaled (f : Fmt) (rm : RM) (sat : Bool) (e : W32) (x : Nat) : Nat × Flags :=
  let p := mulX (unpack fp32 x) (unpack fp32 e.toNat)
  let r := cvt8R f rm sat p.1
  (r.1, r.2 ||| p.2)

/-- R190: the pair codes whose lanes are 64 bits wide. -/
def cvt64 (c : Nat) : Bool := c == 16 || c == 17 || c == 28 || c == 29

/-- R190, R191: lane bits `x` converted by pair code `c`; `e` is the scale register the code names. -/
def cvtLane (c : Nat) (rm : RM) (sat : Bool) (e : W32) (x : Nat) : Nat × Flags :=
  let w := x % 2 ^ 32
  let h := x % 2 ^ 16
  let b := x % 2 ^ 8
  if c < 8 then cvtScaled e4m3 rm sat e w
  else if c < 16 then cvtScaled e5m2 rm sat e w
  else match c with
    | 16 => fcvtR fp64 fp32 rm x
    | 17 => fcvtR fp32 fp64 rm w
    | 18 => fcvtR fp32 fp16 rm w
    | 19 => fcvtR fp16 fp32 rm h
    | 20 => fcvtR fp32 bf16 rm w
    | 21 => fcvtR bf16 fp32 rm h
    | 22 => fcvtR e4m3 fp32 rm b
    | 23 => fcvtR e5m2 fp32 rm b
    | 24 => cvtInt rm (-2 ^ 31) (2 ^ 31 - 1) (unpack fp32 w)
    | 25 => cvtInt rm 0 (2 ^ 32 - 1) (unpack fp32 w)
    | 26 => fromIntR fp32 rm (signed 32 w)
    | 27 => fromIntR fp32 rm w
    | 28 => cvtInt rm (-2 ^ 63) (2 ^ 63 - 1) (unpack fp64 x)
    | 29 => fromIntR fp64 rm (signed 64 x)
    | 30 => cvtInt rm (-128) 127 (unpack fp32 w)
    | _ => fromIntR fp32 rm (signed 8 b)

/-- VCVT (R190, R191). -/
def execVcvt (d a c : BitVec 5) (r : BitVec 3) (sat : BitVec 1) (g : BitVec 4) (s : State) :
    Host.Outcome State Fault Refusal :=
  vfExec (if cvt64 c.toNat then 1 else 0) d [a] g s (fun i =>
    cvtLane c.toNat (s.cvtMode r) (sat == 1) (s.e (c.setWidth 3)) (s.lane (laneW (if cvt64 c.toNat then 1 else 0)) a i))

/-! ### Q16N -/

/-- R192: the scale a scale word gives. -/
def qScale (x : W64) : W32 := q16Scale (x.setWidth 32) (bitsAt x.toNat 32 8)

/-- VQDEC (R192). -/
def execVqdec (d a b : BitVec 5) (k : BitVec 3) (g : BitVec 4) (s : State) : Host.Outcome State Fault Refusal :=
  s.vecEnd [d] [a] 0 (fun s' => s'.setV d (guardedLanes 32 (s.guard g) (s.v d)
    (fun i => q16Elem (qScale (s.x b)) (laneOf 4 (s.vin a) (16 * k.toNat + i)).toNat)))

/-- R193: the first index from `i` up, `n` of them, that no other beats; `best` leads so far. -/
def bestIndex (beats : Nat → Nat → Bool) : Nat → Nat → Nat → Nat
  | 0, _, best => best
  | n + 1, i, best => bestIndex beats n (i + 1) (if beats i best then i else best)

/-- The magnitude of an exact difference. -/
def absDiff (a b : FVal) : FVal :=
  match (addX .rne a b.negate).1 with
  | .fin _ m e => .fin false m e
  | .inf _ => .inf false
  | v => v

/-- R193: the index for one lane under a scale. -/
def q16Index (scale : W32) (x : Nat) : Nat :=
  let dec := fun i => unpack fp32 (q16Elem scale i).toNat
  match unpack fp32 scale.toNat with
  | .fin _ (_ + 1) _ => match unpack fp32 x with
    | .nan _ => 7
    | .inf neg => bestIndex (fun i j => if neg then fvLt (dec i) (dec j) else fvLt (dec j) (dec i)) 15 1 0
    | v => bestIndex (fun i j => fvLt (absDiff v (dec i)) (absDiff v (dec j))) 15 1 0
  | _ => 7

/-- VQENC (R193). -/
def execVqenc (d a b : BitVec 5) (k : BitVec 3) (g : BitVec 4) (s : State) : Host.Outcome State Fault Refusal :=
  s.vecEnd [d] [a] 0 (fun s' => s'.setV d (ofLanes 4 (fun j =>
    if j / 16 = k.toNat ∧ (s.guard g).getLsbD (j % 16) then BitVec.ofNat 4 (q16Index (qScale (s.x b)) (s.lane 32 a (j % 16)))
    else laneOf 4 (s.v d) j)))

/-! ### Packing -/

/-- The element width of VPACK and VUNPK: code 0 is 8 bits, 1 is 16 (R182). -/
def packW (w : BitVec 2) : Nat := if w = 0 then 8 else 16

/-- VPACK (R194). -/
def execVpack (d a : BitVec 5) (w p : BitVec 2) (g : BitVec 4) (s : State) : Host.Outcome State Fault Refusal :=
  s.vecEnd [d] [a] 0 (fun s' => s'.setV d (ofLanes (packW w) (fun j =>
    if j / 16 = p.toNat ∧ (s.guard g).getLsbD (j % 16) then (laneOf 32 (s.vin a) (j % 16)).setWidth _
    else laneOf _ (s.v d) j)))

/-- VUNPK (R194). -/
def execVunpk (d a : BitVec 5) (w p : BitVec 2) (g : BitVec 4) (s : State) : Host.Outcome State Fault Refusal :=
  s.vecEnd [d] [a] 0 (fun s' => s'.setV d (guardedLanes 32 (s.guard g) (s.v d)
    (fun i => (laneOf (packW w) (s.vin a) (16 * p.toNat + i)).setWidth 32)))

/-! ### Movement -/

/-- VBCAST (R195). -/
def execVbcast (d a : BitVec 5) (w : BitVec 1) (g : BitVec 4) (s : State) : Host.Outcome State Fault Refusal :=
  s.vecEnd [d] [] 0 (fun s' => s'.setV d (guardedLanes (laneW w) (s.guard g) (s.v d) (fun _ => (s.x a).setWidth _)))

/-- VMOVX (R196). -/
def execVmovx (d a : BitVec 5) (l g : BitVec 4) (s : State) : Host.Outcome State Fault Refusal :=
  s.vecEnd [] [a] 0 (fun s' => if (s.guard g).getLsbD l.toNat then s'.setX d (zext64 (laneOf 32 (s.vin a) l.toNat)) else s')

/-- VPERM (R197). -/
def execVperm (d a b : BitVec 5) (g : BitVec 4) (s : State) : Host.Outcome State Fault Refusal :=
  s.vecEnd [d] [a, b] 0 (fun s' => s'.setV d (guardedLanes 32 (s.guard g) (s.v d)
    (fun i => laneOf 32 (s.vin a) ((laneOf 32 (s.vin b) i).toNat % 16))))

/-- R198: lane `i` of a pattern over the lanes of the two sources. -/
def shufLane (p : Nat) (x y : Nat → W32) (i : Nat) : W32 :=
  match p with
  | 0 => if i % 2 = 0 then x (i / 2) else y (i / 2)
  | 1 => if i % 2 = 0 then x (8 + i / 2) else y (8 + i / 2)
  | 2 => if i < 8 then x (2 * i) else y (2 * i - 16)
  | 3 => if i < 8 then x (2 * i + 1) else y (2 * i - 15)
  | 4 => if i < 8 then x i else y (i - 8)
  | 5 => if i < 8 then x (i + 8) else y i
  | 6 => x (15 - i)
  | _ => x (4 * (i % 4) + i / 4)

/-- VSHUF (R198); patterns 6 and 7 read V[a] only. -/
def execVshuf (d a b : BitVec 5) (p : BitVec 3) (g : BitVec 4) (s : State) : Host.Outcome State Fault Refusal :=
  s.vecEnd [d] (if p.toNat < 6 then [a, b] else [a]) 0 (fun s' => s'.setV d (guardedLanes 32 (s.guard g) (s.v d)
    (shufLane p.toNat (laneOf 32 (s.vin a)) (laneOf 32 (s.vin b)))))

end Sys2Proof.Machine
end

