-- ==== Sys2Proof/Machine/Dispatch.lean ====
section
/-! DEFINITION. One arm per row of the opcode table, each one direct call of that row's meaning. -/

namespace Sys2Proof.Machine

/-- The meaning of an instruction issued by the slot `cur`, or of an event. -/
def exec (i : Instr) (s : State) : Host.Outcome State Fault Refusal :=
  match i with
  | .add d a b w n g => Sys2Proof.Machine.execAdd d a b w n g s
  | .sub d a b w n g => Sys2Proof.Machine.execSub d a b w n g s
  | .and d a b w n g => Sys2Proof.Machine.execAnd d a b w n g s
  | .or d a b w n g => Sys2Proof.Machine.execOr d a b w n g s
  | .xor d a b w n g => Sys2Proof.Machine.execXor d a b w n g s
  | .andn d a b w n g => Sys2Proof.Machine.execAndn d a b w n g s
  | .shl d a b w n g => Sys2Proof.Machine.execShl d a b w n g s
  | .shr d a b w n g => Sys2Proof.Machine.execShr d a b w n g s
  | .sra d a b w n g => Sys2Proof.Machine.execSra d a b w n g s
  | .rol d a b w n g => Sys2Proof.Machine.execRol d a b w n g s
  | .min d a b w n g => Sys2Proof.Machine.execMin d a b w n g s
  | .max d a b w n g => Sys2Proof.Machine.execMax d a b w n g s
  | .minn d a b w n g => Sys2Proof.Machine.execMinn d a b w n g s
  | .maxn d a b w n g => Sys2Proof.Machine.execMaxn d a b w n g s
  | .clz d a w n g => Sys2Proof.Machine.execClz d a w n g s
  | .ctz d a w n g => Sys2Proof.Machine.execCtz d a w n g s
  | .mul d a b w n g => Sys2Proof.Machine.execMul d a b w n g s
  | .mulh d a b w n g => Sys2Proof.Machine.execMulh d a b w n g s
  | .mulhn d a b w n g => Sys2Proof.Machine.execMulhn d a b w n g s
  | .div d a b w n g => Sys2Proof.Machine.execDiv d a b w n g s
  | .divn d a b w n g => Sys2Proof.Machine.execDivn d a b w n g s
  | .rem d a b w n g => Sys2Proof.Machine.execRem d a b w n g s
  | .remn d a b w n g => Sys2Proof.Machine.execRemn d a b w n g s
  | .popc d a w n g => Sys2Proof.Machine.execPopc d a w n g s
  | .bswap d a w n g => Sys2Proof.Machine.execBswap d a w n g s
  | .addi d a k g => Sys2Proof.Machine.execAddi d a k g s
  | .andi d a k g => Sys2Proof.Machine.execAndi d a k g s
  | .ori d a k g => Sys2Proof.Machine.execOri d a k g s
  | .xori d a k g => Sys2Proof.Machine.execXori d a k g s
  | .shli d a sz g => Sys2Proof.Machine.execShli d a sz g s
  | .shri d a sz g => Sys2Proof.Machine.execShri d a sz g s
  | .srai d a sz g => Sys2Proof.Machine.execSrai d a sz g s
  | .extf d a w n p g => Sys2Proof.Machine.execExtf d a w n p g s
  | .insf d a w n p g => Sys2Proof.Machine.execInsf d a w n p g s
  | .sext d a w g => Sys2Proof.Machine.execSext d a w g s
  | .zext d a w g => Sys2Proof.Machine.execZext d a w g s
  | .liu d k g => Sys2Proof.Machine.execLiu d k g s
  | .cmp p a b w n c g => Sys2Proof.Machine.execCmp p a b w n c g s
  | .cmpi n p a c k g => Sys2Proof.Machine.execCmpi n p a c k g s
  | .pand d a b g => Sys2Proof.Machine.execPand d a b g s
  | .por d a b g => Sys2Proof.Machine.execPor d a b g s
  | .pxor d a b g => Sys2Proof.Machine.execPxor d a b g s
  | .pnot d a g => Sys2Proof.Machine.execPnot d a g s
  | .sel d a b sz g => Sys2Proof.Machine.execSel d a b sz g s
  | .pmovx d a g => Sys2Proof.Machine.execPmovx d a g s
  | .xmovp d a g => Sys2Proof.Machine.execXmovp d a g s
  | .fadd d a b t g => Sys2Proof.Machine.execFadd d a b t g s
  | .fsub d a b t g => Sys2Proof.Machine.execFsub d a b t g s
  | .fmul d a b t g => Sys2Proof.Machine.execFmul d a b t g s
  | .ffma d a b t g => Sys2Proof.Machine.execFfma d a b t g s
  | .fdiv d a b t g => Sys2Proof.Machine.execFdiv d a b t g s
  | .fsqrt d a t g => Sys2Proof.Machine.execFsqrt d a t g s
  | .fmin d a b t g => Sys2Proof.Machine.execFmin d a b t g s
  | .fmax d a b t g => Sys2Proof.Machine.execFmax d a b t g s
  | .fcmp t p a b c g => Sys2Proof.Machine.execFcmp t p a b c g s
  | .fcvt d a sz t g => Sys2Proof.Machine.execFcvt d a sz t g s
  | .br o g => Sys2Proof.Machine.execBr o g s
  | .call o g => Sys2Proof.Machine.execCall o g s
  | .jr a g => Sys2Proof.Machine.execJr a g s
  | .addpc d k g => Sys2Proof.Machine.execAddpc d k g s
  | .liw d g imm => Sys2Proof.Machine.execLiw d g imm s
  | .calll g imm => Sys2Proof.Machine.execCalll g imm s
  | .ld d a k sz g => Sys2Proof.Machine.execLd d a k sz g s
  | .ldn d a k sz g => Sys2Proof.Machine.execLdn d a k sz g s
  | .st d a k sz g => Sys2Proof.Machine.execSt d a k sz g s
  | .ldLong d a w g sc ord h off => Sys2Proof.Machine.execLdLong d a w g sc ord h off s
  | .ldnLong d a w g sc ord h off => Sys2Proof.Machine.execLdnLong d a w g sc ord h off s
  | .stLong d a w g sc ord h off => Sys2Proof.Machine.execStLong d a w g sc ord h off s
  | .ldv d a k g => Sys2Proof.Machine.execLdv d a k g s
  | .stv d a k g => Sys2Proof.Machine.execStv d a k g s
  | .ldvLong d a g sc ord h off => Sys2Proof.Machine.execLdvLong d a g sc ord h off s
  | .stvLong d a g sc ord h off => Sys2Proof.Machine.execStvLong d a g sc ord h off s
  | .ldvs d a b w g => Sys2Proof.Machine.execLdvs d a b w g s
  | .stvs d a b w g => Sys2Proof.Machine.execStvs d a b w g s
  | .vgather d a b w sz g => Sys2Proof.Machine.execVgather d a b w sz g s
  | .vscatter d a b w sz g => Sys2Proof.Machine.execVscatter d a b w sz g s
  | .ldvsLong d a w g sc ord h b => Sys2Proof.Machine.execLdvsLong d a w g sc ord h b s
  | .stvsLong d a w g sc ord h b => Sys2Proof.Machine.execStvsLong d a w g sc ord h b s
  | .vgatherLong d a w sz g sc ord h b => Sys2Proof.Machine.execVgatherLong d a w sz g sc ord h b s
  | .vscatterLong d a w sz g sc ord h b => Sys2Proof.Machine.execVscatterLong d a w sz g sc ord h b s
  | .pref a h g => Sys2Proof.Machine.execPref a h g s
  | .prefLong a g h off => Sys2Proof.Machine.execPrefLong a g h off s
  | .cflush a b sz g => Sys2Proof.Machine.execCflush a b sz g s
  | .cinv a b sz g => Sys2Proof.Machine.execCinv a b sz g s
  | .aadd d a b o sz g => Sys2Proof.Machine.execAadd d a b o sz g s
  | .aand d a b o sz g => Sys2Proof.Machine.execAand d a b o sz g s
  | .aor d a b o sz g => Sys2Proof.Machine.execAor d a b o sz g s
  | .axor d a b o sz g => Sys2Proof.Machine.execAxor d a b o sz g s
  | .amin d a b o sz g => Sys2Proof.Machine.execAmin d a b o sz g s
  | .amax d a b o sz g => Sys2Proof.Machine.execAmax d a b o sz g s
  | .aminn d a b o sz g => Sys2Proof.Machine.execAminn d a b o sz g s
  | .amaxn d a b o sz g => Sys2Proof.Machine.execAmaxn d a b o sz g s
  | .aswap d a b o sz g => Sys2Proof.Machine.execAswap d a b o sz g s
  | .acas d a b o sz g => Sys2Proof.Machine.execAcas d a b o sz g s
  | .aaddf d a b o sz g => Sys2Proof.Machine.execAaddf d a b o sz g s
  | .afaddF64 d a b o sz g => Sys2Proof.Machine.execAfaddF64 d a b o sz g s
  | .afmaxF64 d a b o sz g => Sys2Proof.Machine.execAfmaxF64 d a b o sz g s
  | .afaddF32 d a b o sz g => Sys2Proof.Machine.execAfaddF32 d a b o sz g s
  | .afmaxF32 d a b o sz g => Sys2Proof.Machine.execAfmaxF32 d a b o sz g s
  | .wread d a b g => Sys2Proof.Machine.execWread d a b g s
  | .wadd d a b g => Sys2Proof.Machine.execWadd d a b g s
  | .wset d a b g => Sys2Proof.Machine.execWset d a b g s
  | .wmax d a b g => Sys2Proof.Machine.execWmax d a b g s
  | .wlap d a g => Sys2Proof.Machine.execWlap d a g s
  | .vadd d a b t g => Sys2Proof.Machine.execVadd d a b t g s
  | .vsub d a b t g => Sys2Proof.Machine.execVsub d a b t g s
  | .vmul d a b t g => Sys2Proof.Machine.execVmul d a b t g s
  | .vmin d a b t g => Sys2Proof.Machine.execVmin d a b t g s
  | .vmax d a b t g => Sys2Proof.Machine.execVmax d a b t g s
  | .vdiv d a b t g => Sys2Proof.Machine.execVdiv d a b t g s
  | .vfma d a b t g => Sys2Proof.Machine.execVfma d a b t g s
  | .vfms d a b t g => Sys2Proof.Machine.execVfms d a b t g s
  | .vfnma d a b t g => Sys2Proof.Machine.execVfnma d a b t g s
  | .vabs d a t g => Sys2Proof.Machine.execVabs d a t g s
  | .vneg d a t g => Sys2Proof.Machine.execVneg d a t g s
  | .vsqrt d a t g => Sys2Proof.Machine.execVsqrt d a t g s
  | .vrcp d a g => Sys2Proof.Machine.execVrcp d a g s
  | .vrsqrt d a g => Sys2Proof.Machine.execVrsqrt d a g s
  | .vexp2 d a g => Sys2Proof.Machine.execVexp2 d a g s
  | .vlog2 d a g => Sys2Proof.Machine.execVlog2 d a g s
  | .vsin d a g => Sys2Proof.Machine.execVsin d a g s
  | .vcos d a g => Sys2Proof.Machine.execVcos d a g s
  | .viadd d a b w g => Sys2Proof.Machine.execViadd d a b w g s
  | .visub d a b w g => Sys2Proof.Machine.execVisub d a b w g s
  | .vimul d a b w g => Sys2Proof.Machine.execVimul d a b w g s
  | .vimin d a b w n g => Sys2Proof.Machine.execVimin d a b w n g s
  | .vimax d a b w n g => Sys2Proof.Machine.execVimax d a b w n g s
  | .vand d a b w g => Sys2Proof.Machine.execVand d a b w g s
  | .vor d a b w g => Sys2Proof.Machine.execVor d a b w g s
  | .vxor d a b w g => Sys2Proof.Machine.execVxor d a b w g s
  | .vshl d a b w g => Sys2Proof.Machine.execVshl d a b w g s
  | .vshr d a b w g => Sys2Proof.Machine.execVshr d a b w g s
  | .vsra d a b w g => Sys2Proof.Machine.execVsra d a b w g s
  | .vcmp p a b t c g => Sys2Proof.Machine.execVcmp p a b t c g s
  | .vicmp n p a b w c g => Sys2Proof.Machine.execVicmp n p a b w c g s
  | .vsel d a b w sz g => Sys2Proof.Machine.execVsel d a b w sz g s
  | .vcvt d a c r sz g => Sys2Proof.Machine.execVcvt d a c r sz g s
  | .vqdec d a b k g => Sys2Proof.Machine.execVqdec d a b k g s
  | .vqenc d a b k g => Sys2Proof.Machine.execVqenc d a b k g s
  | .vpack d a w p g => Sys2Proof.Machine.execVpack d a w p g s
  | .vunpk d a w p g => Sys2Proof.Machine.execVunpk d a w p g s
  | .vbcast d a w g => Sys2Proof.Machine.execVbcast d a w g s
  | .vmovx d a l g => Sys2Proof.Machine.execVmovx d a l g s
  | .vperm d a b g => Sys2Proof.Machine.execVperm d a b g s
  | .vshuf d a b p g => Sys2Proof.Machine.execVshuf d a b p g s
  | .vred d a w k o g => Sys2Proof.Machine.execVred d a w k o g s
  | .vscan d a w k o g => Sys2Proof.Machine.execVscan d a w k o g s
  | .vtopk d a b k g => Sys2Proof.Machine.execVtopk d a b k g s
  | .vpairk d a b k g => Sys2Proof.Machine.execVpairk d a b k g s
  | .voptu d a g => Sys2Proof.Machine.execVoptu d a g s
  | .scfg d a g => Sys2Proof.Machine.execScfg d a g s
  | .sbind d b g => Sys2Proof.Machine.execSbind d b g s
  | .sstop d g => Sys2Proof.Machine.execSstop d g s
  | .mlda a b g => Sys2Proof.Machine.execMlda a b g s
  | .mldb a b g => Sys2Proof.Machine.execMldb a b g s
  | .mzero d g => Sys2Proof.Machine.execMzero d g s
  | .mst d a g => Sys2Proof.Machine.execMst d a g s
  | .mstW d a g => Sys2Proof.Machine.execMstW d a g s
  | .mmaE4e4 d a b g => Sys2Proof.Machine.execMmaE4e4 d a b g s
  | .mmaE4e5 d a b g => Sys2Proof.Machine.execMmaE4e5 d a b g s
  | .mmaE5e4 d a b g => Sys2Proof.Machine.execMmaE5e4 d a b g s
  | .mmaE5e5 d a b g => Sys2Proof.Machine.execMmaE5e5 d a b g s
  | .mmaQ4e4 d a b g => Sys2Proof.Machine.execMmaQ4e4 d a b g s
  | .mmaBf d g => Sys2Proof.Machine.execMmaBf d g s
  | .mmaHf d g => Sys2Proof.Machine.execMmaHf d g s
  | .mmaF32 d g => Sys2Proof.Machine.execMmaF32 d g s
  | .mmaF64 d g => Sys2Proof.Machine.execMmaF64 d g s
  | .mmaI8 d g => Sys2Proof.Machine.execMmaI8 d g s
  | .rmmaE4e4 a b g => Sys2Proof.Machine.execRmmaE4e4 a b g s
  | .rmmaE4e5 a b g => Sys2Proof.Machine.execRmmaE4e5 a b g s
  | .rmmaE5e4 a b g => Sys2Proof.Machine.execRmmaE5e4 a b g s
  | .rmmaE5e5 a b g => Sys2Proof.Machine.execRmmaE5e5 a b g s
  | .rmmaQ4e4 a b g => Sys2Proof.Machine.execRmmaQ4e4 a b g s
  | .rmmaBf g => Sys2Proof.Machine.execRmmaBf g s
  | .rmmaHf g => Sys2Proof.Machine.execRmmaHf g s
  | .rmmaF32 g => Sys2Proof.Machine.execRmmaF32 g s
  | .rmmaI8 g => Sys2Proof.Machine.execRmmaI8 g s
  | .mgang g => Sys2Proof.Machine.execMgang g s
  | .mwait g => Sys2Proof.Machine.execMwait g s
  | .mrd d a b g => Sys2Proof.Machine.execMrd d a b g s
  | .mwr d a b g => Sys2Proof.Machine.execMwr d a b g s
  | .mclaim d g => Sys2Proof.Machine.execMclaim d g s
  | .mfree d g => Sys2Proof.Machine.execMfree d g s
  | .eset d a g => Sys2Proof.Machine.execEset d a g s
  | .erd d a g => Sys2Proof.Machine.execErd d a g s
  | .qpush d a g => Sys2Proof.Machine.execQpush d a g s
  | .qpop d a g => Sys2Proof.Machine.execQpop d a g s
  | .qnpush d a b g => Sys2Proof.Machine.execQnpush d a b g s
  | .qcnt d a g => Sys2Proof.Machine.execQcnt d a g s
  | .send d a b sz o g => Sys2Proof.Machine.execSend d a b sz o g s
  | .sendl d a b sz g => Sys2Proof.Machine.execSendl d a b sz g s
  | .hop d a b sz g => Sys2Proof.Machine.execHop d a b sz g s
  | .hopV d a b sz g => Sys2Proof.Machine.execHopV d a b sz g s
  | .spawn a b sz g => Sys2Proof.Machine.execSpawn a b sz g s
  | .spawnn d a b sz g => Sys2Proof.Machine.execSpawnn d a b sz g s
  | .commit g => Sys2Proof.Machine.execCommit g s
  | .done g => Sys2Proof.Machine.execDone g s
  | .yield g => Sys2Proof.Machine.execYield g s
  | .prio c g => Sys2Proof.Machine.execPrio c g s
  | .umask g => Sys2Proof.Machine.execUmask g s
  | .unmask g => Sys2Proof.Machine.execUnmask g s
  | .cntadd a g => Sys2Proof.Machine.execCntadd a g s
  | .cancel a g => Sys2Proof.Machine.execCancel a g s
  | .waitc d a g => Sys2Proof.Machine.execWaitc d a g s
  | .waitm d a b g => Sys2Proof.Machine.execWaitm d a b g s
  | .fence sz o g => Sys2Proof.Machine.execFence sz o g s
  | .drain p g => Sys2Proof.Machine.execDrain p g s
  | .bar a g => Sys2Proof.Machine.execBar a g s
  | .twalk a e g => Sys2Proof.Machine.execTwalk a e g s
  | .twb a e g => Sys2Proof.Machine.execTwb a e g s
  | .tdeal a e g => Sys2Proof.Machine.execTdeal a e g s
  | .permit a e g => Sys2Proof.Machine.execPermit a e g s
  | .pklook d a b g => Sys2Proof.Machine.execPklook d a b g s
  | .pkres d a b g => Sys2Proof.Machine.execPkres d a b g s
  | .pkscore d a b g => Sys2Proof.Machine.execPkscore d a b g s
  | .pkgw d a b g => Sys2Proof.Machine.execPkgw d a b g s
  | .srd d n m g => Sys2Proof.Machine.execSrd d n m g s
  | .swr a n m g => Sys2Proof.Machine.execSwr a n m g s
  | .trap a g => Sys2Proof.Machine.execTrap a g s
  | .eret a b g => Sys2Proof.Machine.execEret a b g s
  | .tlbwWrite d a b g => Sys2Proof.Machine.execTlbwWrite d a b g s
  | .tlbwAbsent d a b g => Sys2Proof.Machine.execTlbwAbsent d a b g s
  | .tlbwDeny d a b g => Sys2Proof.Machine.execTlbwDeny d a b g s
  | .tlbiPage a g => Sys2Proof.Machine.execTlbiPage a g s
  | .tlbiAsid a g => Sys2Proof.Machine.execTlbiAsid a g s
  | .tlbiAll a g => Sys2Proof.Machine.execTlbiAll a g s
  | .tlbp d a b g => Sys2Proof.Machine.execTlbp d a b g s
  | .idle a g => Sys2Proof.Machine.execIdle a g s
  | .wfm d a g => Sys2Proof.Machine.execWfm d a g s
  | .haltcFence a g => Sys2Proof.Machine.execHaltcFence a g s
  | .haltcUnfence a g => Sys2Proof.Machine.execHaltcUnfence a g s
  | .selft d a g => Sys2Proof.Machine.execSelft d a g s
  | .mailboxDelivery idx => Sys2Proof.Machine.execMailboxDelivery idx s
  | .sendFullRetry sid => Sys2Proof.Machine.execSendFullRetry sid s
  | .agentImageRetry idx => Sys2Proof.Machine.execAgentImageRetry idx s
  | .imageAgePromotion core => Sys2Proof.Machine.execImageAgePromotion core s
  | .imageBind core => Sys2Proof.Machine.execImageBind core s
  | .urgentBind core => Sys2Proof.Machine.execUrgentBind core s
  | .handlerStart sid => Sys2Proof.Machine.execHandlerStart sid s
  | .issueSelect core => Sys2Proof.Machine.execIssueSelect core s
  | .urgentWindowClose core => Sys2Proof.Machine.execUrgentWindowClose core s
  | .yieldTimeout sid => Sys2Proof.Machine.execYieldTimeout sid s
  | .stealProbe core => Sys2Proof.Machine.execStealProbe core s
  | .stealGrant core => Sys2Proof.Machine.execStealGrant core s
  | .stealBackoffExpiry core => Sys2Proof.Machine.execStealBackoffExpiry core s
  | .parkTimeout core => Sys2Proof.Machine.execParkTimeout core s
  | .wqRsv fn q => Sys2Proof.Machine.execWqRsv fn q s
  | .wqSlotWrite fn q off words => Sys2Proof.Machine.execWqSlotWrite fn q off words s
  | .wqReservationTimeout q slot => Sys2Proof.Machine.execWqReservationTimeout q slot s
  | .rootAdmission q => Sys2Proof.Machine.execRootAdmission q s
  | .rootAdmitRetry q => Sys2Proof.Machine.execRootAdmitRetry q s
  | .cancelAnswer sid perm => Sys2Proof.Machine.execCancelAnswer sid perm s
  | .cancelMarkArrival core launch => Sys2Proof.Machine.execCancelMarkArrival core launch s
  | .sliceEnd => Sys2Proof.Machine.execSliceEnd s
  | .sliceStart => Sys2Proof.Machine.execSliceStart s
  | .watchdog sid => Sys2Proof.Machine.execWatchdog sid s
  | .errorDetect sid addr unit => Sys2Proof.Machine.execErrorDetect sid addr unit s
  | .completionDelivery idx => Sys2Proof.Machine.execCompletionDelivery idx s
  | .waitmReread sid => Sys2Proof.Machine.execWaitmReread sid s
  | .remoteAnswer rid status payload aux => Sys2Proof.Machine.execRemoteAnswer rid status payload aux s
  | .rnrResend rid => Sys2Proof.Machine.execRnrResend rid s
  | .remoteAgentRequest idx => Sys2Proof.Machine.execRemoteAgentRequest idx s
  | .pkluAdmission cl => Sys2Proof.Machine.execPkluAdmission cl s
  | .pkluSelectionDone cl id => Sys2Proof.Machine.execPkluSelectionDone cl id s
  | .pkluFetchIssue cl => Sys2Proof.Machine.execPkluFetchIssue cl s
  | .pkluRowArrival cl fetch mcheck => Sys2Proof.Machine.execPkluRowArrival cl fetch mcheck s
  | .streamFetchArrival sid z => Sys2Proof.Machine.execStreamFetchArrival sid z s
  | .matrixCommandExecute core => Sys2Proof.Machine.execMatrixCommandExecute core s
  | .rmmaRingStep troupe => Sys2Proof.Machine.execRmmaRingStep troupe s
  | .engineCommandAccept cl e => Sys2Proof.Machine.execEngineCommandAccept cl e s
  | .permitMessage cl e => Sys2Proof.Machine.execPermitMessage cl e s
  | .engineTileWrite cl e => Sys2Proof.Machine.execEngineTileWrite cl e s
  | .lapBoundary region slice => Sys2Proof.Machine.execLapBoundary region slice s
  | .sweepRowVisit region slice => Sys2Proof.Machine.execSweepRowVisit region slice s
  | .whirligigRequestArrival idx => Sys2Proof.Machine.execWhirligigRequestArrival idx s
  | .whirligigRetag idx => Sys2Proof.Machine.execWhirligigRetag idx s
  | .readReply idx => Sys2Proof.Machine.execReadReply idx s
  | .updateAcknowledgement idx => Sys2Proof.Machine.execUpdateAcknowledgement idx s
  | .createRegion creator desc target => Sys2Proof.Machine.execCreateRegion creator desc target s
  | .destroyRegion creator base z target => Sys2Proof.Machine.execDestroyRegion creator base z target s
  | .chooseDestinationTsc creator sel target => Sys2Proof.Machine.execChooseDestinationTsc creator sel target s
  | .gatewayOutgoing idx => Sys2Proof.Machine.execGatewayOutgoing idx s
  | .portHoldTimeout idx => Sys2Proof.Machine.execPortHoldTimeout idx s
  | .gatewayArrival die idx => Sys2Proof.Machine.execGatewayArrival die idx s
  | .dieLinkFailure link => Sys2Proof.Machine.execDieLinkFailure link s
  | .flitTransmit port => Sys2Proof.Machine.execFlitTransmit port s
  | .flitReceive port hdr payload tagOk => Sys2Proof.Machine.execFlitReceive port hdr payload tagOk s
  | .idleFlit port => Sys2Proof.Machine.execIdleFlit port s
  | .replayRetry port => Sys2Proof.Machine.execReplayRetry port s
  | .trainingComplete port good plane sw partner => Sys2Proof.Machine.execTrainingComplete port good plane sw partner s
  | .trainingTimeout port => Sys2Proof.Machine.execTrainingTimeout port s
  | .portRetry port => Sys2Proof.Machine.execPortRetry port s
  | .switch port => Sys2Proof.Machine.execSwitch port s
  | .retrain port => Sys2Proof.Machine.execRetrain port s
  | .clrerr port => Sys2Proof.Machine.execClrerr port s
  | .disable port on => Sys2Proof.Machine.execDisable port on s
  | .ksCtlReady port slot => Sys2Proof.Machine.execKsCtlReady port slot s
  | .ksCtlEmpty port slot => Sys2Proof.Machine.execKsCtlEmpty port slot s
  | .werrClear port => Sys2Proof.Machine.execWerrClear port s
  | .registerWrite page unit off value => Sys2Proof.Machine.execRegisterWrite page unit off value s
  | .hostMemoryAccess write pa mask line => Sys2Proof.Machine.execHostMemoryAccess write pa mask line s
  | .graphsub fn addr => Sys2Proof.Machine.execGraphsub fn addr s
  | .phasectl fn word => Sys2Proof.Machine.execPhasectl fn word s
  | .phaseAllreduceDone phase => Sys2Proof.Machine.execPhaseAllreduceDone phase s
  | .cancelw fn name => Sys2Proof.Machine.execCancelw fn name s
  | .prresp fn word => Sys2Proof.Machine.execPrresp fn word s
  | .slicereq addr => Sys2Proof.Machine.execSlicereq addr s
  | .attreq addr => Sys2Proof.Machine.execAttreq addr s
  | .attestationReportDone => Sys2Proof.Machine.execAttestationReportDone s
  | .wqcfg q value => Sys2Proof.Machine.execWqcfg q value s
  | .hrcfg ring word value => Sys2Proof.Machine.execHrcfg ring word value s
  | .syncMessage early ticks => Sys2Proof.Machine.execSyncMessage early ticks s
  | .syncTimeout => Sys2Proof.Machine.execSyncTimeout s
  | .healthSelftest unit pass => Sys2Proof.Machine.execHealthSelftest unit pass s
  | .eolUpdate => Sys2Proof.Machine.execEolUpdate s
  | .powerGood image hbmFail => Sys2Proof.Machine.execPowerGood image hbmFail s
  | .smbusStatusRead => Sys2Proof.Machine.execSmbusStatusRead s
  | .localAccessCompletion cl pa fill => Sys2Proof.Machine.execLocalAccessCompletion cl pa fill s
  | .idleWfmTimeout sid => Sys2Proof.Machine.execIdleWfmTimeout sid s
  | .correctableError unit => Sys2Proof.Machine.execCorrectableError unit s
  | .backInvalidateComplete pa => Sys2Proof.Machine.execBackInvalidateComplete pa s
  | .selftResult sid result => Sys2Proof.Machine.execSelftResult sid result s
  | .externalSourceLock pkg locked => Sys2Proof.Machine.execExternalSourceLock pkg locked s

end Sys2Proof.Machine
end

