-- ==== Sys2Proof/WellFormed.lean ====
section
/-! DEFINITION. Which operands an instruction word may carry beyond the fixed bits of its row: the codes that R82, R88
and the entries list. A word that breaks one of these traps ILLEGAL at decode (R86 step 1). -/

namespace Sys2Proof

/-- The instruction's fields hold codes the spec lists for it. An event has no encoding and is no instruction word. -/
def Instr.wf : Instr → Bool
  | .add _ _ _ _ _ _ => true
  | .sub _ _ _ _ _ _ => true
  | .and _ _ _ _ _ _ => true
  | .or _ _ _ _ _ _ => true
  | .xor _ _ _ _ _ _ => true
  | .andn _ _ _ _ _ _ => true
  | .shl _ _ _ _ _ _ => true
  | .shr _ _ _ _ _ _ => true
  | .sra _ _ _ _ _ _ => true
  | .rol _ _ _ _ _ _ => true
  | .min _ _ _ _ _ _ => true
  | .max _ _ _ _ _ _ => true
  | .minn _ _ _ _ _ _ => true
  | .maxn _ _ _ _ _ _ => true
  | .clz _ _ _ _ _ => true
  | .ctz _ _ _ _ _ => true
  | .mul _ _ _ _ _ _ => true
  | .mulh _ _ _ _ _ _ => true
  | .mulhn _ _ _ _ _ _ => true
  | .div _ _ _ _ _ _ => true
  | .divn _ _ _ _ _ _ => true
  | .rem _ _ _ _ _ _ => true
  | .remn _ _ _ _ _ _ => true
  | .popc _ _ _ _ _ => true
  | .bswap _ _ w _ _ => decide (w ≠ 0)
  | .addi _ _ _ _ => true
  | .andi _ _ _ _ => true
  | .ori _ _ _ _ => true
  | .xori _ _ _ _ => true
  | .shli _ _ _ _ => true
  | .shri _ _ _ _ => true
  | .srai _ _ _ _ => true
  | .extf _ _ w _ p _ => decide (p.toNat + 8 * 2 ^ w.toNat ≤ 64)
  | .insf _ _ w _ p _ => decide (p.toNat + 8 * 2 ^ w.toNat ≤ 64)
  | .sext _ _ w _ => decide (w.toNat < 3)
  | .zext _ _ w _ => decide (w.toNat < 3)
  | .liu _ _ _ => true
  | .cmp _ _ _ _ _ c _ => decide (c.toNat ≤ 5)
  | .cmpi _ _ _ c _ _ => decide (c.toNat ≤ 5)
  | .pand _ _ _ _ => true
  | .por _ _ _ _ => true
  | .pxor _ _ _ _ => true
  | .pnot _ _ _ => true
  | .sel _ _ _ _ _ => true
  | .pmovx _ _ _ => true
  | .xmovp _ _ _ => true
  | .fadd _ _ _ t _ => decide (t.toNat ≤ 1)
  | .fsub _ _ _ t _ => decide (t.toNat ≤ 1)
  | .fmul _ _ _ t _ => decide (t.toNat ≤ 1)
  | .ffma _ _ _ t _ => decide (t.toNat ≤ 1)
  | .fdiv _ _ _ t _ => decide (t.toNat ≤ 1)
  | .fsqrt _ _ t _ => decide (t.toNat ≤ 1)
  | .fmin _ _ _ t _ => decide (t.toNat ≤ 1)
  | .fmax _ _ _ t _ => decide (t.toNat ≤ 1)
  | .fcmp _ _ _ _ c _ => decide (c.toNat ≤ 6)
  | .fcvt _ _ s t _ => decide (s ≠ t ∧ ¬(4 ≤ s.toNat ∧ 4 ≤ t.toNat))
  | .br _ _ => true
  | .call _ _ => true
  | .jr _ _ => true
  | .addpc _ _ _ => true
  | .liw _ _ _ => true
  | .calll _ _ => true
  | .ld _ _ _ _ _ => true
  | .ldn _ _ _ _ _ => true
  | .st _ _ _ _ _ => true
  | .ldLong _ _ _ _ sc ord h _ => decide ((ord = 0 ∨ ord = 1 ∨ ord = 4) ∧ sc.toNat ≤ 4 ∧ h.toNat ≤ 2)
  | .ldnLong _ _ _ _ sc ord h _ => decide ((ord = 0 ∨ ord = 1 ∨ ord = 4) ∧ sc.toNat ≤ 4 ∧ h.toNat ≤ 2)
  | .stLong _ _ _ _ sc ord h _ => decide ((ord = 0 ∨ ord = 2 ∨ ord = 4) ∧ sc.toNat ≤ 4 ∧ h.toNat ≤ 2)
  | .ldv _ _ _ _ => true
  | .stv _ _ _ _ => true
  | .ldvLong _ _ _ sc ord h _ => decide ((ord = 0 ∨ ord = 1 ∨ ord = 4) ∧ sc.toNat ≤ 4 ∧ h.toNat ≤ 2)
  | .stvLong _ _ _ sc ord h _ => decide ((ord = 0 ∨ ord = 2 ∨ ord = 4) ∧ sc.toNat ≤ 4 ∧ h.toNat ≤ 2)
  | .ldvs _ _ _ _ _ => true
  | .stvs _ _ _ _ _ => true
  | .vgather d _ b _ _ _ => decide (d ≠ b)
  | .vscatter d _ b _ _ _ => decide (d ≠ b)
  | .ldvsLong _ _ _ _ sc ord h _ => decide ((ord = 0 ∨ ord = 1 ∨ ord = 4) ∧ sc.toNat ≤ 4 ∧ h.toNat ≤ 2)
  | .stvsLong _ _ _ _ sc ord h _ => decide ((ord = 0 ∨ ord = 2 ∨ ord = 4) ∧ sc.toNat ≤ 4 ∧ h.toNat ≤ 2)
  | .vgatherLong d _ _ _ _ sc ord h b => decide ((ord = 0 ∨ ord = 1 ∨ ord = 4) ∧ sc.toNat ≤ 4 ∧ h.toNat ≤ 2 ∧ d ≠ b)
  | .vscatterLong d _ _ _ _ sc ord h b => decide ((ord = 0 ∨ ord = 2 ∨ ord = 4) ∧ sc.toNat ≤ 4 ∧ h.toNat ≤ 2 ∧ d ≠ b)
  | .pref _ h _ => decide (h.toNat ≤ 1)
  | .prefLong _ _ h _ => decide (h.toNat ≤ 1)
  | .cflush _ _ s _ => decide (2 ≤ s.toNat ∧ s.toNat ≤ 4)
  | .cinv _ _ s _ => decide (2 ≤ s.toNat ∧ s.toNat ≤ 4)
  | .aadd _ _ _ _ s _ => decide (s.toNat ≤ 4)
  | .aand _ _ _ _ s _ => decide (s.toNat ≤ 4)
  | .aor _ _ _ _ s _ => decide (s.toNat ≤ 4)
  | .axor _ _ _ _ s _ => decide (s.toNat ≤ 4)
  | .amin _ _ _ _ s _ => decide (s.toNat ≤ 4)
  | .amax _ _ _ _ s _ => decide (s.toNat ≤ 4)
  | .aminn _ _ _ _ s _ => decide (s.toNat ≤ 4)
  | .amaxn _ _ _ _ s _ => decide (s.toNat ≤ 4)
  | .aswap _ _ _ _ s _ => decide (s.toNat ≤ 4)
  | .acas _ _ _ _ s _ => decide (s.toNat ≤ 4)
  | .aaddf _ _ _ _ s _ => decide (s.toNat ≤ 4)
  | .afaddF64 _ _ _ _ s _ => decide (s.toNat ≤ 4)
  | .afmaxF64 _ _ _ _ s _ => decide (s.toNat ≤ 4)
  | .afaddF32 _ _ _ _ s _ => decide (s.toNat ≤ 4)
  | .afmaxF32 _ _ _ _ s _ => decide (s.toNat ≤ 4)
  | .wread _ _ _ _ => true
  | .wadd _ _ _ _ => true
  | .wset _ _ _ _ => true
  | .wmax _ _ _ _ => true
  | .wlap _ _ _ => true
  | .vadd _ _ _ _ _ => true
  | .vsub _ _ _ _ _ => true
  | .vmul _ _ _ _ _ => true
  | .vmin _ _ _ _ _ => true
  | .vmax _ _ _ _ _ => true
  | .vdiv _ _ _ _ _ => true
  | .vfma _ _ _ _ _ => true
  | .vfms _ _ _ _ _ => true
  | .vfnma _ _ _ _ _ => true
  | .vabs _ _ _ _ => true
  | .vneg _ _ _ _ => true
  | .vsqrt _ _ _ _ => true
  | .vrcp _ _ _ => true
  | .vrsqrt _ _ _ => true
  | .vexp2 _ _ _ => true
  | .vlog2 _ _ _ => true
  | .vsin _ _ _ => true
  | .vcos _ _ _ => true
  | .viadd _ _ _ _ _ => true
  | .visub _ _ _ _ _ => true
  | .vimul _ _ _ _ _ => true
  | .vimin _ _ _ _ _ _ => true
  | .vimax _ _ _ _ _ _ => true
  | .vand _ _ _ _ _ => true
  | .vor _ _ _ _ _ => true
  | .vxor _ _ _ _ _ => true
  | .vshl _ _ _ _ _ => true
  | .vshr _ _ _ _ _ => true
  | .vsra _ _ _ _ _ => true
  | .vcmp _ _ _ _ c _ => decide (c.toNat ≤ 6)
  | .vicmp _ _ _ _ _ c _ => decide (c.toNat ≤ 5)
  | .vsel _ _ _ _ _ _ => true
  | .vcvt _ _ c r s _ => decide (r.toNat ≤ 4 ∧ (s = 0 ∨ c.toNat < 16))
  | .vqdec _ _ _ _ _ => true
  | .vqenc _ _ _ _ _ => true
  | .vpack _ _ w p _ => decide (w.toNat ≤ 1 ∧ (w = 0 ∨ p.toNat ≤ 1))
  | .vunpk _ _ w p _ => decide (w.toNat ≤ 1 ∧ (w = 0 ∨ p.toNat ≤ 1))
  | .vbcast _ _ _ _ => true
  | .vmovx _ _ _ _ => true
  | .vperm _ _ _ _ => true
  | .vshuf _ _ b p _ => decide (p.toNat < 6 ∨ b = 0)
  | .vred _ _ _ _ o _ => decide (o.toNat ≤ 2)
  | .vscan _ _ _ _ o _ => decide (o.toNat ≤ 2)
  | .vtopk _ _ _ _ _ => true
  | .vpairk _ _ _ _ _ => true
  | .voptu d a _ => decide (d.toNat % 4 = 0 ∧ a.toNat % 4 = 0)
  | .scfg _ _ _ => true
  | .sbind _ b _ => decide (24 ≤ b.toNat)
  | .sstop _ _ => true
  | .mlda _ _ _ => true
  | .mldb _ _ _ => true
  | .mzero _ _ => true
  | .mst _ _ _ => true
  | .mstW _ _ _ => true
  | .mmaE4e4 _ _ _ _ => true
  | .mmaE4e5 _ _ _ _ => true
  | .mmaE5e4 _ _ _ _ => true
  | .mmaE5e5 _ _ _ _ => true
  | .mmaQ4e4 _ _ _ _ => true
  | .mmaBf _ _ => true
  | .mmaHf _ _ => true
  | .mmaF32 _ _ => true
  | .mmaF64 _ _ => true
  | .mmaI8 _ _ => true
  | .rmmaE4e4 _ _ _ => true
  | .rmmaE4e5 _ _ _ => true
  | .rmmaE5e4 _ _ _ => true
  | .rmmaE5e5 _ _ _ => true
  | .rmmaQ4e4 _ _ _ => true
  | .rmmaBf _ => true
  | .rmmaHf _ => true
  | .rmmaF32 _ => true
  | .rmmaI8 _ => true
  | .mgang _ => true
  | .mwait _ => true
  | .mrd _ _ _ _ => true
  | .mwr _ _ _ _ => true
  | .mclaim _ _ => true
  | .mfree _ _ => true
  | .eset _ _ _ => true
  | .erd _ _ _ => true
  | .qpush _ _ _ => true
  | .qpop _ _ _ => true
  | .qnpush _ _ _ _ => true
  | .qcnt _ _ _ => true
  | .send _ _ _ s _ _ => decide (s.toNat ≤ 4 ∨ s = 7)
  | .sendl _ _ _ s _ => decide (s.toNat ≤ 4 ∨ s = 7)
  | .hop _ _ _ s _ => decide (s.toNat ≤ 4 ∨ s = 7)
  | .hopV _ _ _ s _ => decide (s.toNat ≤ 4 ∨ s = 7)
  | .spawn _ _ s _ => decide (s.toNat ≤ 4 ∨ s = 7)
  | .spawnn _ _ _ s _ => decide (s.toNat ≤ 4 ∨ s = 7)
  | .commit _ => true
  | .done _ => true
  | .yield _ => true
  | .prio _ _ => true
  | .umask _ => true
  | .unmask _ => true
  | .cntadd _ _ => true
  | .cancel _ _ => true
  | .waitc _ _ _ => true
  | .waitm _ _ _ _ => true
  | .fence s o _ => decide (1 ≤ o.toNat ∧ o.toNat ≤ 4 ∧ s.toNat ≤ 4)
  | .drain p _ => decide (p.toNat ≤ 2)
  | .bar _ _ => true
  | .twalk _ _ _ => true
  | .twb _ _ _ => true
  | .tdeal _ _ _ => true
  | .permit _ _ _ => true
  | .pklook _ _ _ _ => true
  | .pkres _ _ _ _ => true
  | .pkscore _ _ _ _ => true
  | .pkgw _ _ _ _ => true
  | .srd _ n m _ => decide (m.toNat * 32 + n.toNat ≤ 0x00B ∨ (0x100 ≤ m.toNat * 32 + n.toNat ∧ m.toNat * 32 + n.toNat ≤ 0x10B))
  | .swr _ n m _ => decide (m.toNat * 32 + n.toNat ≤ 0x00B ∨ (0x100 ≤ m.toNat * 32 + n.toNat ∧ m.toNat * 32 + n.toNat ≤ 0x10B))
  | .trap _ _ => true
  | .eret _ _ _ => true
  | .tlbwWrite _ _ _ _ => true
  | .tlbwAbsent _ _ _ _ => true
  | .tlbwDeny _ _ _ _ => true
  | .tlbiPage _ _ => true
  | .tlbiAsid _ _ => true
  | .tlbiAll _ _ => true
  | .tlbp _ _ _ _ => true
  | .idle _ _ => true
  | .wfm _ _ _ => true
  | .haltcFence _ _ => true
  | .haltcUnfence _ _ => true
  | .selft _ _ _ => true
  | .mailboxDelivery _ => false
  | .sendFullRetry _ => false
  | .agentImageRetry _ => false
  | .imageAgePromotion _ => false
  | .imageBind _ => false
  | .urgentBind _ => false
  | .handlerStart _ => false
  | .issueSelect _ => false
  | .urgentWindowClose _ => false
  | .yieldTimeout _ => false
  | .stealProbe _ => false
  | .stealGrant _ => false
  | .stealBackoffExpiry _ => false
  | .parkTimeout _ => false
  | .wqRsv _ _ => false
  | .wqSlotWrite _ _ _ _ => false
  | .wqReservationTimeout _ _ => false
  | .rootAdmission _ => false
  | .rootAdmitRetry _ => false
  | .cancelAnswer _ _ => false
  | .cancelMarkArrival _ _ => false
  | .sliceEnd => false
  | .sliceStart => false
  | .watchdog _ => false
  | .errorDetect _ _ _ => false
  | .completionDelivery _ => false
  | .waitmReread _ => false
  | .remoteAnswer _ _ _ _ => false
  | .rnrResend _ => false
  | .remoteAgentRequest _ => false
  | .pkluAdmission _ => false
  | .pkluSelectionDone _ _ => false
  | .pkluFetchIssue _ => false
  | .pkluRowArrival _ _ _ => false
  | .streamFetchArrival _ _ => false
  | .matrixCommandExecute _ => false
  | .rmmaRingStep _ => false
  | .engineCommandAccept _ _ => false
  | .permitMessage _ _ => false
  | .engineTileWrite _ _ => false
  | .lapBoundary _ _ => false
  | .sweepRowVisit _ _ => false
  | .whirligigRequestArrival _ => false
  | .whirligigRetag _ => false
  | .readReply _ => false
  | .updateAcknowledgement _ => false
  | .createRegion _ _ _ => false
  | .destroyRegion _ _ _ _ => false
  | .chooseDestinationTsc _ _ _ => false
  | .gatewayOutgoing _ => false
  | .portHoldTimeout _ => false
  | .gatewayArrival _ _ => false
  | .dieLinkFailure _ => false
  | .flitTransmit _ => false
  | .flitReceive _ _ _ _ => false
  | .idleFlit _ => false
  | .replayRetry _ => false
  | .trainingComplete _ _ _ _ _ => false
  | .trainingTimeout _ => false
  | .portRetry _ => false
  | .switch _ => false
  | .retrain _ => false
  | .clrerr _ => false
  | .disable _ _ => false
  | .ksCtlReady _ _ => false
  | .ksCtlEmpty _ _ => false
  | .werrClear _ => false
  | .registerWrite _ _ _ _ => false
  | .hostMemoryAccess _ _ _ _ => false
  | .graphsub _ _ => false
  | .phasectl _ _ => false
  | .phaseAllreduceDone _ => false
  | .cancelw _ _ => false
  | .prresp _ _ => false
  | .slicereq _ => false
  | .attreq _ => false
  | .attestationReportDone => false
  | .wqcfg _ _ => false
  | .hrcfg _ _ _ => false
  | .syncMessage _ _ => false
  | .syncTimeout => false
  | .healthSelftest _ _ => false
  | .eolUpdate => false
  | .powerGood _ _ => false
  | .smbusStatusRead => false
  | .localAccessCompletion _ _ _ => false
  | .idleWfmTimeout _ => false
  | .correctableError _ => false
  | .backInvalidateComplete _ => false
  | .selftResult _ _ => false
  | .externalSourceLock _ _ => false

/-- The row has no encoding: it is an operation or event of the machine. -/
def Instr.isEvent : Instr → Bool
  | .add _ _ _ _ _ _ => false
  | .sub _ _ _ _ _ _ => false
  | .and _ _ _ _ _ _ => false
  | .or _ _ _ _ _ _ => false
  | .xor _ _ _ _ _ _ => false
  | .andn _ _ _ _ _ _ => false
  | .shl _ _ _ _ _ _ => false
  | .shr _ _ _ _ _ _ => false
  | .sra _ _ _ _ _ _ => false
  | .rol _ _ _ _ _ _ => false
  | .min _ _ _ _ _ _ => false
  | .max _ _ _ _ _ _ => false
  | .minn _ _ _ _ _ _ => false
  | .maxn _ _ _ _ _ _ => false
  | .clz _ _ _ _ _ => false
  | .ctz _ _ _ _ _ => false
  | .mul _ _ _ _ _ _ => false
  | .mulh _ _ _ _ _ _ => false
  | .mulhn _ _ _ _ _ _ => false
  | .div _ _ _ _ _ _ => false
  | .divn _ _ _ _ _ _ => false
  | .rem _ _ _ _ _ _ => false
  | .remn _ _ _ _ _ _ => false
  | .popc _ _ _ _ _ => false
  | .bswap _ _ _ _ _ => false
  | .addi _ _ _ _ => false
  | .andi _ _ _ _ => false
  | .ori _ _ _ _ => false
  | .xori _ _ _ _ => false
  | .shli _ _ _ _ => false
  | .shri _ _ _ _ => false
  | .srai _ _ _ _ => false
  | .extf _ _ _ _ _ _ => false
  | .insf _ _ _ _ _ _ => false
  | .sext _ _ _ _ => false
  | .zext _ _ _ _ => false
  | .liu _ _ _ => false
  | .cmp _ _ _ _ _ _ _ => false
  | .cmpi _ _ _ _ _ _ => false
  | .pand _ _ _ _ => false
  | .por _ _ _ _ => false
  | .pxor _ _ _ _ => false
  | .pnot _ _ _ => false
  | .sel _ _ _ _ _ => false
  | .pmovx _ _ _ => false
  | .xmovp _ _ _ => false
  | .fadd _ _ _ _ _ => false
  | .fsub _ _ _ _ _ => false
  | .fmul _ _ _ _ _ => false
  | .ffma _ _ _ _ _ => false
  | .fdiv _ _ _ _ _ => false
  | .fsqrt _ _ _ _ => false
  | .fmin _ _ _ _ _ => false
  | .fmax _ _ _ _ _ => false
  | .fcmp _ _ _ _ _ _ => false
  | .fcvt _ _ _ _ _ => false
  | .br _ _ => false
  | .call _ _ => false
  | .jr _ _ => false
  | .addpc _ _ _ => false
  | .liw _ _ _ => false
  | .calll _ _ => false
  | .ld _ _ _ _ _ => false
  | .ldn _ _ _ _ _ => false
  | .st _ _ _ _ _ => false
  | .ldLong _ _ _ _ _ _ _ _ => false
  | .ldnLong _ _ _ _ _ _ _ _ => false
  | .stLong _ _ _ _ _ _ _ _ => false
  | .ldv _ _ _ _ => false
  | .stv _ _ _ _ => false
  | .ldvLong _ _ _ _ _ _ _ => false
  | .stvLong _ _ _ _ _ _ _ => false
  | .ldvs _ _ _ _ _ => false
  | .stvs _ _ _ _ _ => false
  | .vgather _ _ _ _ _ _ => false
  | .vscatter _ _ _ _ _ _ => false
  | .ldvsLong _ _ _ _ _ _ _ _ => false
  | .stvsLong _ _ _ _ _ _ _ _ => false
  | .vgatherLong _ _ _ _ _ _ _ _ _ => false
  | .vscatterLong _ _ _ _ _ _ _ _ _ => false
  | .pref _ _ _ => false
  | .prefLong _ _ _ _ => false
  | .cflush _ _ _ _ => false
  | .cinv _ _ _ _ => false
  | .aadd _ _ _ _ _ _ => false
  | .aand _ _ _ _ _ _ => false
  | .aor _ _ _ _ _ _ => false
  | .axor _ _ _ _ _ _ => false
  | .amin _ _ _ _ _ _ => false
  | .amax _ _ _ _ _ _ => false
  | .aminn _ _ _ _ _ _ => false
  | .amaxn _ _ _ _ _ _ => false
  | .aswap _ _ _ _ _ _ => false
  | .acas _ _ _ _ _ _ => false
  | .aaddf _ _ _ _ _ _ => false
  | .afaddF64 _ _ _ _ _ _ => false
  | .afmaxF64 _ _ _ _ _ _ => false
  | .afaddF32 _ _ _ _ _ _ => false
  | .afmaxF32 _ _ _ _ _ _ => false
  | .wread _ _ _ _ => false
  | .wadd _ _ _ _ => false
  | .wset _ _ _ _ => false
  | .wmax _ _ _ _ => false
  | .wlap _ _ _ => false
  | .vadd _ _ _ _ _ => false
  | .vsub _ _ _ _ _ => false
  | .vmul _ _ _ _ _ => false
  | .vmin _ _ _ _ _ => false
  | .vmax _ _ _ _ _ => false
  | .vdiv _ _ _ _ _ => false
  | .vfma _ _ _ _ _ => false
  | .vfms _ _ _ _ _ => false
  | .vfnma _ _ _ _ _ => false
  | .vabs _ _ _ _ => false
  | .vneg _ _ _ _ => false
  | .vsqrt _ _ _ _ => false
  | .vrcp _ _ _ => false
  | .vrsqrt _ _ _ => false
  | .vexp2 _ _ _ => false
  | .vlog2 _ _ _ => false
  | .vsin _ _ _ => false
  | .vcos _ _ _ => false
  | .viadd _ _ _ _ _ => false
  | .visub _ _ _ _ _ => false
  | .vimul _ _ _ _ _ => false
  | .vimin _ _ _ _ _ _ => false
  | .vimax _ _ _ _ _ _ => false
  | .vand _ _ _ _ _ => false
  | .vor _ _ _ _ _ => false
  | .vxor _ _ _ _ _ => false
  | .vshl _ _ _ _ _ => false
  | .vshr _ _ _ _ _ => false
  | .vsra _ _ _ _ _ => false
  | .vcmp _ _ _ _ _ _ => false
  | .vicmp _ _ _ _ _ _ _ => false
  | .vsel _ _ _ _ _ _ => false
  | .vcvt _ _ _ _ _ _ => false
  | .vqdec _ _ _ _ _ => false
  | .vqenc _ _ _ _ _ => false
  | .vpack _ _ _ _ _ => false
  | .vunpk _ _ _ _ _ => false
  | .vbcast _ _ _ _ => false
  | .vmovx _ _ _ _ => false
  | .vperm _ _ _ _ => false
  | .vshuf _ _ _ _ _ => false
  | .vred _ _ _ _ _ _ => false
  | .vscan _ _ _ _ _ _ => false
  | .vtopk _ _ _ _ _ => false
  | .vpairk _ _ _ _ _ => false
  | .voptu _ _ _ => false
  | .scfg _ _ _ => false
  | .sbind _ _ _ => false
  | .sstop _ _ => false
  | .mlda _ _ _ => false
  | .mldb _ _ _ => false
  | .mzero _ _ => false
  | .mst _ _ _ => false
  | .mstW _ _ _ => false
  | .mmaE4e4 _ _ _ _ => false
  | .mmaE4e5 _ _ _ _ => false
  | .mmaE5e4 _ _ _ _ => false
  | .mmaE5e5 _ _ _ _ => false
  | .mmaQ4e4 _ _ _ _ => false
  | .mmaBf _ _ => false
  | .mmaHf _ _ => false
  | .mmaF32 _ _ => false
  | .mmaF64 _ _ => false
  | .mmaI8 _ _ => false
  | .rmmaE4e4 _ _ _ => false
  | .rmmaE4e5 _ _ _ => false
  | .rmmaE5e4 _ _ _ => false
  | .rmmaE5e5 _ _ _ => false
  | .rmmaQ4e4 _ _ _ => false
  | .rmmaBf _ => false
  | .rmmaHf _ => false
  | .rmmaF32 _ => false
  | .rmmaI8 _ => false
  | .mgang _ => false
  | .mwait _ => false
  | .mrd _ _ _ _ => false
  | .mwr _ _ _ _ => false
  | .mclaim _ _ => false
  | .mfree _ _ => false
  | .eset _ _ _ => false
  | .erd _ _ _ => false
  | .qpush _ _ _ => false
  | .qpop _ _ _ => false
  | .qnpush _ _ _ _ => false
  | .qcnt _ _ _ => false
  | .send _ _ _ _ _ _ => false
  | .sendl _ _ _ _ _ => false
  | .hop _ _ _ _ _ => false
  | .hopV _ _ _ _ _ => false
  | .spawn _ _ _ _ => false
  | .spawnn _ _ _ _ _ => false
  | .commit _ => false
  | .done _ => false
  | .yield _ => false
  | .prio _ _ => false
  | .umask _ => false
  | .unmask _ => false
  | .cntadd _ _ => false
  | .cancel _ _ => false
  | .waitc _ _ _ => false
  | .waitm _ _ _ _ => false
  | .fence _ _ _ => false
  | .drain _ _ => false
  | .bar _ _ => false
  | .twalk _ _ _ => false
  | .twb _ _ _ => false
  | .tdeal _ _ _ => false
  | .permit _ _ _ => false
  | .pklook _ _ _ _ => false
  | .pkres _ _ _ _ => false
  | .pkscore _ _ _ _ => false
  | .pkgw _ _ _ _ => false
  | .srd _ _ _ _ => false
  | .swr _ _ _ _ => false
  | .trap _ _ => false
  | .eret _ _ _ => false
  | .tlbwWrite _ _ _ _ => false
  | .tlbwAbsent _ _ _ _ => false
  | .tlbwDeny _ _ _ _ => false
  | .tlbiPage _ _ => false
  | .tlbiAsid _ _ => false
  | .tlbiAll _ _ => false
  | .tlbp _ _ _ _ => false
  | .idle _ _ => false
  | .wfm _ _ _ => false
  | .haltcFence _ _ => false
  | .haltcUnfence _ _ => false
  | .selft _ _ _ => false
  | .mailboxDelivery _ => true
  | .sendFullRetry _ => true
  | .agentImageRetry _ => true
  | .imageAgePromotion _ => true
  | .imageBind _ => true
  | .urgentBind _ => true
  | .handlerStart _ => true
  | .issueSelect _ => true
  | .urgentWindowClose _ => true
  | .yieldTimeout _ => true
  | .stealProbe _ => true
  | .stealGrant _ => true
  | .stealBackoffExpiry _ => true
  | .parkTimeout _ => true
  | .wqRsv _ _ => true
  | .wqSlotWrite _ _ _ _ => true
  | .wqReservationTimeout _ _ => true
  | .rootAdmission _ => true
  | .rootAdmitRetry _ => true
  | .cancelAnswer _ _ => true
  | .cancelMarkArrival _ _ => true
  | .sliceEnd => true
  | .sliceStart => true
  | .watchdog _ => true
  | .errorDetect _ _ _ => true
  | .completionDelivery _ => true
  | .waitmReread _ => true
  | .remoteAnswer _ _ _ _ => true
  | .rnrResend _ => true
  | .remoteAgentRequest _ => true
  | .pkluAdmission _ => true
  | .pkluSelectionDone _ _ => true
  | .pkluFetchIssue _ => true
  | .pkluRowArrival _ _ _ => true
  | .streamFetchArrival _ _ => true
  | .matrixCommandExecute _ => true
  | .rmmaRingStep _ => true
  | .engineCommandAccept _ _ => true
  | .permitMessage _ _ => true
  | .engineTileWrite _ _ => true
  | .lapBoundary _ _ => true
  | .sweepRowVisit _ _ => true
  | .whirligigRequestArrival _ => true
  | .whirligigRetag _ => true
  | .readReply _ => true
  | .updateAcknowledgement _ => true
  | .createRegion _ _ _ => true
  | .destroyRegion _ _ _ _ => true
  | .chooseDestinationTsc _ _ _ => true
  | .gatewayOutgoing _ => true
  | .portHoldTimeout _ => true
  | .gatewayArrival _ _ => true
  | .dieLinkFailure _ => true
  | .flitTransmit _ => true
  | .flitReceive _ _ _ _ => true
  | .idleFlit _ => true
  | .replayRetry _ => true
  | .trainingComplete _ _ _ _ _ => true
  | .trainingTimeout _ => true
  | .portRetry _ => true
  | .switch _ => true
  | .retrain _ => true
  | .clrerr _ => true
  | .disable _ _ => true
  | .ksCtlReady _ _ => true
  | .ksCtlEmpty _ _ => true
  | .werrClear _ => true
  | .registerWrite _ _ _ _ => true
  | .hostMemoryAccess _ _ _ _ => true
  | .graphsub _ _ => true
  | .phasectl _ _ => true
  | .phaseAllreduceDone _ => true
  | .cancelw _ _ => true
  | .prresp _ _ => true
  | .slicereq _ => true
  | .attreq _ => true
  | .attestationReportDone => true
  | .wqcfg _ _ => true
  | .hrcfg _ _ _ => true
  | .syncMessage _ _ => true
  | .syncTimeout => true
  | .healthSelftest _ _ => true
  | .eolUpdate => true
  | .powerGood _ _ => true
  | .smbusStatusRead => true
  | .localAccessCompletion _ _ _ => true
  | .idleWfmTimeout _ => true
  | .correctableError _ => true
  | .backInvalidateComplete _ => true
  | .selftResult _ _ => true
  | .externalSourceLock _ _ => true

/-- Bytes the instruction takes in memory (R79): 8 for a long form, 4 for every other word, 0 for an event. -/
def Instr.size : Instr → Nat
  | .add _ _ _ _ _ _ => 4
  | .sub _ _ _ _ _ _ => 4
  | .and _ _ _ _ _ _ => 4
  | .or _ _ _ _ _ _ => 4
  | .xor _ _ _ _ _ _ => 4
  | .andn _ _ _ _ _ _ => 4
  | .shl _ _ _ _ _ _ => 4
  | .shr _ _ _ _ _ _ => 4
  | .sra _ _ _ _ _ _ => 4
  | .rol _ _ _ _ _ _ => 4
  | .min _ _ _ _ _ _ => 4
  | .max _ _ _ _ _ _ => 4
  | .minn _ _ _ _ _ _ => 4
  | .maxn _ _ _ _ _ _ => 4
  | .clz _ _ _ _ _ => 4
  | .ctz _ _ _ _ _ => 4
  | .mul _ _ _ _ _ _ => 4
  | .mulh _ _ _ _ _ _ => 4
  | .mulhn _ _ _ _ _ _ => 4
  | .div _ _ _ _ _ _ => 4
  | .divn _ _ _ _ _ _ => 4
  | .rem _ _ _ _ _ _ => 4
  | .remn _ _ _ _ _ _ => 4
  | .popc _ _ _ _ _ => 4
  | .bswap _ _ _ _ _ => 4
  | .addi _ _ _ _ => 4
  | .andi _ _ _ _ => 4
  | .ori _ _ _ _ => 4
  | .xori _ _ _ _ => 4
  | .shli _ _ _ _ => 4
  | .shri _ _ _ _ => 4
  | .srai _ _ _ _ => 4
  | .extf _ _ _ _ _ _ => 4
  | .insf _ _ _ _ _ _ => 4
  | .sext _ _ _ _ => 4
  | .zext _ _ _ _ => 4
  | .liu _ _ _ => 4
  | .cmp _ _ _ _ _ _ _ => 4
  | .cmpi _ _ _ _ _ _ => 4
  | .pand _ _ _ _ => 4
  | .por _ _ _ _ => 4
  | .pxor _ _ _ _ => 4
  | .pnot _ _ _ => 4
  | .sel _ _ _ _ _ => 4
  | .pmovx _ _ _ => 4
  | .xmovp _ _ _ => 4
  | .fadd _ _ _ _ _ => 4
  | .fsub _ _ _ _ _ => 4
  | .fmul _ _ _ _ _ => 4
  | .ffma _ _ _ _ _ => 4
  | .fdiv _ _ _ _ _ => 4
  | .fsqrt _ _ _ _ => 4
  | .fmin _ _ _ _ _ => 4
  | .fmax _ _ _ _ _ => 4
  | .fcmp _ _ _ _ _ _ => 4
  | .fcvt _ _ _ _ _ => 4
  | .br _ _ => 4
  | .call _ _ => 4
  | .jr _ _ => 4
  | .addpc _ _ _ => 4
  | .liw _ _ _ => 8
  | .calll _ _ => 8
  | .ld _ _ _ _ _ => 4
  | .ldn _ _ _ _ _ => 4
  | .st _ _ _ _ _ => 4
  | .ldLong _ _ _ _ _ _ _ _ => 8
  | .ldnLong _ _ _ _ _ _ _ _ => 8
  | .stLong _ _ _ _ _ _ _ _ => 8
  | .ldv _ _ _ _ => 4
  | .stv _ _ _ _ => 4
  | .ldvLong _ _ _ _ _ _ _ => 8
  | .stvLong _ _ _ _ _ _ _ => 8
  | .ldvs _ _ _ _ _ => 4
  | .stvs _ _ _ _ _ => 4
  | .vgather _ _ _ _ _ _ => 4
  | .vscatter _ _ _ _ _ _ => 4
  | .ldvsLong _ _ _ _ _ _ _ _ => 8
  | .stvsLong _ _ _ _ _ _ _ _ => 8
  | .vgatherLong _ _ _ _ _ _ _ _ _ => 8
  | .vscatterLong _ _ _ _ _ _ _ _ _ => 8
  | .pref _ _ _ => 4
  | .prefLong _ _ _ _ => 8
  | .cflush _ _ _ _ => 4
  | .cinv _ _ _ _ => 4
  | .aadd _ _ _ _ _ _ => 4
  | .aand _ _ _ _ _ _ => 4
  | .aor _ _ _ _ _ _ => 4
  | .axor _ _ _ _ _ _ => 4
  | .amin _ _ _ _ _ _ => 4
  | .amax _ _ _ _ _ _ => 4
  | .aminn _ _ _ _ _ _ => 4
  | .amaxn _ _ _ _ _ _ => 4
  | .aswap _ _ _ _ _ _ => 4
  | .acas _ _ _ _ _ _ => 4
  | .aaddf _ _ _ _ _ _ => 4
  | .afaddF64 _ _ _ _ _ _ => 4
  | .afmaxF64 _ _ _ _ _ _ => 4
  | .afaddF32 _ _ _ _ _ _ => 4
  | .afmaxF32 _ _ _ _ _ _ => 4
  | .wread _ _ _ _ => 4
  | .wadd _ _ _ _ => 4
  | .wset _ _ _ _ => 4
  | .wmax _ _ _ _ => 4
  | .wlap _ _ _ => 4
  | .vadd _ _ _ _ _ => 4
  | .vsub _ _ _ _ _ => 4
  | .vmul _ _ _ _ _ => 4
  | .vmin _ _ _ _ _ => 4
  | .vmax _ _ _ _ _ => 4
  | .vdiv _ _ _ _ _ => 4
  | .vfma _ _ _ _ _ => 4
  | .vfms _ _ _ _ _ => 4
  | .vfnma _ _ _ _ _ => 4
  | .vabs _ _ _ _ => 4
  | .vneg _ _ _ _ => 4
  | .vsqrt _ _ _ _ => 4
  | .vrcp _ _ _ => 4
  | .vrsqrt _ _ _ => 4
  | .vexp2 _ _ _ => 4
  | .vlog2 _ _ _ => 4
  | .vsin _ _ _ => 4
  | .vcos _ _ _ => 4
  | .viadd _ _ _ _ _ => 4
  | .visub _ _ _ _ _ => 4
  | .vimul _ _ _ _ _ => 4
  | .vimin _ _ _ _ _ _ => 4
  | .vimax _ _ _ _ _ _ => 4
  | .vand _ _ _ _ _ => 4
  | .vor _ _ _ _ _ => 4
  | .vxor _ _ _ _ _ => 4
  | .vshl _ _ _ _ _ => 4
  | .vshr _ _ _ _ _ => 4
  | .vsra _ _ _ _ _ => 4
  | .vcmp _ _ _ _ _ _ => 4
  | .vicmp _ _ _ _ _ _ _ => 4
  | .vsel _ _ _ _ _ _ => 4
  | .vcvt _ _ _ _ _ _ => 4
  | .vqdec _ _ _ _ _ => 4
  | .vqenc _ _ _ _ _ => 4
  | .vpack _ _ _ _ _ => 4
  | .vunpk _ _ _ _ _ => 4
  | .vbcast _ _ _ _ => 4
  | .vmovx _ _ _ _ => 4
  | .vperm _ _ _ _ => 4
  | .vshuf _ _ _ _ _ => 4
  | .vred _ _ _ _ _ _ => 4
  | .vscan _ _ _ _ _ _ => 4
  | .vtopk _ _ _ _ _ => 4
  | .vpairk _ _ _ _ _ => 4
  | .voptu _ _ _ => 4
  | .scfg _ _ _ => 4
  | .sbind _ _ _ => 4
  | .sstop _ _ => 4
  | .mlda _ _ _ => 4
  | .mldb _ _ _ => 4
  | .mzero _ _ => 4
  | .mst _ _ _ => 4
  | .mstW _ _ _ => 4
  | .mmaE4e4 _ _ _ _ => 4
  | .mmaE4e5 _ _ _ _ => 4
  | .mmaE5e4 _ _ _ _ => 4
  | .mmaE5e5 _ _ _ _ => 4
  | .mmaQ4e4 _ _ _ _ => 4
  | .mmaBf _ _ => 4
  | .mmaHf _ _ => 4
  | .mmaF32 _ _ => 4
  | .mmaF64 _ _ => 4
  | .mmaI8 _ _ => 4
  | .rmmaE4e4 _ _ _ => 4
  | .rmmaE4e5 _ _ _ => 4
  | .rmmaE5e4 _ _ _ => 4
  | .rmmaE5e5 _ _ _ => 4
  | .rmmaQ4e4 _ _ _ => 4
  | .rmmaBf _ => 4
  | .rmmaHf _ => 4
  | .rmmaF32 _ => 4
  | .rmmaI8 _ => 4
  | .mgang _ => 4
  | .mwait _ => 4
  | .mrd _ _ _ _ => 4
  | .mwr _ _ _ _ => 4
  | .mclaim _ _ => 4
  | .mfree _ _ => 4
  | .eset _ _ _ => 4
  | .erd _ _ _ => 4
  | .qpush _ _ _ => 4
  | .qpop _ _ _ => 4
  | .qnpush _ _ _ _ => 4
  | .qcnt _ _ _ => 4
  | .send _ _ _ _ _ _ => 4
  | .sendl _ _ _ _ _ => 4
  | .hop _ _ _ _ _ => 4
  | .hopV _ _ _ _ _ => 4
  | .spawn _ _ _ _ => 4
  | .spawnn _ _ _ _ _ => 4
  | .commit _ => 4
  | .done _ => 4
  | .yield _ => 4
  | .prio _ _ => 4
  | .umask _ => 4
  | .unmask _ => 4
  | .cntadd _ _ => 4
  | .cancel _ _ => 4
  | .waitc _ _ _ => 4
  | .waitm _ _ _ _ => 4
  | .fence _ _ _ => 4
  | .drain _ _ => 4
  | .bar _ _ => 4
  | .twalk _ _ _ => 4
  | .twb _ _ _ => 4
  | .tdeal _ _ _ => 4
  | .permit _ _ _ => 4
  | .pklook _ _ _ _ => 4
  | .pkres _ _ _ _ => 4
  | .pkscore _ _ _ _ => 4
  | .pkgw _ _ _ _ => 4
  | .srd _ _ _ _ => 4
  | .swr _ _ _ _ => 4
  | .trap _ _ => 4
  | .eret _ _ _ => 4
  | .tlbwWrite _ _ _ _ => 4
  | .tlbwAbsent _ _ _ _ => 4
  | .tlbwDeny _ _ _ _ => 4
  | .tlbiPage _ _ => 4
  | .tlbiAsid _ _ => 4
  | .tlbiAll _ _ => 4
  | .tlbp _ _ _ _ => 4
  | .idle _ _ => 4
  | .wfm _ _ _ => 4
  | .haltcFence _ _ => 4
  | .haltcUnfence _ _ => 4
  | .selft _ _ _ => 4
  | .mailboxDelivery _ => 0
  | .sendFullRetry _ => 0
  | .agentImageRetry _ => 0
  | .imageAgePromotion _ => 0
  | .imageBind _ => 0
  | .urgentBind _ => 0
  | .handlerStart _ => 0
  | .issueSelect _ => 0
  | .urgentWindowClose _ => 0
  | .yieldTimeout _ => 0
  | .stealProbe _ => 0
  | .stealGrant _ => 0
  | .stealBackoffExpiry _ => 0
  | .parkTimeout _ => 0
  | .wqRsv _ _ => 0
  | .wqSlotWrite _ _ _ _ => 0
  | .wqReservationTimeout _ _ => 0
  | .rootAdmission _ => 0
  | .rootAdmitRetry _ => 0
  | .cancelAnswer _ _ => 0
  | .cancelMarkArrival _ _ => 0
  | .sliceEnd => 0
  | .sliceStart => 0
  | .watchdog _ => 0
  | .errorDetect _ _ _ => 0
  | .completionDelivery _ => 0
  | .waitmReread _ => 0
  | .remoteAnswer _ _ _ _ => 0
  | .rnrResend _ => 0
  | .remoteAgentRequest _ => 0
  | .pkluAdmission _ => 0
  | .pkluSelectionDone _ _ => 0
  | .pkluFetchIssue _ => 0
  | .pkluRowArrival _ _ _ => 0
  | .streamFetchArrival _ _ => 0
  | .matrixCommandExecute _ => 0
  | .rmmaRingStep _ => 0
  | .engineCommandAccept _ _ => 0
  | .permitMessage _ _ => 0
  | .engineTileWrite _ _ => 0
  | .lapBoundary _ _ => 0
  | .sweepRowVisit _ _ => 0
  | .whirligigRequestArrival _ => 0
  | .whirligigRetag _ => 0
  | .readReply _ => 0
  | .updateAcknowledgement _ => 0
  | .createRegion _ _ _ => 0
  | .destroyRegion _ _ _ _ => 0
  | .chooseDestinationTsc _ _ _ => 0
  | .gatewayOutgoing _ => 0
  | .portHoldTimeout _ => 0
  | .gatewayArrival _ _ => 0
  | .dieLinkFailure _ => 0
  | .flitTransmit _ => 0
  | .flitReceive _ _ _ _ => 0
  | .idleFlit _ => 0
  | .replayRetry _ => 0
  | .trainingComplete _ _ _ _ _ => 0
  | .trainingTimeout _ => 0
  | .portRetry _ => 0
  | .switch _ => 0
  | .retrain _ => 0
  | .clrerr _ => 0
  | .disable _ _ => 0
  | .ksCtlReady _ _ => 0
  | .ksCtlEmpty _ _ => 0
  | .werrClear _ => 0
  | .registerWrite _ _ _ _ => 0
  | .hostMemoryAccess _ _ _ _ => 0
  | .graphsub _ _ => 0
  | .phasectl _ _ => 0
  | .phaseAllreduceDone _ => 0
  | .cancelw _ _ => 0
  | .prresp _ _ => 0
  | .slicereq _ => 0
  | .attreq _ => 0
  | .attestationReportDone => 0
  | .wqcfg _ _ => 0
  | .hrcfg _ _ _ => 0
  | .syncMessage _ _ => 0
  | .syncTimeout => 0
  | .healthSelftest _ _ => 0
  | .eolUpdate => 0
  | .powerGood _ _ => 0
  | .smbusStatusRead => 0
  | .localAccessCompletion _ _ _ => 0
  | .idleWfmTimeout _ => 0
  | .correctableError _ => 0
  | .backInvalidateComplete _ => 0
  | .selftResult _ _ => 0
  | .externalSourceLock _ _ => 0

end Sys2Proof
end

