-- ==== Sys2Proof/Decode.lean ====
section
/-! DEFINITION. The decoder (R79 to R94): total on any pair of words, with one function per major of R87; a word that
R86 step 1 calls ILLEGAL gives none. After it the encoder, written from the same tables. -/

namespace Sys2Proof

/-- Bits `lo + n - 1` to `lo` of a word. -/
def bits (w lo n : Nat) : Nat := w / 2 ^ lo % 2 ^ n

/-- The field of `n` bits from bit `lo` up. -/
def fld (w lo : Nat) (n : Nat) : BitVec n := BitVec.ofNat n (w / 2 ^ lo)

/-- R82, R86: the reserved bits read as the row says and every field holds a listed code; otherwise ILLEGAL. -/
def accept (reserved : Bool) (i : Instr) : Option Instr := if reserved && i.wf then some i else none

/-- Major 0x01 (R87). -/
def decAlu (w : Nat) : Option Instr :=
  match bits w 4 4 with
  | 0 => accept true (.add (fld w 21 5) (fld w 16 5) (fld w 11 5) (fld w 9 2) (fld w 8 1) (fld w 0 4))
  | 1 => accept true (.sub (fld w 21 5) (fld w 16 5) (fld w 11 5) (fld w 9 2) (fld w 8 1) (fld w 0 4))
  | 2 => accept true (.and (fld w 21 5) (fld w 16 5) (fld w 11 5) (fld w 9 2) (fld w 8 1) (fld w 0 4))
  | 3 => accept true (.or (fld w 21 5) (fld w 16 5) (fld w 11 5) (fld w 9 2) (fld w 8 1) (fld w 0 4))
  | 4 => accept true (.xor (fld w 21 5) (fld w 16 5) (fld w 11 5) (fld w 9 2) (fld w 8 1) (fld w 0 4))
  | 5 => accept true (.andn (fld w 21 5) (fld w 16 5) (fld w 11 5) (fld w 9 2) (fld w 8 1) (fld w 0 4))
  | 6 => accept true (.shl (fld w 21 5) (fld w 16 5) (fld w 11 5) (fld w 9 2) (fld w 8 1) (fld w 0 4))
  | 7 => accept true (.shr (fld w 21 5) (fld w 16 5) (fld w 11 5) (fld w 9 2) (fld w 8 1) (fld w 0 4))
  | 8 => accept true (.sra (fld w 21 5) (fld w 16 5) (fld w 11 5) (fld w 9 2) (fld w 8 1) (fld w 0 4))
  | 9 => accept true (.rol (fld w 21 5) (fld w 16 5) (fld w 11 5) (fld w 9 2) (fld w 8 1) (fld w 0 4))
  | 10 => accept true (.min (fld w 21 5) (fld w 16 5) (fld w 11 5) (fld w 9 2) (fld w 8 1) (fld w 0 4))
  | 11 => accept true (.max (fld w 21 5) (fld w 16 5) (fld w 11 5) (fld w 9 2) (fld w 8 1) (fld w 0 4))
  | 12 => accept true (.minn (fld w 21 5) (fld w 16 5) (fld w 11 5) (fld w 9 2) (fld w 8 1) (fld w 0 4))
  | 13 => accept true (.maxn (fld w 21 5) (fld w 16 5) (fld w 11 5) (fld w 9 2) (fld w 8 1) (fld w 0 4))
  | 14 => accept (decide (bits w 11 5 = 0)) (.clz (fld w 21 5) (fld w 16 5) (fld w 9 2) (fld w 8 1) (fld w 0 4))
  | 15 => accept (decide (bits w 11 5 = 0)) (.ctz (fld w 21 5) (fld w 16 5) (fld w 9 2) (fld w 8 1) (fld w 0 4))
  | _ => none

/-- Major 0x02 (R87). -/
def decMuldiv (w : Nat) : Option Instr :=
  match bits w 4 4 with
  | 0 => accept true (.mul (fld w 21 5) (fld w 16 5) (fld w 11 5) (fld w 9 2) (fld w 8 1) (fld w 0 4))
  | 1 => accept true (.mulh (fld w 21 5) (fld w 16 5) (fld w 11 5) (fld w 9 2) (fld w 8 1) (fld w 0 4))
  | 2 => accept true (.mulhn (fld w 21 5) (fld w 16 5) (fld w 11 5) (fld w 9 2) (fld w 8 1) (fld w 0 4))
  | 3 => accept true (.div (fld w 21 5) (fld w 16 5) (fld w 11 5) (fld w 9 2) (fld w 8 1) (fld w 0 4))
  | 4 => accept true (.divn (fld w 21 5) (fld w 16 5) (fld w 11 5) (fld w 9 2) (fld w 8 1) (fld w 0 4))
  | 5 => accept true (.rem (fld w 21 5) (fld w 16 5) (fld w 11 5) (fld w 9 2) (fld w 8 1) (fld w 0 4))
  | 6 => accept true (.remn (fld w 21 5) (fld w 16 5) (fld w 11 5) (fld w 9 2) (fld w 8 1) (fld w 0 4))
  | 7 => accept (decide (bits w 11 5 = 0)) (.popc (fld w 21 5) (fld w 16 5) (fld w 9 2) (fld w 8 1) (fld w 0 4))
  | 8 => accept (decide (bits w 11 5 = 0)) (.bswap (fld w 21 5) (fld w 16 5) (fld w 9 2) (fld w 8 1) (fld w 0 4))
  | _ => none

/-- Major 0x03 (R87). -/
def decAddi (w : Nat) : Option Instr :=
  accept true (.addi (fld w 21 5) (fld w 16 5) (fld w 4 12) (fld w 0 4))

/-- Major 0x04 (R87). -/
def decLogi (w : Nat) : Option Instr :=
  match bits w 14 2 with
  | 0 => accept true (.andi (fld w 21 5) (fld w 16 5) (fld w 4 10) (fld w 0 4))
  | 1 => accept true (.ori (fld w 21 5) (fld w 16 5) (fld w 4 10) (fld w 0 4))
  | 2 => accept true (.xori (fld w 21 5) (fld w 16 5) (fld w 4 10) (fld w 0 4))
  | _ => none

/-- Major 0x05 (R87). -/
def decShifti (w : Nat) : Option Instr :=
  match bits w 14 2 with
  | 0 => accept (decide (bits w 10 4 = 0)) (.shli (fld w 21 5) (fld w 16 5) (fld w 4 6) (fld w 0 4))
  | 1 => accept (decide (bits w 10 4 = 0)) (.shri (fld w 21 5) (fld w 16 5) (fld w 4 6) (fld w 0 4))
  | 2 => accept (decide (bits w 10 4 = 0)) (.srai (fld w 21 5) (fld w 16 5) (fld w 4 6) (fld w 0 4))
  | _ => none

/-- Major 0x06 (R87). -/
def decField (w : Nat) : Option Instr :=
  match bits w 14 2 with
  | 0 => accept (decide (bits w 10 1 = 0)) (.extf (fld w 21 5) (fld w 16 5) (fld w 12 2) (fld w 11 1) (fld w 4 6) (fld w 0 4))
  | 1 => accept (decide (bits w 10 1 = 0)) (.insf (fld w 21 5) (fld w 16 5) (fld w 12 2) (fld w 11 1) (fld w 4 6) (fld w 0 4))
  | 2 => accept (decide (bits w 4 8 = 0)) (.sext (fld w 21 5) (fld w 16 5) (fld w 12 2) (fld w 0 4))
  | 3 => accept (decide (bits w 4 8 = 128)) (.zext (fld w 21 5) (fld w 16 5) (fld w 12 2) (fld w 0 4))
  | _ => none

/-- Major 0x07 (R87). -/
def decLiu (w : Nat) : Option Instr :=
  accept true (.liu (fld w 21 5) (fld w 4 17) (fld w 0 4))

/-- Major 0x08 (R87). -/
def decCmp (w : Nat) : Option Instr :=
  accept (decide (bits w 4 1 = 0 ∧ bits w 24 2 = 0)) (.cmp (fld w 21 3) (fld w 16 5) (fld w 11 5) (fld w 9 2) (fld w 8 1) (fld w 5 3) (fld w 0 4))

/-- Major 0x09 (R87). -/
def decCmpi (w : Nat) : Option Instr :=
  accept (decide (bits w 25 1 = 0)) (.cmpi (fld w 24 1) (fld w 21 3) (fld w 16 5) (fld w 13 3) (fld w 4 9) (fld w 0 4))

/-- Major 0x0A (R87). -/
def decPred (w : Nat) : Option Instr :=
  match bits w 7 4 with
  | 0 => accept (decide (bits w 4 3 = 0 ∧ bits w 14 2 = 0 ∧ bits w 19 2 = 0 ∧ bits w 24 2 = 0)) (.pand (fld w 21 3) (fld w 16 3) (fld w 11 3) (fld w 0 4))
  | 1 => accept (decide (bits w 4 3 = 0 ∧ bits w 14 2 = 0 ∧ bits w 19 2 = 0 ∧ bits w 24 2 = 0)) (.por (fld w 21 3) (fld w 16 3) (fld w 11 3) (fld w 0 4))
  | 2 => accept (decide (bits w 4 3 = 0 ∧ bits w 14 2 = 0 ∧ bits w 19 2 = 0 ∧ bits w 24 2 = 0)) (.pxor (fld w 21 3) (fld w 16 3) (fld w 11 3) (fld w 0 4))
  | 3 => accept (decide (bits w 4 3 = 0 ∧ bits w 11 5 = 0 ∧ bits w 19 2 = 0 ∧ bits w 24 2 = 0)) (.pnot (fld w 21 3) (fld w 16 3) (fld w 0 4))
  | 4 => accept true (.sel (fld w 21 5) (fld w 16 5) (fld w 11 5) (fld w 4 3) (fld w 0 4))
  | 5 => accept (decide (bits w 4 3 = 0 ∧ bits w 11 5 = 0 ∧ bits w 19 2 = 0)) (.pmovx (fld w 21 5) (fld w 16 3) (fld w 0 4))
  | 6 => accept (decide (bits w 4 3 = 0 ∧ bits w 11 5 = 0 ∧ bits w 24 2 = 0)) (.xmovp (fld w 21 3) (fld w 16 5) (fld w 0 4))
  | _ => none

/-- Major 0x0B (R87). -/
def decSfp (w : Nat) : Option Instr :=
  match bits w 7 4 with
  | 0 => accept true (.fadd (fld w 21 5) (fld w 16 5) (fld w 11 5) (fld w 4 3) (fld w 0 4))
  | 1 => accept true (.fsub (fld w 21 5) (fld w 16 5) (fld w 11 5) (fld w 4 3) (fld w 0 4))
  | 2 => accept true (.fmul (fld w 21 5) (fld w 16 5) (fld w 11 5) (fld w 4 3) (fld w 0 4))
  | 3 => accept true (.ffma (fld w 21 5) (fld w 16 5) (fld w 11 5) (fld w 4 3) (fld w 0 4))
  | 4 => accept true (.fdiv (fld w 21 5) (fld w 16 5) (fld w 11 5) (fld w 4 3) (fld w 0 4))
  | 5 => accept (decide (bits w 11 5 = 0)) (.fsqrt (fld w 21 5) (fld w 16 5) (fld w 4 3) (fld w 0 4))
  | 6 => accept true (.fmin (fld w 21 5) (fld w 16 5) (fld w 11 5) (fld w 4 3) (fld w 0 4))
  | 7 => accept true (.fmax (fld w 21 5) (fld w 16 5) (fld w 11 5) (fld w 4 3) (fld w 0 4))
  | 8 => accept (decide (bits w 25 1 = 0)) (.fcmp (fld w 24 1) (fld w 21 3) (fld w 16 5) (fld w 11 5) (fld w 4 3) (fld w 0 4))
  | 9 => accept (decide (bits w 14 2 = 0)) (.fcvt (fld w 21 5) (fld w 16 5) (fld w 11 3) (fld w 4 3) (fld w 0 4))
  | _ => none

/-- Major 0x0C (R87). -/
def decBr (w : Nat) : Option Instr :=
  accept true (.br (fld w 4 22) (fld w 0 4))

/-- Major 0x0D (R87). -/
def decCall (w : Nat) : Option Instr :=
  accept true (.call (fld w 4 22) (fld w 0 4))

/-- Major 0x0E (R87). -/
def decJr (w : Nat) : Option Instr :=
  accept (decide (bits w 4 12 = 0 ∧ bits w 21 5 = 0)) (.jr (fld w 16 5) (fld w 0 4))

/-- Major 0x0F (R87). -/
def decAddpc (w : Nat) : Option Instr :=
  accept true (.addpc (fld w 21 5) (fld w 4 17) (fld w 0 4))

/-- Major 0x10 (R87). -/
def decLd (w : Nat) : Option Instr :=
  accept true (.ld (fld w 21 5) (fld w 16 5) (fld w 6 10) (fld w 4 2) (fld w 0 4))

/-- Major 0x11 (R87). -/
def decLdn (w : Nat) : Option Instr :=
  accept true (.ldn (fld w 21 5) (fld w 16 5) (fld w 6 10) (fld w 4 2) (fld w 0 4))

/-- Major 0x12 (R87). -/
def decSt (w : Nat) : Option Instr :=
  accept true (.st (fld w 21 5) (fld w 16 5) (fld w 6 10) (fld w 4 2) (fld w 0 4))

/-- Major 0x13 (R87). -/
def decLdv (w : Nat) : Option Instr :=
  accept (decide (bits w 4 2 = 0)) (.ldv (fld w 21 5) (fld w 16 5) (fld w 6 10) (fld w 0 4))

/-- Major 0x14 (R87). -/
def decStv (w : Nat) : Option Instr :=
  accept (decide (bits w 4 2 = 0)) (.stv (fld w 21 5) (fld w 16 5) (fld w 6 10) (fld w 0 4))

/-- Major 0x15 (R87). -/
def decVmem (w : Nat) : Option Instr :=
  match bits w 9 2 with
  | 0 => accept (decide (bits w 4 4 = 0)) (.ldvs (fld w 21 5) (fld w 16 5) (fld w 11 5) (fld w 8 1) (fld w 0 4))
  | 1 => accept (decide (bits w 4 4 = 0)) (.stvs (fld w 21 5) (fld w 16 5) (fld w 11 5) (fld w 8 1) (fld w 0 4))
  | 2 => accept (decide (bits w 4 2 = 0)) (.vgather (fld w 21 5) (fld w 16 5) (fld w 11 5) (fld w 8 1) (fld w 6 2) (fld w 0 4))
  | 3 => accept (decide (bits w 4 2 = 0)) (.vscatter (fld w 21 5) (fld w 16 5) (fld w 11 5) (fld w 8 1) (fld w 6 2) (fld w 0 4))
  | _ => none

/-- Major 0x16 (R87). -/
def decCache (w : Nat) : Option Instr :=
  match bits w 9 2 with
  | 0 => accept (decide (bits w 6 3 = 0 ∧ bits w 11 5 = 0 ∧ bits w 21 5 = 0)) (.pref (fld w 16 5) (fld w 4 2) (fld w 0 4))
  | 1 => accept (decide (bits w 4 2 = 0 ∧ bits w 21 5 = 0)) (.cflush (fld w 16 5) (fld w 11 5) (fld w 6 3) (fld w 0 4))
  | 2 => accept (decide (bits w 4 2 = 0 ∧ bits w 21 5 = 0)) (.cinv (fld w 16 5) (fld w 11 5) (fld w 6 3) (fld w 0 4))
  | _ => none

/-- Major 0x18 (R87). -/
def decAtoma (w : Nat) : Option Instr :=
  match bits w 4 2 with
  | 0 => accept true (.aadd (fld w 21 5) (fld w 16 5) (fld w 11 5) (fld w 9 2) (fld w 6 3) (fld w 0 4))
  | 1 => accept true (.aand (fld w 21 5) (fld w 16 5) (fld w 11 5) (fld w 9 2) (fld w 6 3) (fld w 0 4))
  | 2 => accept true (.aor (fld w 21 5) (fld w 16 5) (fld w 11 5) (fld w 9 2) (fld w 6 3) (fld w 0 4))
  | 3 => accept true (.axor (fld w 21 5) (fld w 16 5) (fld w 11 5) (fld w 9 2) (fld w 6 3) (fld w 0 4))
  | _ => none

/-- Major 0x19 (R87). -/
def decAtomb (w : Nat) : Option Instr :=
  match bits w 4 2 with
  | 0 => accept true (.amin (fld w 21 5) (fld w 16 5) (fld w 11 5) (fld w 9 2) (fld w 6 3) (fld w 0 4))
  | 1 => accept true (.amax (fld w 21 5) (fld w 16 5) (fld w 11 5) (fld w 9 2) (fld w 6 3) (fld w 0 4))
  | 2 => accept true (.aminn (fld w 21 5) (fld w 16 5) (fld w 11 5) (fld w 9 2) (fld w 6 3) (fld w 0 4))
  | 3 => accept true (.amaxn (fld w 21 5) (fld w 16 5) (fld w 11 5) (fld w 9 2) (fld w 6 3) (fld w 0 4))
  | _ => none

/-- Major 0x1A (R87). -/
def decAtomc (w : Nat) : Option Instr :=
  match bits w 4 2 with
  | 0 => accept true (.aswap (fld w 21 5) (fld w 16 5) (fld w 11 5) (fld w 9 2) (fld w 6 3) (fld w 0 4))
  | 1 => accept true (.acas (fld w 21 5) (fld w 16 5) (fld w 11 5) (fld w 9 2) (fld w 6 3) (fld w 0 4))
  | 2 => accept true (.aaddf (fld w 21 5) (fld w 16 5) (fld w 11 5) (fld w 9 2) (fld w 6 3) (fld w 0 4))
  | _ => none

/-- Major 0x1B (R87). -/
def decAtomf (w : Nat) : Option Instr :=
  match bits w 4 2 with
  | 0 => accept true (.afaddF64 (fld w 21 5) (fld w 16 5) (fld w 11 5) (fld w 9 2) (fld w 6 3) (fld w 0 4))
  | 1 => accept true (.afmaxF64 (fld w 21 5) (fld w 16 5) (fld w 11 5) (fld w 9 2) (fld w 6 3) (fld w 0 4))
  | 2 => accept true (.afaddF32 (fld w 21 5) (fld w 16 5) (fld w 11 5) (fld w 9 2) (fld w 6 3) (fld w 0 4))
  | 3 => accept true (.afmaxF32 (fld w 21 5) (fld w 16 5) (fld w 11 5) (fld w 9 2) (fld w 6 3) (fld w 0 4))
  | _ => none

/-- Major 0x1C (R87). -/
def decWread (w : Nat) : Option Instr :=
  accept (decide (bits w 4 7 = 0)) (.wread (fld w 21 5) (fld w 16 5) (fld w 11 5) (fld w 0 4))

/-- Major 0x1D (R87). -/
def decWupd (w : Nat) : Option Instr :=
  match bits w 9 2 with
  | 0 => accept (decide (bits w 4 5 = 0)) (.wadd (fld w 21 5) (fld w 16 5) (fld w 11 5) (fld w 0 4))
  | 1 => accept (decide (bits w 4 5 = 0)) (.wset (fld w 21 5) (fld w 16 5) (fld w 11 5) (fld w 0 4))
  | 2 => accept (decide (bits w 4 5 = 0)) (.wmax (fld w 21 5) (fld w 16 5) (fld w 11 5) (fld w 0 4))
  | _ => none

/-- Major 0x1E (R87). -/
def decWlap (w : Nat) : Option Instr :=
  accept (decide (bits w 4 12 = 0)) (.wlap (fld w 21 5) (fld w 16 5) (fld w 0 4))

/-- Major 0x20 (R87). -/
def decVfa (w : Nat) : Option Instr :=
  match bits w 8 3 with
  | 0 => accept (decide (bits w 4 3 = 0)) (.vadd (fld w 21 5) (fld w 16 5) (fld w 11 5) (fld w 7 1) (fld w 0 4))
  | 1 => accept (decide (bits w 4 3 = 0)) (.vsub (fld w 21 5) (fld w 16 5) (fld w 11 5) (fld w 7 1) (fld w 0 4))
  | 2 => accept (decide (bits w 4 3 = 0)) (.vmul (fld w 21 5) (fld w 16 5) (fld w 11 5) (fld w 7 1) (fld w 0 4))
  | 3 => accept (decide (bits w 4 3 = 0)) (.vmin (fld w 21 5) (fld w 16 5) (fld w 11 5) (fld w 7 1) (fld w 0 4))
  | 4 => accept (decide (bits w 4 3 = 0)) (.vmax (fld w 21 5) (fld w 16 5) (fld w 11 5) (fld w 7 1) (fld w 0 4))
  | 5 => accept (decide (bits w 4 3 = 0)) (.vdiv (fld w 21 5) (fld w 16 5) (fld w 11 5) (fld w 7 1) (fld w 0 4))
  | _ => none

/-- Major 0x21 (R87). -/
def decVfu (w : Nat) : Option Instr :=
  match bits w 8 3 with
  | 0 => accept (decide (bits w 4 3 = 0)) (.vfma (fld w 21 5) (fld w 16 5) (fld w 11 5) (fld w 7 1) (fld w 0 4))
  | 1 => accept (decide (bits w 4 3 = 0)) (.vfms (fld w 21 5) (fld w 16 5) (fld w 11 5) (fld w 7 1) (fld w 0 4))
  | 2 => accept (decide (bits w 4 3 = 0)) (.vfnma (fld w 21 5) (fld w 16 5) (fld w 11 5) (fld w 7 1) (fld w 0 4))
  | 3 => accept (decide (bits w 4 3 = 0 ∧ bits w 11 5 = 0)) (.vabs (fld w 21 5) (fld w 16 5) (fld w 7 1) (fld w 0 4))
  | 4 => accept (decide (bits w 4 3 = 0 ∧ bits w 11 5 = 0)) (.vneg (fld w 21 5) (fld w 16 5) (fld w 7 1) (fld w 0 4))
  | 5 => accept (decide (bits w 4 3 = 0 ∧ bits w 11 5 = 0)) (.vsqrt (fld w 21 5) (fld w 16 5) (fld w 7 1) (fld w 0 4))
  | _ => none

/-- Major 0x22 (R87). -/
def decVsf (w : Nat) : Option Instr :=
  match bits w 8 3 with
  | 0 => accept (decide (bits w 4 4 = 0 ∧ bits w 11 5 = 0)) (.vrcp (fld w 21 5) (fld w 16 5) (fld w 0 4))
  | 1 => accept (decide (bits w 4 4 = 0 ∧ bits w 11 5 = 0)) (.vrsqrt (fld w 21 5) (fld w 16 5) (fld w 0 4))
  | 2 => accept (decide (bits w 4 4 = 0 ∧ bits w 11 5 = 0)) (.vexp2 (fld w 21 5) (fld w 16 5) (fld w 0 4))
  | 3 => accept (decide (bits w 4 4 = 0 ∧ bits w 11 5 = 0)) (.vlog2 (fld w 21 5) (fld w 16 5) (fld w 0 4))
  | 4 => accept (decide (bits w 4 4 = 0 ∧ bits w 11 5 = 0)) (.vsin (fld w 21 5) (fld w 16 5) (fld w 0 4))
  | 5 => accept (decide (bits w 4 4 = 0 ∧ bits w 11 5 = 0)) (.vcos (fld w 21 5) (fld w 16 5) (fld w 0 4))
  | _ => none

/-- Major 0x23 (R87). -/
def decVia (w : Nat) : Option Instr :=
  match bits w 8 3 with
  | 0 => accept (decide (bits w 4 3 = 0)) (.viadd (fld w 21 5) (fld w 16 5) (fld w 11 5) (fld w 7 1) (fld w 0 4))
  | 1 => accept (decide (bits w 4 3 = 0)) (.visub (fld w 21 5) (fld w 16 5) (fld w 11 5) (fld w 7 1) (fld w 0 4))
  | 2 => accept (decide (bits w 4 3 = 0)) (.vimul (fld w 21 5) (fld w 16 5) (fld w 11 5) (fld w 7 1) (fld w 0 4))
  | 3 => accept (decide (bits w 4 2 = 0)) (.vimin (fld w 21 5) (fld w 16 5) (fld w 11 5) (fld w 7 1) (fld w 6 1) (fld w 0 4))
  | 4 => accept (decide (bits w 4 2 = 0)) (.vimax (fld w 21 5) (fld w 16 5) (fld w 11 5) (fld w 7 1) (fld w 6 1) (fld w 0 4))
  | _ => none

/-- Major 0x24 (R87). -/
def decVls (w : Nat) : Option Instr :=
  match bits w 8 3 with
  | 0 => accept (decide (bits w 4 3 = 0)) (.vand (fld w 21 5) (fld w 16 5) (fld w 11 5) (fld w 7 1) (fld w 0 4))
  | 1 => accept (decide (bits w 4 3 = 0)) (.vor (fld w 21 5) (fld w 16 5) (fld w 11 5) (fld w 7 1) (fld w 0 4))
  | 2 => accept (decide (bits w 4 3 = 0)) (.vxor (fld w 21 5) (fld w 16 5) (fld w 11 5) (fld w 7 1) (fld w 0 4))
  | 3 => accept (decide (bits w 4 3 = 0)) (.vshl (fld w 21 5) (fld w 16 5) (fld w 11 5) (fld w 7 1) (fld w 0 4))
  | 4 => accept (decide (bits w 4 3 = 0)) (.vshr (fld w 21 5) (fld w 16 5) (fld w 11 5) (fld w 7 1) (fld w 0 4))
  | 5 => accept (decide (bits w 4 3 = 0)) (.vsra (fld w 21 5) (fld w 16 5) (fld w 11 5) (fld w 7 1) (fld w 0 4))
  | _ => none

/-- Major 0x25 (R87). -/
def decVcmp (w : Nat) : Option Instr :=
  match bits w 8 3 with
  | 0 => accept (decide (bits w 24 2 = 0)) (.vcmp (fld w 21 3) (fld w 16 5) (fld w 11 5) (fld w 7 1) (fld w 4 3) (fld w 0 4))
  | 1 => accept (decide (bits w 25 1 = 0)) (.vicmp (fld w 24 1) (fld w 21 3) (fld w 16 5) (fld w 11 5) (fld w 7 1) (fld w 4 3) (fld w 0 4))
  | 2 => accept true (.vsel (fld w 21 5) (fld w 16 5) (fld w 11 5) (fld w 7 1) (fld w 4 3) (fld w 0 4))
  | _ => none

/-- Major 0x26 (R87). -/
def decVcvt (w : Nat) : Option Instr :=
  match bits w 8 3 with
  | 0 => accept true (.vcvt (fld w 21 5) (fld w 16 5) (fld w 11 5) (fld w 5 3) (fld w 4 1) (fld w 0 4))
  | _ => none

/-- Major 0x27 (R87). -/
def decVq (w : Nat) : Option Instr :=
  match bits w 8 3 with
  | 0 => accept (decide (bits w 7 1 = 0)) (.vqdec (fld w 21 5) (fld w 16 5) (fld w 11 5) (fld w 4 3) (fld w 0 4))
  | 1 => accept (decide (bits w 7 1 = 0)) (.vqenc (fld w 21 5) (fld w 16 5) (fld w 11 5) (fld w 4 3) (fld w 0 4))
  | _ => none

/-- Major 0x28 (R87). -/
def decVpk (w : Nat) : Option Instr :=
  match bits w 8 3 with
  | 0 => accept (decide (bits w 11 5 = 0)) (.vpack (fld w 21 5) (fld w 16 5) (fld w 6 2) (fld w 4 2) (fld w 0 4))
  | 1 => accept (decide (bits w 11 5 = 0)) (.vunpk (fld w 21 5) (fld w 16 5) (fld w 6 2) (fld w 4 2) (fld w 0 4))
  | _ => none

/-- Major 0x29 (R87). -/
def decVmov (w : Nat) : Option Instr :=
  match bits w 8 3 with
  | 0 => accept (decide (bits w 4 3 = 0 ∧ bits w 11 5 = 0)) (.vbcast (fld w 21 5) (fld w 16 5) (fld w 7 1) (fld w 0 4))
  | 1 => accept (decide (bits w 11 5 = 0)) (.vmovx (fld w 21 5) (fld w 16 5) (fld w 4 4) (fld w 0 4))
  | 2 => accept (decide (bits w 4 4 = 0)) (.vperm (fld w 21 5) (fld w 16 5) (fld w 11 5) (fld w 0 4))
  | 3 => accept (decide (bits w 7 1 = 0)) (.vshuf (fld w 21 5) (fld w 16 5) (fld w 11 5) (fld w 4 3) (fld w 0 4))
  | _ => none

/-- Major 0x2A (R87). -/
def decVrs (w : Nat) : Option Instr :=
  match bits w 8 3 with
  | 0 => accept (decide (bits w 11 5 = 0)) (.vred (fld w 21 5) (fld w 16 5) (fld w 7 1) (fld w 6 1) (fld w 4 2) (fld w 0 4))
  | 1 => accept (decide (bits w 11 5 = 0)) (.vscan (fld w 21 5) (fld w 16 5) (fld w 7 1) (fld w 6 1) (fld w 4 2) (fld w 0 4))
  | _ => none

/-- Major 0x2B (R87). -/
def decVsel (w : Nat) : Option Instr :=
  match bits w 8 3 with
  | 0 => accept (decide (bits w 7 1 = 0)) (.vtopk (fld w 21 5) (fld w 16 5) (fld w 11 5) (fld w 4 3) (fld w 0 4))
  | 1 => accept (decide (bits w 7 1 = 0)) (.vpairk (fld w 21 5) (fld w 16 5) (fld w 11 5) (fld w 4 3) (fld w 0 4))
  | _ => none

/-- Major 0x2C (R87). -/
def decVoptu (w : Nat) : Option Instr :=
  match bits w 8 3 with
  | 0 => accept (decide (bits w 4 4 = 0 ∧ bits w 11 5 = 0)) (.voptu (fld w 21 5) (fld w 16 5) (fld w 0 4))
  | _ => none

/-- Major 0x2D (R87). -/
def decStrm (w : Nat) : Option Instr :=
  match bits w 8 3 with
  | 0 => accept (decide (bits w 4 4 = 0 ∧ bits w 11 5 = 0 ∧ bits w 24 2 = 0)) (.scfg (fld w 21 3) (fld w 16 5) (fld w 0 4))
  | 1 => accept (decide (bits w 4 4 = 0 ∧ bits w 16 5 = 0 ∧ bits w 24 2 = 0)) (.sbind (fld w 21 3) (fld w 11 5) (fld w 0 4))
  | 2 => accept (decide (bits w 4 4 = 0 ∧ bits w 11 10 = 0 ∧ bits w 24 2 = 0)) (.sstop (fld w 21 3) (fld w 0 4))
  | _ => none

/-- Major 0x30 (R87). -/
def decMmem (w : Nat) : Option Instr :=
  match bits w 9 2 with
  | 0 => accept (decide (bits w 4 5 = 0 ∧ bits w 21 5 = 0)) (.mlda (fld w 16 5) (fld w 11 5) (fld w 0 4))
  | 1 => accept (decide (bits w 4 5 = 0 ∧ bits w 21 5 = 0)) (.mldb (fld w 16 5) (fld w 11 5) (fld w 0 4))
  | 2 => accept (decide (bits w 4 5 = 0 ∧ bits w 11 10 = 0 ∧ bits w 24 2 = 0)) (.mzero (fld w 21 3) (fld w 0 4))
  | 3 =>
    match bits w 8 1 with
    | 0 => accept (decide (bits w 4 4 = 0 ∧ bits w 11 5 = 0 ∧ bits w 24 2 = 0)) (.mst (fld w 21 3) (fld w 16 5) (fld w 0 4))
    | 1 => accept (decide (bits w 4 4 = 0 ∧ bits w 11 5 = 0 ∧ bits w 24 2 = 0)) (.mstW (fld w 21 3) (fld w 16 5) (fld w 0 4))
    | _ => none
  | _ => none

/-- Major 0x31 (R87). -/
def decMma (w : Nat) : Option Instr :=
  match bits w 7 4 with
  | 0 => accept (decide (bits w 4 3 = 0 ∧ bits w 14 2 = 0 ∧ bits w 19 2 = 0 ∧ bits w 24 2 = 0)) (.mmaE4e4 (fld w 21 3) (fld w 16 3) (fld w 11 3) (fld w 0 4))
  | 1 => accept (decide (bits w 4 3 = 0 ∧ bits w 14 2 = 0 ∧ bits w 19 2 = 0 ∧ bits w 24 2 = 0)) (.mmaE4e5 (fld w 21 3) (fld w 16 3) (fld w 11 3) (fld w 0 4))
  | 2 => accept (decide (bits w 4 3 = 0 ∧ bits w 14 2 = 0 ∧ bits w 19 2 = 0 ∧ bits w 24 2 = 0)) (.mmaE5e4 (fld w 21 3) (fld w 16 3) (fld w 11 3) (fld w 0 4))
  | 3 => accept (decide (bits w 4 3 = 0 ∧ bits w 14 2 = 0 ∧ bits w 19 2 = 0 ∧ bits w 24 2 = 0)) (.mmaE5e5 (fld w 21 3) (fld w 16 3) (fld w 11 3) (fld w 0 4))
  | 4 => accept (decide (bits w 4 3 = 0 ∧ bits w 14 2 = 0 ∧ bits w 19 2 = 0 ∧ bits w 24 2 = 0)) (.mmaQ4e4 (fld w 21 3) (fld w 16 3) (fld w 11 3) (fld w 0 4))
  | 5 => accept (decide (bits w 4 3 = 0 ∧ bits w 11 10 = 0 ∧ bits w 24 2 = 0)) (.mmaBf (fld w 21 3) (fld w 0 4))
  | 6 => accept (decide (bits w 4 3 = 0 ∧ bits w 11 10 = 0 ∧ bits w 24 2 = 0)) (.mmaHf (fld w 21 3) (fld w 0 4))
  | 7 => accept (decide (bits w 4 3 = 0 ∧ bits w 11 10 = 0 ∧ bits w 24 2 = 0)) (.mmaF32 (fld w 21 3) (fld w 0 4))
  | 8 => accept (decide (bits w 4 3 = 0 ∧ bits w 11 10 = 0 ∧ bits w 24 2 = 0)) (.mmaF64 (fld w 21 3) (fld w 0 4))
  | 9 => accept (decide (bits w 4 3 = 0 ∧ bits w 11 10 = 0 ∧ bits w 24 2 = 0)) (.mmaI8 (fld w 21 3) (fld w 0 4))
  | _ => none

/-- Major 0x32 (R87). -/
def decRmma (w : Nat) : Option Instr :=
  match bits w 7 4 with
  | 0 => accept (decide (bits w 4 3 = 0 ∧ bits w 14 2 = 0 ∧ bits w 19 7 = 0)) (.rmmaE4e4 (fld w 16 3) (fld w 11 3) (fld w 0 4))
  | 1 => accept (decide (bits w 4 3 = 0 ∧ bits w 14 2 = 0 ∧ bits w 19 7 = 0)) (.rmmaE4e5 (fld w 16 3) (fld w 11 3) (fld w 0 4))
  | 2 => accept (decide (bits w 4 3 = 0 ∧ bits w 14 2 = 0 ∧ bits w 19 7 = 0)) (.rmmaE5e4 (fld w 16 3) (fld w 11 3) (fld w 0 4))
  | 3 => accept (decide (bits w 4 3 = 0 ∧ bits w 14 2 = 0 ∧ bits w 19 7 = 0)) (.rmmaE5e5 (fld w 16 3) (fld w 11 3) (fld w 0 4))
  | 4 => accept (decide (bits w 4 3 = 0 ∧ bits w 14 2 = 0 ∧ bits w 19 7 = 0)) (.rmmaQ4e4 (fld w 16 3) (fld w 11 3) (fld w 0 4))
  | 5 => accept (decide (bits w 4 3 = 0 ∧ bits w 11 15 = 0)) (.rmmaBf (fld w 0 4))
  | 6 => accept (decide (bits w 4 3 = 0 ∧ bits w 11 15 = 0)) (.rmmaHf (fld w 0 4))
  | 7 => accept (decide (bits w 4 3 = 0 ∧ bits w 11 15 = 0)) (.rmmaF32 (fld w 0 4))
  | 9 => accept (decide (bits w 4 3 = 0 ∧ bits w 11 15 = 0)) (.rmmaI8 (fld w 0 4))
  | _ => none

/-- Major 0x33 (R87). -/
def decMctl (w : Nat) : Option Instr :=
  match bits w 8 3 with
  | 0 => accept (decide (bits w 4 4 = 0 ∧ bits w 11 15 = 0)) (.mgang (fld w 0 4))
  | 1 => accept (decide (bits w 4 4 = 0 ∧ bits w 11 15 = 0)) (.mwait (fld w 0 4))
  | 2 => accept (decide (bits w 4 4 = 0 ∧ bits w 19 2 = 0)) (.mrd (fld w 21 5) (fld w 16 3) (fld w 11 5) (fld w 0 4))
  | 3 => accept (decide (bits w 4 4 = 0 ∧ bits w 24 2 = 0)) (.mwr (fld w 21 3) (fld w 16 5) (fld w 11 5) (fld w 0 4))
  | 4 => accept (decide (bits w 4 4 = 0 ∧ bits w 11 10 = 0 ∧ bits w 24 2 = 0)) (.mclaim (fld w 21 3) (fld w 0 4))
  | 5 => accept (decide (bits w 4 4 = 0 ∧ bits w 11 10 = 0 ∧ bits w 24 2 = 0)) (.mfree (fld w 21 3) (fld w 0 4))
  | 6 => accept (decide (bits w 4 4 = 0 ∧ bits w 11 5 = 0 ∧ bits w 24 2 = 0)) (.eset (fld w 21 3) (fld w 16 5) (fld w 0 4))
  | 7 => accept (decide (bits w 4 4 = 0 ∧ bits w 11 5 = 0 ∧ bits w 19 2 = 0)) (.erd (fld w 21 5) (fld w 16 3) (fld w 0 4))
  | _ => none

/-- Major 0x34 (R87). -/
def decQue (w : Nat) : Option Instr :=
  match bits w 9 2 with
  | 0 => accept (decide (bits w 4 5 = 0 ∧ bits w 11 5 = 0 ∧ bits w 23 3 = 0)) (.qpush (fld w 21 2) (fld w 16 5) (fld w 0 4))
  | 1 => accept (decide (bits w 4 5 = 0 ∧ bits w 11 5 = 0 ∧ bits w 18 3 = 0)) (.qpop (fld w 21 5) (fld w 16 2) (fld w 0 4))
  | 2 => accept (decide (bits w 4 5 = 0 ∧ bits w 18 3 = 0)) (.qnpush (fld w 21 5) (fld w 16 2) (fld w 11 5) (fld w 0 4))
  | 3 => accept (decide (bits w 4 5 = 0 ∧ bits w 11 5 = 0 ∧ bits w 18 3 = 0)) (.qcnt (fld w 21 5) (fld w 16 2) (fld w 0 4))
  | _ => none

/-- Major 0x36 (R87). -/
def decMsg (w : Nat) : Option Instr :=
  match bits w 8 3 with
  | 0 => accept true (.send (fld w 21 5) (fld w 16 5) (fld w 11 5) (fld w 5 3) (fld w 4 1) (fld w 0 4))
  | 1 => accept (decide (bits w 4 1 = 0)) (.sendl (fld w 21 5) (fld w 16 5) (fld w 11 5) (fld w 5 3) (fld w 0 4))
  | 2 => accept (decide (bits w 4 1 = 0)) (.hop (fld w 21 5) (fld w 16 5) (fld w 11 5) (fld w 5 3) (fld w 0 4))
  | 3 => accept (decide (bits w 4 1 = 0)) (.hopV (fld w 21 5) (fld w 16 5) (fld w 11 5) (fld w 5 3) (fld w 0 4))
  | _ => none

/-- Major 0x37 (R87). -/
def decSpawn (w : Nat) : Option Instr :=
  match bits w 8 3 with
  | 0 => accept (decide (bits w 4 1 = 0 ∧ bits w 21 5 = 0)) (.spawn (fld w 16 5) (fld w 11 5) (fld w 5 3) (fld w 0 4))
  | 1 => accept (decide (bits w 4 1 = 0)) (.spawnn (fld w 21 5) (fld w 16 5) (fld w 11 5) (fld w 5 3) (fld w 0 4))
  | _ => none

/-- Major 0x38 (R87). -/
def decTask (w : Nat) : Option Instr :=
  match bits w 7 4 with
  | 0 => accept (decide (bits w 4 3 = 0 ∧ bits w 11 15 = 0)) (.commit (fld w 0 4))
  | 1 => accept (decide (bits w 4 3 = 0 ∧ bits w 11 15 = 0)) (.done (fld w 0 4))
  | 2 => accept (decide (bits w 4 3 = 0 ∧ bits w 11 15 = 0)) (.yield (fld w 0 4))
  | 3 => accept (decide (bits w 6 1 = 0 ∧ bits w 11 15 = 0)) (.prio (fld w 4 2) (fld w 0 4))
  | 4 => accept (decide (bits w 4 3 = 0 ∧ bits w 11 15 = 0)) (.umask (fld w 0 4))
  | 5 => accept (decide (bits w 4 3 = 0 ∧ bits w 11 15 = 0)) (.unmask (fld w 0 4))
  | 6 => accept (decide (bits w 4 3 = 0 ∧ bits w 11 5 = 0 ∧ bits w 21 5 = 0)) (.cntadd (fld w 16 5) (fld w 0 4))
  | 7 => accept (decide (bits w 4 3 = 0 ∧ bits w 11 5 = 0 ∧ bits w 21 5 = 0)) (.cancel (fld w 16 5) (fld w 0 4))
  | _ => none

/-- Major 0x39 (R87). -/
def decWait (w : Nat) : Option Instr :=
  match bits w 9 2 with
  | 0 => accept (decide (bits w 4 5 = 0 ∧ bits w 11 5 = 0)) (.waitc (fld w 21 5) (fld w 16 5) (fld w 0 4))
  | 1 => accept (decide (bits w 4 5 = 0)) (.waitm (fld w 21 5) (fld w 16 5) (fld w 11 5) (fld w 0 4))
  | _ => none

/-- Major 0x3A (R87). -/
def decSync (w : Nat) : Option Instr :=
  match bits w 9 2 with
  | 0 => accept (decide (bits w 4 2 = 0 ∧ bits w 11 10 = 0 ∧ bits w 24 2 = 0)) (.fence (fld w 21 3) (fld w 6 3) (fld w 0 4))
  | 1 => accept (decide (bits w 4 3 = 0 ∧ bits w 11 15 = 0)) (.drain (fld w 7 2) (fld w 0 4))
  | 2 => accept (decide (bits w 4 5 = 0 ∧ bits w 11 5 = 0 ∧ bits w 21 5 = 0)) (.bar (fld w 16 5) (fld w 0 4))
  | _ => none

/-- Major 0x3B (R87). -/
def decEng (w : Nat) : Option Instr :=
  match bits w 8 3 with
  | 0 => accept (decide (bits w 5 3 = 0 ∧ bits w 11 5 = 0 ∧ bits w 21 5 = 0)) (.twalk (fld w 16 5) (fld w 4 1) (fld w 0 4))
  | 1 => accept (decide (bits w 5 3 = 0 ∧ bits w 11 5 = 0 ∧ bits w 21 5 = 0)) (.twb (fld w 16 5) (fld w 4 1) (fld w 0 4))
  | 2 => accept (decide (bits w 5 3 = 0 ∧ bits w 11 5 = 0 ∧ bits w 21 5 = 0)) (.tdeal (fld w 16 5) (fld w 4 1) (fld w 0 4))
  | 3 => accept (decide (bits w 5 3 = 0 ∧ bits w 11 5 = 0 ∧ bits w 21 5 = 0)) (.permit (fld w 16 5) (fld w 4 1) (fld w 0 4))
  | 4 => accept (decide (bits w 4 4 = 0)) (.pklook (fld w 21 5) (fld w 16 5) (fld w 11 5) (fld w 0 4))
  | 5 => accept (decide (bits w 4 4 = 0)) (.pkres (fld w 21 5) (fld w 16 5) (fld w 11 5) (fld w 0 4))
  | 6 => accept (decide (bits w 4 4 = 0)) (.pkscore (fld w 21 5) (fld w 16 5) (fld w 11 5) (fld w 0 4))
  | 7 => accept (decide (bits w 4 4 = 0)) (.pkgw (fld w 21 5) (fld w 16 5) (fld w 11 5) (fld w 0 4))
  | _ => none

/-- Major 0x3C (R87). -/
def decSysa (w : Nat) : Option Instr :=
  match bits w 8 3 with
  | 0 => accept (decide (bits w 16 5 = 0)) (.srd (fld w 21 5) (fld w 11 5) (fld w 4 4) (fld w 0 4))
  | 1 => accept (decide (bits w 21 5 = 0)) (.swr (fld w 16 5) (fld w 11 5) (fld w 4 4) (fld w 0 4))
  | 2 => accept (decide (bits w 4 4 = 0 ∧ bits w 11 5 = 0 ∧ bits w 21 5 = 0)) (.trap (fld w 16 5) (fld w 0 4))
  | 3 => accept (decide (bits w 4 4 = 0 ∧ bits w 21 5 = 0)) (.eret (fld w 16 5) (fld w 11 5) (fld w 0 4))
  | _ => none

/-- Major 0x3D (R87). -/
def decSysb (w : Nat) : Option Instr :=
  match bits w 8 3 with
  | 0 =>
    match bits w 4 4 with
    | 0 => accept true (.tlbwWrite (fld w 21 5) (fld w 16 5) (fld w 11 5) (fld w 0 4))
    | 1 => accept true (.tlbwAbsent (fld w 21 5) (fld w 16 5) (fld w 11 5) (fld w 0 4))
    | 2 => accept true (.tlbwDeny (fld w 21 5) (fld w 16 5) (fld w 11 5) (fld w 0 4))
    | _ => none
  | 1 =>
    match bits w 4 4 with
    | 0 => accept (decide (bits w 11 5 = 0 ∧ bits w 21 5 = 0)) (.tlbiPage (fld w 16 5) (fld w 0 4))
    | 1 => accept (decide (bits w 11 5 = 0 ∧ bits w 21 5 = 0)) (.tlbiAsid (fld w 16 5) (fld w 0 4))
    | 2 => accept (decide (bits w 11 5 = 0 ∧ bits w 21 5 = 0)) (.tlbiAll (fld w 16 5) (fld w 0 4))
    | _ => none
  | 2 => accept (decide (bits w 4 4 = 0)) (.tlbp (fld w 21 5) (fld w 16 5) (fld w 11 5) (fld w 0 4))
  | 3 => accept (decide (bits w 4 4 = 0 ∧ bits w 11 5 = 0 ∧ bits w 21 5 = 0)) (.idle (fld w 16 5) (fld w 0 4))
  | 4 => accept (decide (bits w 4 4 = 0 ∧ bits w 11 5 = 0)) (.wfm (fld w 21 5) (fld w 16 5) (fld w 0 4))
  | 5 =>
    match bits w 4 4 with
    | 0 => accept (decide (bits w 11 5 = 0 ∧ bits w 21 5 = 0)) (.haltcFence (fld w 16 5) (fld w 0 4))
    | 1 => accept (decide (bits w 11 5 = 0 ∧ bits w 21 5 = 0)) (.haltcUnfence (fld w 16 5) (fld w 0 4))
    | _ => none
  | 6 => accept (decide (bits w 4 4 = 0 ∧ bits w 11 5 = 0)) (.selft (fld w 21 5) (fld w 16 5) (fld w 0 4))
  | _ => none

/-- Major 0x3F (R93): the first word `w` and the second word `v`. -/
def decLong (w v : Nat) : Option Instr :=
  match bits w 20 6 with
  | 0 => accept (decide (bits w 4 11 = 0)) (.liw (fld w 15 5) (fld w 0 4) (fld v 0 32))
  | 1 => accept (decide (bits w 4 16 = 0)) (.calll (fld w 0 4) (fld v 0 32))
  | 2 => accept (decide (bits w 4 4 = 0)) (.ldLong (fld w 15 5) (fld w 10 5) (fld w 8 2) (fld w 0 4) (fld v 29 3) (fld v 26 3) (fld v 24 2) (fld v 0 24))
  | 3 => accept (decide (bits w 4 4 = 0)) (.ldnLong (fld w 15 5) (fld w 10 5) (fld w 8 2) (fld w 0 4) (fld v 29 3) (fld v 26 3) (fld v 24 2) (fld v 0 24))
  | 4 => accept (decide (bits w 4 4 = 0)) (.stLong (fld w 15 5) (fld w 10 5) (fld w 8 2) (fld w 0 4) (fld v 29 3) (fld v 26 3) (fld v 24 2) (fld v 0 24))
  | 5 => accept (decide (bits w 4 6 = 0)) (.ldvLong (fld w 15 5) (fld w 10 5) (fld w 0 4) (fld v 29 3) (fld v 26 3) (fld v 24 2) (fld v 0 24))
  | 6 => accept (decide (bits w 4 6 = 0)) (.stvLong (fld w 15 5) (fld w 10 5) (fld w 0 4) (fld v 29 3) (fld v 26 3) (fld v 24 2) (fld v 0 24))
  | 7 => accept (decide (bits w 4 3 = 0 ∧ bits w 8 2 = 0 ∧ bits v 5 19 = 0)) (.ldvsLong (fld w 15 5) (fld w 10 5) (fld w 7 1) (fld w 0 4) (fld v 29 3) (fld v 26 3) (fld v 24 2) (fld v 0 5))
  | 8 => accept (decide (bits w 4 3 = 0 ∧ bits w 8 2 = 0 ∧ bits v 5 19 = 0)) (.stvsLong (fld w 15 5) (fld w 10 5) (fld w 7 1) (fld w 0 4) (fld v 29 3) (fld v 26 3) (fld v 24 2) (fld v 0 5))
  | 9 => accept (decide (bits w 4 1 = 0 ∧ bits w 8 2 = 0 ∧ bits v 5 19 = 0)) (.vgatherLong (fld w 15 5) (fld w 10 5) (fld w 7 1) (fld w 5 2) (fld w 0 4) (fld v 29 3) (fld v 26 3) (fld v 24 2) (fld v 0 5))
  | 10 => accept (decide (bits w 4 1 = 0 ∧ bits w 8 2 = 0 ∧ bits v 5 19 = 0)) (.vscatterLong (fld w 15 5) (fld w 10 5) (fld w 7 1) (fld w 5 2) (fld w 0 4) (fld v 29 3) (fld v 26 3) (fld v 24 2) (fld v 0 5))
  | 11 => accept (decide (bits w 4 6 = 0 ∧ bits w 15 5 = 0 ∧ bits v 26 6 = 0)) (.prefLong (fld w 10 5) (fld w 0 4) (fld v 24 2) (fld v 0 24))
  | _ => none

/-- The word begins a long form (R79): major 0x3F. -/
def isLong (w : Nat) : Bool := bits w 26 6 == 0x3F

/-- R86 step 1, R87: the instruction that the word `w`, followed by the word `v`, stands for; none where it traps
ILLEGAL. Only a long form reads `v`. -/
def decode (w v : BitVec 32) : Option Instr :=
  match bits w.toNat 26 6 with
  | 0x01 => decAlu w.toNat
  | 0x02 => decMuldiv w.toNat
  | 0x03 => decAddi w.toNat
  | 0x04 => decLogi w.toNat
  | 0x05 => decShifti w.toNat
  | 0x06 => decField w.toNat
  | 0x07 => decLiu w.toNat
  | 0x08 => decCmp w.toNat
  | 0x09 => decCmpi w.toNat
  | 0x0A => decPred w.toNat
  | 0x0B => decSfp w.toNat
  | 0x0C => decBr w.toNat
  | 0x0D => decCall w.toNat
  | 0x0E => decJr w.toNat
  | 0x0F => decAddpc w.toNat
  | 0x10 => decLd w.toNat
  | 0x11 => decLdn w.toNat
  | 0x12 => decSt w.toNat
  | 0x13 => decLdv w.toNat
  | 0x14 => decStv w.toNat
  | 0x15 => decVmem w.toNat
  | 0x16 => decCache w.toNat
  | 0x18 => decAtoma w.toNat
  | 0x19 => decAtomb w.toNat
  | 0x1A => decAtomc w.toNat
  | 0x1B => decAtomf w.toNat
  | 0x1C => decWread w.toNat
  | 0x1D => decWupd w.toNat
  | 0x1E => decWlap w.toNat
  | 0x20 => decVfa w.toNat
  | 0x21 => decVfu w.toNat
  | 0x22 => decVsf w.toNat
  | 0x23 => decVia w.toNat
  | 0x24 => decVls w.toNat
  | 0x25 => decVcmp w.toNat
  | 0x26 => decVcvt w.toNat
  | 0x27 => decVq w.toNat
  | 0x28 => decVpk w.toNat
  | 0x29 => decVmov w.toNat
  | 0x2A => decVrs w.toNat
  | 0x2B => decVsel w.toNat
  | 0x2C => decVoptu w.toNat
  | 0x2D => decStrm w.toNat
  | 0x30 => decMmem w.toNat
  | 0x31 => decMma w.toNat
  | 0x32 => decRmma w.toNat
  | 0x33 => decMctl w.toNat
  | 0x34 => decQue w.toNat
  | 0x36 => decMsg w.toNat
  | 0x37 => decSpawn w.toNat
  | 0x38 => decTask w.toNat
  | 0x39 => decWait w.toNat
  | 0x3A => decSync w.toNat
  | 0x3B => decEng w.toNat
  | 0x3C => decSysa w.toNat
  | 0x3D => decSysb w.toNat
  | 0x3F => decLong w.toNat v.toNat
  | _ => none

/-- The host's numbering: bits 31:0 are the first word, bits 63:32 the second. -/
def decodeTableWord (_nbits w : Nat) : Option Instr := decode (BitVec.ofNat 32 w) (BitVec.ofNat 32 (w / 2 ^ 32))

/-- A 32-bit word from its number. -/
def word (n : Nat) : BitVec 32 := BitVec.ofNat 32 n

/-- A field placed from bit `lo` up beside the fields already placed. -/
def put {n : Nat} (x : BitVec n) (lo acc : Nat) : Nat := acc + x.toNat * 2 ^ lo

/-- The words of an instruction (R79 to R93); an event has none. -/
def encode : Instr → List (BitVec 32)
  | .add d a b w n g => [word (put g 0 (put n 8 (put w 9 (put b 11 (put a 16 (put d 21 0x04000000))))))]
  | .sub d a b w n g => [word (put g 0 (put n 8 (put w 9 (put b 11 (put a 16 (put d 21 0x04000010))))))]
  | .and d a b w n g => [word (put g 0 (put n 8 (put w 9 (put b 11 (put a 16 (put d 21 0x04000020))))))]
  | .or d a b w n g => [word (put g 0 (put n 8 (put w 9 (put b 11 (put a 16 (put d 21 0x04000030))))))]
  | .xor d a b w n g => [word (put g 0 (put n 8 (put w 9 (put b 11 (put a 16 (put d 21 0x04000040))))))]
  | .andn d a b w n g => [word (put g 0 (put n 8 (put w 9 (put b 11 (put a 16 (put d 21 0x04000050))))))]
  | .shl d a b w n g => [word (put g 0 (put n 8 (put w 9 (put b 11 (put a 16 (put d 21 0x04000060))))))]
  | .shr d a b w n g => [word (put g 0 (put n 8 (put w 9 (put b 11 (put a 16 (put d 21 0x04000070))))))]
  | .sra d a b w n g => [word (put g 0 (put n 8 (put w 9 (put b 11 (put a 16 (put d 21 0x04000080))))))]
  | .rol d a b w n g => [word (put g 0 (put n 8 (put w 9 (put b 11 (put a 16 (put d 21 0x04000090))))))]
  | .min d a b w n g => [word (put g 0 (put n 8 (put w 9 (put b 11 (put a 16 (put d 21 0x040000A0))))))]
  | .max d a b w n g => [word (put g 0 (put n 8 (put w 9 (put b 11 (put a 16 (put d 21 0x040000B0))))))]
  | .minn d a b w n g => [word (put g 0 (put n 8 (put w 9 (put b 11 (put a 16 (put d 21 0x040000C0))))))]
  | .maxn d a b w n g => [word (put g 0 (put n 8 (put w 9 (put b 11 (put a 16 (put d 21 0x040000D0))))))]
  | .clz d a w n g => [word (put g 0 (put n 8 (put w 9 (put a 16 (put d 21 0x040000E0)))))]
  | .ctz d a w n g => [word (put g 0 (put n 8 (put w 9 (put a 16 (put d 21 0x040000F0)))))]
  | .mul d a b w n g => [word (put g 0 (put n 8 (put w 9 (put b 11 (put a 16 (put d 21 0x08000000))))))]
  | .mulh d a b w n g => [word (put g 0 (put n 8 (put w 9 (put b 11 (put a 16 (put d 21 0x08000010))))))]
  | .mulhn d a b w n g => [word (put g 0 (put n 8 (put w 9 (put b 11 (put a 16 (put d 21 0x08000020))))))]
  | .div d a b w n g => [word (put g 0 (put n 8 (put w 9 (put b 11 (put a 16 (put d 21 0x08000030))))))]
  | .divn d a b w n g => [word (put g 0 (put n 8 (put w 9 (put b 11 (put a 16 (put d 21 0x08000040))))))]
  | .rem d a b w n g => [word (put g 0 (put n 8 (put w 9 (put b 11 (put a 16 (put d 21 0x08000050))))))]
  | .remn d a b w n g => [word (put g 0 (put n 8 (put w 9 (put b 11 (put a 16 (put d 21 0x08000060))))))]
  | .popc d a w n g => [word (put g 0 (put n 8 (put w 9 (put a 16 (put d 21 0x08000070)))))]
  | .bswap d a w n g => [word (put g 0 (put n 8 (put w 9 (put a 16 (put d 21 0x08000080)))))]
  | .addi d a i g => [word (put g 0 (put i 4 (put a 16 (put d 21 0x0C000000))))]
  | .andi d a i g => [word (put g 0 (put i 4 (put a 16 (put d 21 0x10000000))))]
  | .ori d a i g => [word (put g 0 (put i 4 (put a 16 (put d 21 0x10004000))))]
  | .xori d a i g => [word (put g 0 (put i 4 (put a 16 (put d 21 0x10008000))))]
  | .shli d a s g => [word (put g 0 (put s 4 (put a 16 (put d 21 0x14000000))))]
  | .shri d a s g => [word (put g 0 (put s 4 (put a 16 (put d 21 0x14004000))))]
  | .srai d a s g => [word (put g 0 (put s 4 (put a 16 (put d 21 0x14008000))))]
  | .extf d a w n p g => [word (put g 0 (put p 4 (put n 11 (put w 12 (put a 16 (put d 21 0x18000000))))))]
  | .insf d a w n p g => [word (put g 0 (put p 4 (put n 11 (put w 12 (put a 16 (put d 21 0x18004000))))))]
  | .sext d a w g => [word (put g 0 (put w 12 (put a 16 (put d 21 0x18008000))))]
  | .zext d a w g => [word (put g 0 (put w 12 (put a 16 (put d 21 0x1800C800))))]
  | .liu d i g => [word (put g 0 (put i 4 (put d 21 0x1C000000)))]
  | .cmp p a b w n c g => [word (put g 0 (put c 5 (put n 8 (put w 9 (put b 11 (put a 16 (put p 21 0x20000000)))))))]
  | .cmpi n p a c i g => [word (put g 0 (put i 4 (put c 13 (put a 16 (put p 21 (put n 24 0x24000000))))))]
  | .pand d a b g => [word (put g 0 (put b 11 (put a 16 (put d 21 0x28000000))))]
  | .por d a b g => [word (put g 0 (put b 11 (put a 16 (put d 21 0x28000080))))]
  | .pxor d a b g => [word (put g 0 (put b 11 (put a 16 (put d 21 0x28000100))))]
  | .pnot d a g => [word (put g 0 (put a 16 (put d 21 0x28000180)))]
  | .sel d a b s g => [word (put g 0 (put s 4 (put b 11 (put a 16 (put d 21 0x28000200)))))]
  | .pmovx d a g => [word (put g 0 (put a 16 (put d 21 0x28000280)))]
  | .xmovp d a g => [word (put g 0 (put a 16 (put d 21 0x28000300)))]
  | .fadd d a b t g => [word (put g 0 (put t 4 (put b 11 (put a 16 (put d 21 0x2C000000)))))]
  | .fsub d a b t g => [word (put g 0 (put t 4 (put b 11 (put a 16 (put d 21 0x2C000080)))))]
  | .fmul d a b t g => [word (put g 0 (put t 4 (put b 11 (put a 16 (put d 21 0x2C000100)))))]
  | .ffma d a b t g => [word (put g 0 (put t 4 (put b 11 (put a 16 (put d 21 0x2C000180)))))]
  | .fdiv d a b t g => [word (put g 0 (put t 4 (put b 11 (put a 16 (put d 21 0x2C000200)))))]
  | .fsqrt d a t g => [word (put g 0 (put t 4 (put a 16 (put d 21 0x2C000280))))]
  | .fmin d a b t g => [word (put g 0 (put t 4 (put b 11 (put a 16 (put d 21 0x2C000300)))))]
  | .fmax d a b t g => [word (put g 0 (put t 4 (put b 11 (put a 16 (put d 21 0x2C000380)))))]
  | .fcmp t p a b c g => [word (put g 0 (put c 4 (put b 11 (put a 16 (put p 21 (put t 24 0x2C000400))))))]
  | .fcvt d a s t g => [word (put g 0 (put t 4 (put s 11 (put a 16 (put d 21 0x2C000480)))))]
  | .br o g => [word (put g 0 (put o 4 0x30000000))]
  | .call o g => [word (put g 0 (put o 4 0x34000000))]
  | .jr a g => [word (put g 0 (put a 16 0x38000000))]
  | .addpc d i g => [word (put g 0 (put i 4 (put d 21 0x3C000000)))]
  | .liw d g imm => [word (put g 0 (put d 15 0xFC000000)), word (put imm 0 0)]
  | .calll g imm => [word (put g 0 0xFC100000), word (put imm 0 0)]
  | .ld d a i s g => [word (put g 0 (put s 4 (put i 6 (put a 16 (put d 21 0x40000000)))))]
  | .ldn d a i s g => [word (put g 0 (put s 4 (put i 6 (put a 16 (put d 21 0x44000000)))))]
  | .st d a i s g => [word (put g 0 (put s 4 (put i 6 (put a 16 (put d 21 0x48000000)))))]
  | .ldLong d a w g sc ord h off => [word (put g 0 (put w 8 (put a 10 (put d 15 0xFC200000)))), word (put off 0 (put h 24 (put ord 26 (put sc 29 0))))]
  | .ldnLong d a w g sc ord h off => [word (put g 0 (put w 8 (put a 10 (put d 15 0xFC300000)))), word (put off 0 (put h 24 (put ord 26 (put sc 29 0))))]
  | .stLong d a w g sc ord h off => [word (put g 0 (put w 8 (put a 10 (put d 15 0xFC400000)))), word (put off 0 (put h 24 (put ord 26 (put sc 29 0))))]
  | .ldv d a i g => [word (put g 0 (put i 6 (put a 16 (put d 21 0x4C000000))))]
  | .stv d a i g => [word (put g 0 (put i 6 (put a 16 (put d 21 0x50000000))))]
  | .ldvLong d a g sc ord h off => [word (put g 0 (put a 10 (put d 15 0xFC500000))), word (put off 0 (put h 24 (put ord 26 (put sc 29 0))))]
  | .stvLong d a g sc ord h off => [word (put g 0 (put a 10 (put d 15 0xFC600000))), word (put off 0 (put h 24 (put ord 26 (put sc 29 0))))]
  | .ldvs d a b w g => [word (put g 0 (put w 8 (put b 11 (put a 16 (put d 21 0x54000000)))))]
  | .stvs d a b w g => [word (put g 0 (put w 8 (put b 11 (put a 16 (put d 21 0x54000200)))))]
  | .vgather d a b w s g => [word (put g 0 (put s 6 (put w 8 (put b 11 (put a 16 (put d 21 0x54000400))))))]
  | .vscatter d a b w s g => [word (put g 0 (put s 6 (put w 8 (put b 11 (put a 16 (put d 21 0x54000600))))))]
  | .ldvsLong d a w g sc ord h b => [word (put g 0 (put w 7 (put a 10 (put d 15 0xFC700000)))), word (put b 0 (put h 24 (put ord 26 (put sc 29 0))))]
  | .stvsLong d a w g sc ord h b => [word (put g 0 (put w 7 (put a 10 (put d 15 0xFC800000)))), word (put b 0 (put h 24 (put ord 26 (put sc 29 0))))]
  | .vgatherLong d a w s g sc ord h b => [word (put g 0 (put s 5 (put w 7 (put a 10 (put d 15 0xFC900000))))), word (put b 0 (put h 24 (put ord 26 (put sc 29 0))))]
  | .vscatterLong d a w s g sc ord h b => [word (put g 0 (put s 5 (put w 7 (put a 10 (put d 15 0xFCA00000))))), word (put b 0 (put h 24 (put ord 26 (put sc 29 0))))]
  | .pref a h g => [word (put g 0 (put h 4 (put a 16 0x58000000)))]
  | .prefLong a g h off => [word (put g 0 (put a 10 0xFCB00000)), word (put off 0 (put h 24 0))]
  | .cflush a b s g => [word (put g 0 (put s 6 (put b 11 (put a 16 0x58000200))))]
  | .cinv a b s g => [word (put g 0 (put s 6 (put b 11 (put a 16 0x58000400))))]
  | .aadd d a b o s g => [word (put g 0 (put s 6 (put o 9 (put b 11 (put a 16 (put d 21 0x60000000))))))]
  | .aand d a b o s g => [word (put g 0 (put s 6 (put o 9 (put b 11 (put a 16 (put d 21 0x60000010))))))]
  | .aor d a b o s g => [word (put g 0 (put s 6 (put o 9 (put b 11 (put a 16 (put d 21 0x60000020))))))]
  | .axor d a b o s g => [word (put g 0 (put s 6 (put o 9 (put b 11 (put a 16 (put d 21 0x60000030))))))]
  | .amin d a b o s g => [word (put g 0 (put s 6 (put o 9 (put b 11 (put a 16 (put d 21 0x64000000))))))]
  | .amax d a b o s g => [word (put g 0 (put s 6 (put o 9 (put b 11 (put a 16 (put d 21 0x64000010))))))]
  | .aminn d a b o s g => [word (put g 0 (put s 6 (put o 9 (put b 11 (put a 16 (put d 21 0x64000020))))))]
  | .amaxn d a b o s g => [word (put g 0 (put s 6 (put o 9 (put b 11 (put a 16 (put d 21 0x64000030))))))]
  | .aswap d a b o s g => [word (put g 0 (put s 6 (put o 9 (put b 11 (put a 16 (put d 21 0x68000000))))))]
  | .acas d a b o s g => [word (put g 0 (put s 6 (put o 9 (put b 11 (put a 16 (put d 21 0x68000010))))))]
  | .aaddf d a b o s g => [word (put g 0 (put s 6 (put o 9 (put b 11 (put a 16 (put d 21 0x68000020))))))]
  | .afaddF64 d a b o s g => [word (put g 0 (put s 6 (put o 9 (put b 11 (put a 16 (put d 21 0x6C000000))))))]
  | .afmaxF64 d a b o s g => [word (put g 0 (put s 6 (put o 9 (put b 11 (put a 16 (put d 21 0x6C000010))))))]
  | .afaddF32 d a b o s g => [word (put g 0 (put s 6 (put o 9 (put b 11 (put a 16 (put d 21 0x6C000020))))))]
  | .afmaxF32 d a b o s g => [word (put g 0 (put s 6 (put o 9 (put b 11 (put a 16 (put d 21 0x6C000030))))))]
  | .wread d a b g => [word (put g 0 (put b 11 (put a 16 (put d 21 0x70000000))))]
  | .wadd d a b g => [word (put g 0 (put b 11 (put a 16 (put d 21 0x74000000))))]
  | .wset d a b g => [word (put g 0 (put b 11 (put a 16 (put d 21 0x74000200))))]
  | .wmax d a b g => [word (put g 0 (put b 11 (put a 16 (put d 21 0x74000400))))]
  | .wlap d a g => [word (put g 0 (put a 16 (put d 21 0x78000000)))]
  | .vadd d a b t g => [word (put g 0 (put t 7 (put b 11 (put a 16 (put d 21 0x80000000)))))]
  | .vsub d a b t g => [word (put g 0 (put t 7 (put b 11 (put a 16 (put d 21 0x80000100)))))]
  | .vmul d a b t g => [word (put g 0 (put t 7 (put b 11 (put a 16 (put d 21 0x80000200)))))]
  | .vmin d a b t g => [word (put g 0 (put t 7 (put b 11 (put a 16 (put d 21 0x80000300)))))]
  | .vmax d a b t g => [word (put g 0 (put t 7 (put b 11 (put a 16 (put d 21 0x80000400)))))]
  | .vdiv d a b t g => [word (put g 0 (put t 7 (put b 11 (put a 16 (put d 21 0x80000500)))))]
  | .vfma d a b t g => [word (put g 0 (put t 7 (put b 11 (put a 16 (put d 21 0x84000000)))))]
  | .vfms d a b t g => [word (put g 0 (put t 7 (put b 11 (put a 16 (put d 21 0x84000100)))))]
  | .vfnma d a b t g => [word (put g 0 (put t 7 (put b 11 (put a 16 (put d 21 0x84000200)))))]
  | .vabs d a t g => [word (put g 0 (put t 7 (put a 16 (put d 21 0x84000300))))]
  | .vneg d a t g => [word (put g 0 (put t 7 (put a 16 (put d 21 0x84000400))))]
  | .vsqrt d a t g => [word (put g 0 (put t 7 (put a 16 (put d 21 0x84000500))))]
  | .vrcp d a g => [word (put g 0 (put a 16 (put d 21 0x88000000)))]
  | .vrsqrt d a g => [word (put g 0 (put a 16 (put d 21 0x88000100)))]
  | .vexp2 d a g => [word (put g 0 (put a 16 (put d 21 0x88000200)))]
  | .vlog2 d a g => [word (put g 0 (put a 16 (put d 21 0x88000300)))]
  | .vsin d a g => [word (put g 0 (put a 16 (put d 21 0x88000400)))]
  | .vcos d a g => [word (put g 0 (put a 16 (put d 21 0x88000500)))]
  | .viadd d a b w g => [word (put g 0 (put w 7 (put b 11 (put a 16 (put d 21 0x8C000000)))))]
  | .visub d a b w g => [word (put g 0 (put w 7 (put b 11 (put a 16 (put d 21 0x8C000100)))))]
  | .vimul d a b w g => [word (put g 0 (put w 7 (put b 11 (put a 16 (put d 21 0x8C000200)))))]
  | .vimin d a b w n g => [word (put g 0 (put n 6 (put w 7 (put b 11 (put a 16 (put d 21 0x8C000300))))))]
  | .vimax d a b w n g => [word (put g 0 (put n 6 (put w 7 (put b 11 (put a 16 (put d 21 0x8C000400))))))]
  | .vand d a b w g => [word (put g 0 (put w 7 (put b 11 (put a 16 (put d 21 0x90000000)))))]
  | .vor d a b w g => [word (put g 0 (put w 7 (put b 11 (put a 16 (put d 21 0x90000100)))))]
  | .vxor d a b w g => [word (put g 0 (put w 7 (put b 11 (put a 16 (put d 21 0x90000200)))))]
  | .vshl d a b w g => [word (put g 0 (put w 7 (put b 11 (put a 16 (put d 21 0x90000300)))))]
  | .vshr d a b w g => [word (put g 0 (put w 7 (put b 11 (put a 16 (put d 21 0x90000400)))))]
  | .vsra d a b w g => [word (put g 0 (put w 7 (put b 11 (put a 16 (put d 21 0x90000500)))))]
  | .vcmp p a b t c g => [word (put g 0 (put c 4 (put t 7 (put b 11 (put a 16 (put p 21 0x94000000))))))]
  | .vicmp n p a b w c g => [word (put g 0 (put c 4 (put w 7 (put b 11 (put a 16 (put p 21 (put n 24 0x94000100)))))))]
  | .vsel d a b w s g => [word (put g 0 (put s 4 (put w 7 (put b 11 (put a 16 (put d 21 0x94000200))))))]
  | .vcvt d a c r s g => [word (put g 0 (put s 4 (put r 5 (put c 11 (put a 16 (put d 21 0x98000000))))))]
  | .vqdec d a b k g => [word (put g 0 (put k 4 (put b 11 (put a 16 (put d 21 0x9C000000)))))]
  | .vqenc d a b k g => [word (put g 0 (put k 4 (put b 11 (put a 16 (put d 21 0x9C000100)))))]
  | .vpack d a w p g => [word (put g 0 (put p 4 (put w 6 (put a 16 (put d 21 0xA0000000)))))]
  | .vunpk d a w p g => [word (put g 0 (put p 4 (put w 6 (put a 16 (put d 21 0xA0000100)))))]
  | .vbcast d a w g => [word (put g 0 (put w 7 (put a 16 (put d 21 0xA4000000))))]
  | .vmovx d a l g => [word (put g 0 (put l 4 (put a 16 (put d 21 0xA4000100))))]
  | .vperm d a b g => [word (put g 0 (put b 11 (put a 16 (put d 21 0xA4000200))))]
  | .vshuf d a b p g => [word (put g 0 (put p 4 (put b 11 (put a 16 (put d 21 0xA4000300)))))]
  | .vred d a w k o g => [word (put g 0 (put o 4 (put k 6 (put w 7 (put a 16 (put d 21 0xA8000000))))))]
  | .vscan d a w k o g => [word (put g 0 (put o 4 (put k 6 (put w 7 (put a 16 (put d 21 0xA8000100))))))]
  | .vtopk d a b k g => [word (put g 0 (put k 4 (put b 11 (put a 16 (put d 21 0xAC000000)))))]
  | .vpairk d a b k g => [word (put g 0 (put k 4 (put b 11 (put a 16 (put d 21 0xAC000100)))))]
  | .voptu d a g => [word (put g 0 (put a 16 (put d 21 0xB0000000)))]
  | .scfg d a g => [word (put g 0 (put a 16 (put d 21 0xB4000000)))]
  | .sbind d b g => [word (put g 0 (put b 11 (put d 21 0xB4000100)))]
  | .sstop d g => [word (put g 0 (put d 21 0xB4000200))]
  | .mlda a b g => [word (put g 0 (put b 11 (put a 16 0xC0000000)))]
  | .mldb a b g => [word (put g 0 (put b 11 (put a 16 0xC0000200)))]
  | .mzero d g => [word (put g 0 (put d 21 0xC0000400))]
  | .mst d a g => [word (put g 0 (put a 16 (put d 21 0xC0000600)))]
  | .mstW d a g => [word (put g 0 (put a 16 (put d 21 0xC0000700)))]
  | .mmaE4e4 d a b g => [word (put g 0 (put b 11 (put a 16 (put d 21 0xC4000000))))]
  | .mmaE4e5 d a b g => [word (put g 0 (put b 11 (put a 16 (put d 21 0xC4000080))))]
  | .mmaE5e4 d a b g => [word (put g 0 (put b 11 (put a 16 (put d 21 0xC4000100))))]
  | .mmaE5e5 d a b g => [word (put g 0 (put b 11 (put a 16 (put d 21 0xC4000180))))]
  | .mmaQ4e4 d a b g => [word (put g 0 (put b 11 (put a 16 (put d 21 0xC4000200))))]
  | .mmaBf d g => [word (put g 0 (put d 21 0xC4000280))]
  | .mmaHf d g => [word (put g 0 (put d 21 0xC4000300))]
  | .mmaF32 d g => [word (put g 0 (put d 21 0xC4000380))]
  | .mmaF64 d g => [word (put g 0 (put d 21 0xC4000400))]
  | .mmaI8 d g => [word (put g 0 (put d 21 0xC4000480))]
  | .rmmaE4e4 a b g => [word (put g 0 (put b 11 (put a 16 0xC8000000)))]
  | .rmmaE4e5 a b g => [word (put g 0 (put b 11 (put a 16 0xC8000080)))]
  | .rmmaE5e4 a b g => [word (put g 0 (put b 11 (put a 16 0xC8000100)))]
  | .rmmaE5e5 a b g => [word (put g 0 (put b 11 (put a 16 0xC8000180)))]
  | .rmmaQ4e4 a b g => [word (put g 0 (put b 11 (put a 16 0xC8000200)))]
  | .rmmaBf g => [word (put g 0 0xC8000280)]
  | .rmmaHf g => [word (put g 0 0xC8000300)]
  | .rmmaF32 g => [word (put g 0 0xC8000380)]
  | .rmmaI8 g => [word (put g 0 0xC8000480)]
  | .mgang g => [word (put g 0 0xCC000000)]
  | .mwait g => [word (put g 0 0xCC000100)]
  | .mrd d a b g => [word (put g 0 (put b 11 (put a 16 (put d 21 0xCC000200))))]
  | .mwr d a b g => [word (put g 0 (put b 11 (put a 16 (put d 21 0xCC000300))))]
  | .mclaim d g => [word (put g 0 (put d 21 0xCC000400))]
  | .mfree d g => [word (put g 0 (put d 21 0xCC000500))]
  | .eset d a g => [word (put g 0 (put a 16 (put d 21 0xCC000600)))]
  | .erd d a g => [word (put g 0 (put a 16 (put d 21 0xCC000700)))]
  | .qpush d a g => [word (put g 0 (put a 16 (put d 21 0xD0000000)))]
  | .qpop d a g => [word (put g 0 (put a 16 (put d 21 0xD0000200)))]
  | .qnpush d a b g => [word (put g 0 (put b 11 (put a 16 (put d 21 0xD0000400))))]
  | .qcnt d a g => [word (put g 0 (put a 16 (put d 21 0xD0000600)))]
  | .send d a b s o g => [word (put g 0 (put o 4 (put s 5 (put b 11 (put a 16 (put d 21 0xD8000000))))))]
  | .sendl d a b s g => [word (put g 0 (put s 5 (put b 11 (put a 16 (put d 21 0xD8000100)))))]
  | .hop d a b s g => [word (put g 0 (put s 5 (put b 11 (put a 16 (put d 21 0xD8000200)))))]
  | .hopV d a b s g => [word (put g 0 (put s 5 (put b 11 (put a 16 (put d 21 0xD8000300)))))]
  | .spawn a b s g => [word (put g 0 (put s 5 (put b 11 (put a 16 0xDC000000))))]
  | .spawnn d a b s g => [word (put g 0 (put s 5 (put b 11 (put a 16 (put d 21 0xDC000100)))))]
  | .commit g => [word (put g 0 0xE0000000)]
  | .done g => [word (put g 0 0xE0000080)]
  | .yield g => [word (put g 0 0xE0000100)]
  | .prio c g => [word (put g 0 (put c 4 0xE0000180))]
  | .umask g => [word (put g 0 0xE0000200)]
  | .unmask g => [word (put g 0 0xE0000280)]
  | .cntadd a g => [word (put g 0 (put a 16 0xE0000300))]
  | .cancel a g => [word (put g 0 (put a 16 0xE0000380))]
  | .waitc d a g => [word (put g 0 (put a 16 (put d 21 0xE4000000)))]
  | .waitm d a b g => [word (put g 0 (put b 11 (put a 16 (put d 21 0xE4000200))))]
  | .fence s o g => [word (put g 0 (put o 6 (put s 21 0xE8000000)))]
  | .drain p g => [word (put g 0 (put p 7 0xE8000200))]
  | .bar a g => [word (put g 0 (put a 16 0xE8000400))]
  | .twalk a e g => [word (put g 0 (put e 4 (put a 16 0xEC000000)))]
  | .twb a e g => [word (put g 0 (put e 4 (put a 16 0xEC000100)))]
  | .tdeal a e g => [word (put g 0 (put e 4 (put a 16 0xEC000200)))]
  | .permit a e g => [word (put g 0 (put e 4 (put a 16 0xEC000300)))]
  | .pklook d a b g => [word (put g 0 (put b 11 (put a 16 (put d 21 0xEC000400))))]
  | .pkres d a b g => [word (put g 0 (put b 11 (put a 16 (put d 21 0xEC000500))))]
  | .pkscore d a b g => [word (put g 0 (put b 11 (put a 16 (put d 21 0xEC000600))))]
  | .pkgw d a b g => [word (put g 0 (put b 11 (put a 16 (put d 21 0xEC000700))))]
  | .srd d n m g => [word (put g 0 (put m 4 (put n 11 (put d 21 0xF0000000))))]
  | .swr a n m g => [word (put g 0 (put m 4 (put n 11 (put a 16 0xF0000100))))]
  | .trap a g => [word (put g 0 (put a 16 0xF0000200))]
  | .eret a b g => [word (put g 0 (put b 11 (put a 16 0xF0000300)))]
  | .tlbwWrite d a b g => [word (put g 0 (put b 11 (put a 16 (put d 21 0xF4000000))))]
  | .tlbwAbsent d a b g => [word (put g 0 (put b 11 (put a 16 (put d 21 0xF4000010))))]
  | .tlbwDeny d a b g => [word (put g 0 (put b 11 (put a 16 (put d 21 0xF4000020))))]
  | .tlbiPage a g => [word (put g 0 (put a 16 0xF4000100))]
  | .tlbiAsid a g => [word (put g 0 (put a 16 0xF4000110))]
  | .tlbiAll a g => [word (put g 0 (put a 16 0xF4000120))]
  | .tlbp d a b g => [word (put g 0 (put b 11 (put a 16 (put d 21 0xF4000200))))]
  | .idle a g => [word (put g 0 (put a 16 0xF4000300))]
  | .wfm d a g => [word (put g 0 (put a 16 (put d 21 0xF4000400)))]
  | .haltcFence a g => [word (put g 0 (put a 16 0xF4000500))]
  | .haltcUnfence a g => [word (put g 0 (put a 16 0xF4000510))]
  | .selft d a g => [word (put g 0 (put a 16 (put d 21 0xF4000600)))]
  | .mailboxDelivery _ => []
  | .sendFullRetry _ => []
  | .agentImageRetry _ => []
  | .imageAgePromotion _ => []
  | .imageBind _ => []
  | .urgentBind _ => []
  | .handlerStart _ => []
  | .issueSelect _ => []
  | .urgentWindowClose _ => []
  | .yieldTimeout _ => []
  | .stealProbe _ => []
  | .stealGrant _ => []
  | .stealBackoffExpiry _ => []
  | .parkTimeout _ => []
  | .wqRsv _ _ => []
  | .wqSlotWrite _ _ _ _ => []
  | .wqReservationTimeout _ _ => []
  | .rootAdmission _ => []
  | .rootAdmitRetry _ => []
  | .cancelAnswer _ _ => []
  | .cancelMarkArrival _ _ => []
  | .sliceEnd => []
  | .sliceStart => []
  | .watchdog _ => []
  | .errorDetect _ _ _ => []
  | .completionDelivery _ => []
  | .waitmReread _ => []
  | .remoteAnswer _ _ _ _ => []
  | .rnrResend _ => []
  | .remoteAgentRequest _ => []
  | .pkluAdmission _ => []
  | .pkluSelectionDone _ _ => []
  | .pkluFetchIssue _ => []
  | .pkluRowArrival _ _ _ => []
  | .streamFetchArrival _ _ => []
  | .matrixCommandExecute _ => []
  | .rmmaRingStep _ => []
  | .engineCommandAccept _ _ => []
  | .permitMessage _ _ => []
  | .engineTileWrite _ _ => []
  | .lapBoundary _ _ => []
  | .sweepRowVisit _ _ => []
  | .whirligigRequestArrival _ => []
  | .whirligigRetag _ => []
  | .readReply _ => []
  | .updateAcknowledgement _ => []
  | .createRegion _ _ _ => []
  | .destroyRegion _ _ _ _ => []
  | .chooseDestinationTsc _ _ _ => []
  | .gatewayOutgoing _ => []
  | .portHoldTimeout _ => []
  | .gatewayArrival _ _ => []
  | .dieLinkFailure _ => []
  | .flitTransmit _ => []
  | .flitReceive _ _ _ _ => []
  | .idleFlit _ => []
  | .replayRetry _ => []
  | .trainingComplete _ _ _ _ _ => []
  | .trainingTimeout _ => []
  | .portRetry _ => []
  | .switch _ => []
  | .retrain _ => []
  | .clrerr _ => []
  | .disable _ _ => []
  | .ksCtlReady _ _ => []
  | .ksCtlEmpty _ _ => []
  | .werrClear _ => []
  | .registerWrite _ _ _ _ => []
  | .hostMemoryAccess _ _ _ _ => []
  | .graphsub _ _ => []
  | .phasectl _ _ => []
  | .phaseAllreduceDone _ => []
  | .cancelw _ _ => []
  | .prresp _ _ => []
  | .slicereq _ => []
  | .attreq _ => []
  | .attestationReportDone => []
  | .wqcfg _ _ => []
  | .hrcfg _ _ _ => []
  | .syncMessage _ _ => []
  | .syncTimeout => []
  | .healthSelftest _ _ => []
  | .eolUpdate => []
  | .powerGood _ _ => []
  | .smbusStatusRead => []
  | .localAccessCompletion _ _ _ => []
  | .idleWfmTimeout _ => []
  | .correctableError _ => []
  | .backInvalidateComplete _ => []
  | .selftResult _ _ => []
  | .externalSourceLock _ _ => []

end Sys2Proof
end

