-- ==== Sys2Proof/Machine/Fetch.lean ====
section
/-! DEFINITION. The fetch of the issuing slot (R79, R86, R301, R307, R312 checks): what it finds at its PC, and the turn
of the agenda that lets time pass (log 1). -/

namespace Sys2Proof.Machine

/-- The word at an address, by the issuing slot's translation; its faults carry the fetch address (R307, R321). In the range that
holds region rows it is free, and the access leaves its traces there (R428). -/
def State.fetchWord (s : State) (va : W64) : Res (W32 × State) :=
  if addrFault va 4 then .error (.trap .addr va)
  else match s.reach .fetch va 4 with
    | .error e => .error e
    | .ok (.held pa) => .ok (BitVec.ofNat 32 (s.heldAccess pa).1, (s.heldAccess pa).2)
    | .ok p => .ok (BitVec.ofNat 32 (s.readPlace s.clusterNo (s.coreAt s.core).stale 0 p 4).1, s)

/-- R79: the word at the PC and, for a long form, the word after it. Both are fetched before either is decoded, so a fault
of the second fetch comes before ILLEGAL (log 84). -/
def State.fetchWords (s : State) : Res (W32 × W32 × State) :=
  (s.fetchWord s.pc).bind (fun w =>
    if isLong w.1.toNat then (w.2.fetchWord (s.pc + 4)).bind (fun v => .ok (w.1, v.1, v.2)) else .ok (w.1, 0, w.2))

/-- R302: the entries the fetch used become the most recently used. -/
def State.fetchTouch (s : State) (w : W32) : State :=
  let s1 := s.touchTlb s.core s.slot.job s.pc
  if isLong w.toNat then s1.touchTlb s1.core s1.slot.job (s.pc + 4) else s1

/-- R132: the issuing slot leaves the sets that yielding slots of its core wait for. -/
def yieldPast (sid : Nat) (t : Slot) : Slot :=
  match t.yielding with
  | none => t
  | some (l, since) =>
    let l := l.filter (· != sid)
    { t with yielding := if l = [] then none else some (l, since) }

def State.issued (s : State) : State :=
  { s with slots := s.slots.map (fun e => if sidCore e.1 = s.core then (e.1, yieldPast s.cur e.2) else e) }

/-- What the fetch of an issue turn finds: an instruction for `exec`, or a state that is the whole turn. -/
inductive Fetched
  | instr (i : Instr) (s : State)
  | turn (s : State)

/-- The fetch of the issuing slot: a slot that is not ready issues nothing; a trap that waits for it is taken; a fetch
fault, a miss or an undecodable word (R86 step 1) is the slot's turn. -/
def State.fetch (s : State) : Fetched :=
  if s.slot.ready then
    match s.slot.forced with
    | some (c, v) => .turn (s.takeTrap s.cur c v)
    | none => match s.regainEngines with
      | .error e => .turn ((s.modCore s.core CoreSt.unissue).stop e)
      | .ok s1 => match s1.fetchWords with
        | .error e => .turn (s1.stop e)
        | .ok (w, v, s2) =>
          let s' := { s2.fetchTouch w with ir := w, ir2 := v }
          match decode w v with
          | some i => .instr i s'.issued
          | none => .turn (s'.issued.takeTrap s.cur .illegal s'.irVal)
  else .turn s

/-- Time passes: `cc` cycles, and `ticks` of every GTS copy (R416); at the end of the cycle the thefts are decided that an owner's
take of the cycle could precede (R67), and the counts of R68 see it. -/
def State.pass (s : State) (cc ticks : Nat) : State :=
  let s := if cc = 0 then s else s.settleSteals.notePark
  { s with cyc := s.cyc + cc, gts := s.gts.map (· + ticks) }

/-- The page at which `withFetchWord` places an instruction. -/
def fetchBase : Nat := 0x10000

/-- An image whose handler is that page: committed, class 0, no launch. -/
def fetchImage : Image := { Image.none with w0 := BitVec.ofNat 64 fetchBase }

/-- A leaf for that page: LOCAL, read, write and fetch. -/
def fetchLeaf (asid : Nat) : TlbEntry := ⟨BitVec.ofNat 64 (2 ^ 62 + fetchBase + asid), BitVec.ofNat 64 (fetchBase + 0x700), 0⟩

/-- A worker slot, the next one of its core to issue, holds a started, committed task whose PC names that page, its core's TLB
maps the page, and memory holds the words there (log 20). -/
def State.placeWords (s : State) (bytes : Nat) : State :=
  let s := { s with
    agenda := [], cur := 0
    mem := memWrite s.mem fetchBase 8 (ones 8) bytes
    hostHeld := s.hostHeld.filter (· != fetchBase / 64) }
  let s := s.setSlot 0 (Slot.start fetchImage 1)
  let s := s.modCluster 0 (fun c => { c with lines := tdel c.lines (fetchBase / 64) })
  let s := s.setSlot 4 Slot.reset
  s.modCore 0 (fun c => { c with tlb := tlbInsert 16 64 c.tlb (fetchLeaf (s.asid 0)), lastIssued := 3 })

end Sys2Proof.Machine
end

