-- ==== Sys2Proof/Machine/Inputs.lean ====
section
/-! DEFINITION. What reaches the package, or happens inside it, without a row of its own in the opcode table (log 81): work counts
(R45), CNTADD and CANCEL of other packages (R46, R47), the host's reads of control pages and configuration (R408 to R410), errors
(R324, R374), other packages' parts in regions and migrations (R235, R312, R314), what engines and the lookup unit may do early
(R138, R231), sync messages (R416), and bring-up (R426). -/

namespace Sys2Proof.Machine

/-- R408: what a read of a function's control page gives: the read-only and read-write registers, and 0 elsewhere. -/
def State.pageValue (s : State) (fn off : Nat) : W64 :=
  let f := s.fnAt fn
  match off with
  | 0x000 => BitVec.ofNat 64 (s.health.step * 2 ^ 56 + s.health.errCode * 2 ^ 48 + fn)
  | 0x028 => f.prbase
  | 0x030 => f.prcfg
  | 0x038 => f.prhead
  | 0x040 => BitVec.ofNat 64 f.prtail
  | 0x048 => s.gtsWord
  | 0x050 => s.health.eolhrs.setWidth 64
  | 0x110 => if fn = 127 then BitVec.ofNat 64 s.host.attstat else 0
  | _ => 0

/-- R312: the requests of other packages that wait for the walk of a page find no LOCAL leaf. -/
def State.foreignLeaf (s : State) (die : Nat) (job : W32) (vpn : Nat) : State :=
  let mine := fun (w : Walk) => w.tsc == die * 32 + (s.dieAt die).destTsc && w.job == job && w.vpn == vpn
  let gone := (s.walks.filter mine).flatMap (fun w => (w.waiters.filter (fun x => x.1 == 63)).map (fun x => (job, x.2)))
  ({ s with walks := s.walks.filterMap (fun w =>
      if mine w then
        let l := w.waiters.filter (fun x => x.1 != 63)
        if l = [] then none else some { w with waiters := l }
      else some w) } : State).modDie die (fun d => { d with unsup := d.unsup ++ gone })

/-- R314: a forwarding record begins or ends. -/
def State.forwardTo (s : State) (f : Forward) (on : Bool) : State :=
  let l := s.fabric.forwards.filter (fun x => !(x.job == f.job && x.size == f.size && x.base == f.base))
  { s with fabric := { s.fabric with forwards := if on then l ++ [f] else l } }

/-- R426 step 4: a link that failed is rerouted, its D2DBAD bit set, and it is to be tested (R336, R402, R421). -/
def State.diesUp (s : State) (failed : BitVec 6) : State :=
  if s.health.step = 4 then ({ s with
    fabric := { s.fabric with d2dFailed := s.fabric.d2dFailed ||| failed }
    health := { s.health with step := 5, hlthst := s.health.hlthst ||| BitVec.ofNat 64 (failed.toNat * 2 ^ 34) } } : State).addTodo
      (((List.range 6).filter (fun k => failed.getLsbD k)).map (fun k => BitVec.ofNat 64 (5 * 2 ^ 56 + k)))
  else s

/-- R426 step 5: the ports train once the host link is up. -/
def State.hostUp (s : State) : State :=
  if s.health.step = 5 then
    (List.range 18).foldl (fun s n => s.portLeaves n .training) { s with health := { s.health with step := 6, entered := s.gtsOf 0 } }
  else s

/-- R47: what a CANCEL of another package covers here: for a worker's task its own job's work of the name, for a service core every
job's. -/
def State.cancelFrom (s : State) (name : W64) (job : Option W32) : State :=
  if bitsAt name.toNat 32 30 ≠ 0 then s
  else if targetKind name = 3 then (if job.isNone then s.cancelOf name (name.setWidth 32) else s)
  else s.cancelName name (fun j => job.all (· == j))

/-- R410: a word of HRCFG as the host reads it. -/
def Ring.word (g : Ring) (k : Nat) : W64 :=
  match k with
  | 0 => g.base
  | 1 => g.cfg
  | 2 => BitVec.ofNat 64 g.tail
  | 3 => BitVec.ofNat 64 g.head
  | _ => 0

/-- An input acts. -/
def State.input (s : State) : Input → State
  | .count l up => if up then s.countUp l 1 else s.countDown l 1
  | .cntadd l x => if (tfind s.launches l.toNat).any (fun v => v.work != 0) then
      (s.modLaunch l (fun v => { v with counter := v.counter + x })).completeLaunch l else s
  | .cancel name job => s.cancelFrom name job
  | .wqRead q => if s.health.step < 5 then s else s.hostReply [(s.queue q).cfg]
  | .ringRead r word => if s.health.step < 5 then s else s.hostReply [(s.ring r).word word]
  | .pageRead fn off => if s.health.step < 5 ∨ (64 ≤ fn ∧ fn ≠ 127) then s else s.hostReply [s.pageValue fn off]
  | .poison line => if s.poison.contains line || decide (scratchBase 8192 ≤ 64 * line) then s else { s with poison := s.poison ++ [line] }
  | .peerCheck c => { s with health := { s.health with peers := if 2 ≤ c ∧ c ≤ 7 ∧ c ≠ 5 then c else 0 } }
  | .forward f on => s.forwardTo f on
  | .foreignLeaf die job vpn => s.foreignLeaf die job vpn
  | .fetchAhead cl e id n => s.fetchAhead cl e id n
  | .partialSum cl id => s.partialSum cl id
  | .syncSent n => if (s.port n).st = .up then
      { s with health := { s.health with syncSent := s.health.syncSent ++ [(n, s.gtsOf (portDie n))] } } else s
  | .diesUp failed => s.diesUp failed
  | .hostUp => s.hostUp

end Sys2Proof.Machine
end

