-- ==== Sys2Proof/Machine/Step.lean ====
section
/-! DEFINITION. One step of the package: the next turn of the agenda (log 1). -/

namespace Sys2Proof.Machine

/-- The issue turn of the core of the slot `cur`: its choice issues (R62); where no thread is ready, only the turn passes. -/
def issueTurn (s : State) : Host.Outcome State Fault Refusal :=
  match s.choice s.core with
  | none => .next { s with idle := s.idle + 1 }
  | some sid => match (s.issueFrom sid).fetch with
    | .instr i s' => exec i s'
    | .turn s' => .next s'

/-- One step. The stamp of the step rises, then the first turn of the agenda is taken; with none left, the core of the slot `cur`
issues. -/
def step (s : State) : Host.Outcome State Fault Refusal :=
  let s := { s with tick := s.tick + 1 }
  match s.agenda with
  | [] => issueTurn s
  | .issue :: r => issueTurn { s with agenda := r }
  | .event i :: r => if i.isEvent then exec i { s with agenda := r } else .fault .agendaNotEvent
  | .input x :: r => .next ({ s with agenda := r }.input x)
  | .pass cc ticks :: r => .next ({ s with agenda := r }.pass cc ticks)

/-- The state in which `step` fetches the instruction whose bits are `w`, the first word lowest. -/
def State.withFetchWord (s : State) (nbits w : Nat) : State := s.placeWords (w % 2 ^ nbits)

end Sys2Proof.Machine
end

