-- ==== Sys2Proof/Safety.lean ====
section
/-! DEFINITION. The terms claims use: what a safe run is (the model stops nowhere; it stops only where the agenda names a
fetched instruction as an event), the registers of a slot as software names them, and what it means that an instruction
retires with given registers and changes nothing else. -/

namespace Sys2Proof

/-- Every event of the agenda is an operation or event of the opcode table. -/
def AgendaOk (s : Machine.State) : Prop := ∀ i, Machine.Turn.event i ∈ s.agenda → i.isEvent = true

/-- The step goes on. -/
def Goes (s : Machine.State) : Prop := ∃ t, Machine.step s = .next t

namespace Machine

/-- `f` with the value at `k` replaced. -/
def upd {n : Nat} {α : Type} (f : BitVec n → α) (k : BitVec n) (v : α) : BitVec n → α := fun r => if r = k then v else f r

/-- The x registers after a write of `v` to `d`: x0 discards it (R73). -/
def updX (f : BitVec 5 → W64) (d : BitVec 5) (v : W64) : BitVec 5 → W64 := if d = 0 then f else upd f d v

/-- The predicates after a write of `v` to `d`: p7 discards it (R73). -/
def updP (f : BitVec 3 → BitVec 16) (d : BitVec 3) (v : BitVec 16) : BitVec 3 → BitVec 16 := if d = 7 then f else upd f d v

/-- The registers of a slot as software reads them (R73, R77). -/
structure Regs where
  x : BitVec 5 → W64
  p : BitVec 3 → BitVec 16
  v : BitVec 5 → Vec
  e : BitVec 3 → W32
  z : BitVec 3 → Stream
  fsr : W32
  fen : W32
  prio : BitVec 2
  rnrlim : BitVec 4

def Slot.view (t : Slot) : Regs where
  x := t.getX
  p := t.getP
  v := RegFile.read t.v
  e := RegFile.read t.e
  z := RegFile.read t.z
  fsr := t.fsr
  fen := t.fen
  prio := t.prio
  rnrlim := t.rnrlim

/-- The registers of the issuing slot. -/
def State.view (s : State) : Regs := s.slot.view

/-- `b` differs from `a` in its registers and their dirty bits alone. -/
def Slot.OnlyRegs (a b : Slot) : Prop :=
  b = { a with x := b.x, v := b.v, p := b.p, e := b.e, z := b.z, fsr := b.fsr, fen := b.fen, prio := b.prio
               rnrlim := b.rnrlim, dirty := b.dirty }

/-- The instruction of the issuing slot retires from `s` to `t`: the thread goes on at `next` with the registers `r` and its
wait is over; every other part of its slot, every other slot, every byte of memory and every other part of the package is
as in `s`, but for the urgent window of its core, in which a retirement counts (R64). -/
structure RetiredAt (s t : State) (next : W64) (r : Regs) : Prop where
  regs : t.view = r
  pc : t.pc = next
  ended : t.slot.wait = none ∧ t.slot.pend = none ∧ t.slot.deny = [] ∧ t.slot.drain = []
  slot : Slot.OnlyRegs { s.slot with pc := next, wait := none, pend := none, deny := [], drain := [] } t.slot
  slots : ∀ k, k ≠ s.cur → t.slotAt k = s.slotAt k
  core : t.coreAt s.core = { s.coreAt s.core with
    opener := (t.coreAt s.core).opener, retired := (t.coreAt s.core).retired, heldHeads := (t.coreAt s.core).heldHeads
    opened := (t.coreAt s.core).opened, closedAt := (t.coreAt s.core).closedAt }
  cores : ∀ c, c ≠ s.core → t.coreAt c = s.coreAt c
  mem : ∀ a, memGet t.mem a = memGet s.mem a
  rest : t = { s with slots := t.slots, cores := t.cores }

/-- The same for an instruction of `len` bytes that goes on to the next one (R79). -/
def Retired (s t : State) (len : Nat) (r : Regs) : Prop := RetiredAt s t (s.pc + BitVec.ofNat 64 len) r

/-- The instruction completes: `exec` answers a next state in which it has retired with the registers `r`. -/
def Completes (i : Instr) (s : State) (len : Nat) (r : Regs) : Prop := ∃ t, exec i s = .next t ∧ Retired s t len r

/-- The instruction completes after a change of the package from `s` to `s'`: it retires from `s'`. -/
def CompletesFrom (i : Instr) (s s' : State) (len : Nat) (r : Regs) : Prop := ∃ t, exec i s = .next t ∧ Retired s' t len r

/-- The instruction completes and the thread goes on at `next`. -/
def CompletesAt (i : Instr) (s : State) (next : W64) (r : Regs) : Prop := ∃ t, exec i s = .next t ∧ RetiredAt s t next r

/-- The instruction takes the trap of a cause with a TRAPVAL at its own PC (R321, R322). -/
def Traps (i : Instr) (s : State) (c : Cause) (v : W64) : Prop := exec i s = .next (s.takeTrap s.cur c v)

/-- The trap of an enabled floating-point event: the raised flags stand in FSR and are the TRAPVAL (R109, R150). -/
def TrapsFp (i : Instr) (s : State) (fl : Flags) : Prop :=
  exec i s = .next ((s.mod (fun t => { t with
    fsr := t.fsr ||| fl.setWidth 32, dirty := { t.dirty with x := setBit t.dirty.x 0 } })).takeTrap s.cur .fp (fl.setWidth 64))

/-- `t` differs from `s` in memory, in the lines of the issuing cluster's cache, in host-held lines whose back-invalidate an
eviction completed (R406), and in cores by TLB use stamps and stale marks alone (R222 to R224, R302). -/
structure OnlyMemory (s t : State) : Prop where
  rest : t = { s with mem := t.mem, clusters := t.clusters, cores := t.cores, hostHeld := t.hostHeld }
  held : ∀ l ∈ t.hostHeld, l ∈ s.hostHeld
  cluster : t.clusterAt s.clusterNo = { s.clusterAt s.clusterNo with lines := (t.clusterAt s.clusterNo).lines }
  clusters : ∀ c, c ≠ s.clusterNo → t.clusterAt c = s.clusterAt c
  core : ∀ c, t.coreAt c = { s.coreAt c with tlb := (t.coreAt c).tlb, stale := (t.coreAt c).stale }
  tlb : ∀ c, (t.coreAt c).tlb.map (fun e => (e.tag, e.word)) = (s.coreAt c).tlb.map (fun e => (e.tag, e.word))

/-- R211: the package as an acquiring access leaves the slot's streams: what they fetched ahead is dropped. -/
def State.refetch (s : State) (ord : Nat) : State := if ordAcq ord then s.dropAhead s.cur else s

/-- The dirty byte a cluster's cache holds of an address, if it does (R222). -/
def State.dirtyByte (s : State) (cl a : Nat) : Option Byte :=
  match tfind (s.clusterAt cl).lines (a / 64) with
  | none => none
  | some e => if e.dirty.getLsbD (a % 64) then some (e.line.extractLsb' (8 * (a % 64)) 8) else none

/-- The place lies on this package, in a scratchpad or HBM. -/
def Place.here : Place → Bool
  | .scratch _ _ => true
  | .hbm _ _ => true
  | _ => false

/-- Byte `k` of a place as the last store of the issuing cluster left it: dirty in its cache, or in memory. -/
def State.byteAt (s : State) (p : Place) (k : Nat) : Byte :=
  match p with
  | .hbm pa false => (s.dirtyByte s.clusterNo (pa + k)).getD (memGet s.mem (pa + k))
  | p => memGet s.mem (p.flat + k)

/-- The byte of an address as the last store of a cluster left it. -/
def State.seenByte (s : State) (cl a : Nat) : Byte := (s.dirtyByte cl a).getD (memGet s.mem a)

/-- Byte `k` of a place as a cached load of the issuing slot reads it (R223, R224): a dirty byte of the line; a clean byte
filled no earlier than the core's stale mark; memory otherwise. -/
def State.loadByte (s : State) (p : Place) (k : Nat) : Byte :=
  match p with
  | .hbm pa false =>
    match tfind (s.clusterAt s.clusterNo).lines ((pa + k) / 64) with
    | none => memGet s.mem (pa + k)
    | some e =>
      if e.dirty.getLsbD ((pa + k) % 64) || (match e.filled with
          | some t => decide ((s.coreAt s.core).stale ≤ t)
          | none => false) then e.line.extractLsb' (8 * ((pa + k) % 64)) 8
      else memGet s.mem (pa + k)
  | p => memGet s.mem (p.flat + k)

/-- Every byte of memory outside the `n` bytes from `a` up reads in `t` as in `s`, or as a byte that was dirty in the issuing
cluster's cache and has been written back (R222, R224). -/
def MemoryFrame (s t : State) (a n : Nat) : Prop :=
  ∀ j, j < a ∨ a + n ≤ j → memGet t.mem j = memGet s.mem j ∨ s.dirtyByte s.clusterNo j = some (memGet t.mem j)

/-- The streams after an instruction that reads the vector registers `l`: each bound one that has not ended gives one
element, named once or often (R209). -/
def State.zAfter (s : State) (l : List (BitVec 5)) : BitVec 3 → Stream := fun k =>
  let z := RegFile.read s.slot.z k
  if l.any (fun r => s.slot.boundTo r == some k) && !z.ended then z.pop else z

/-- Every bound register of the list has its next element, without a fault and on no page refused to the task, or has ended (R209,
R210, R311). -/
def State.ElemsReady (s : State) (l : List (BitVec 5)) : Prop :=
  ∀ r ∈ l, ∀ k, s.slot.boundTo r = some k →
    (RegFile.read s.slot.z k).ended = true ∨ ((RegFile.read s.slot.z k).buf.head?.map (·.fault)) = some none ∧
      ∀ a, (RegFile.read s.slot.z k).headVa = some a → vpnOf a ∉ s.slot.deny

/-- None of the registers is bound (R86 step 3). -/
def State.Unbound (s : State) (l : List (BitVec 5)) : Prop := ∀ r ∈ l, s.slot.isBound r = false

end Machine
end Sys2Proof
end

