-- ==== Sys2Proof/Certificates/Slice0/Obligations.lean ====
section
/-! DEFINITION. The statements for the provers. -/

open Sys2Proof Sys2Proof.Machine

/-! ### Integer arithmetic and logic -/

/-- R98: the W-bit result widened to 64 bits, by its sign when n = 0 and by zeros when n = 1. -/
def Sys2Proof.Machine.widened (n : BitVec 1) {W : Nat} (r : BitVec W) : W64 :=
  if n = 0 then r.signExtend 64 else r.setWidth 64

/-- The instruction completes in 4 bytes and writes X[d]; nothing else changes. -/
def Sys2Proof.Machine.GivesX (i : Instr) (s : State) (d : BitVec 5) (v : W64) : Prop :=
  Completes i s 4 { s.view with x := updX s.x d v }

/-- R98, R99: every ALU and MULDIV instruction whose guard bit is 1 completes, writes the widened W-bit result of the table
to X[d] (x0 discards it) and changes no other register, no flag and no memory. -/
def Obligations.IntegerResults : Prop :=
  ∀ (s : State) (d a b : BitVec 5) (w : BitVec 2) (n : BitVec 1) (g : BitVec 4), s.runs g = true →
    let W := opWidth w
    let A : BitVec W := (s.x a).setWidth W
    let B : BitVec W := (s.x b).setWidth W
    let out := fun (i : Instr) (r : BitVec W) => GivesX i s d (widened n r)
    out (.add d a b w n g) (A + B) ∧
    out (.sub d a b w n g) (A - B) ∧
    out (.and d a b w n g) (A &&& B) ∧
    out (.or d a b w n g) (A ||| B) ∧
    out (.xor d a b w n g) (A ^^^ B) ∧
    out (.andn d a b w n g) (A &&& ~~~B) ∧
    out (.shl d a b w n g) (A <<< (B.toNat % W)) ∧
    out (.shr d a b w n g) (A >>> (B.toNat % W)) ∧
    out (.sra d a b w n g) (A.sshiftRight (B.toNat % W)) ∧
    out (.rol d a b w n g) (A <<< (B.toNat % W) ||| A >>> (W - B.toNat % W)) ∧
    out (.min d a b w n g) (BitVec.ofInt W (min A.toInt B.toInt)) ∧
    out (.max d a b w n g) (BitVec.ofInt W (max A.toInt B.toInt)) ∧
    out (.minn d a b w n g) (BitVec.ofNat W (min A.toNat B.toNat)) ∧
    out (.maxn d a b w n g) (BitVec.ofNat W (max A.toNat B.toNat)) ∧
    (∃ c : Nat, out (.clz d a w n g) (BitVec.ofNat W c) ∧ c ≤ W ∧ (∀ i, W - c ≤ i → i < W → A.getLsbD i = false) ∧
      (c < W → A.getLsbD (W - 1 - c) = true)) ∧
    (∃ c : Nat, out (.ctz d a w n g) (BitVec.ofNat W c) ∧ c ≤ W ∧ (∀ i, i < c → A.getLsbD i = false) ∧
      (c < W → A.getLsbD c = true)) ∧
    out (.mul d a b w n g) (BitVec.ofNat W (A.toNat * B.toNat)) ∧
    out (.mulh d a b w n g) (BitVec.ofInt W (A.toInt * B.toInt / 2 ^ W)) ∧
    out (.mulhn d a b w n g) (BitVec.ofNat W (A.toNat * B.toNat / 2 ^ W)) ∧
    out (.div d a b w n g) (if B = 0 then BitVec.allOnes W else BitVec.ofInt W (A.toInt.tdiv B.toInt)) ∧
    out (.divn d a b w n g) (if B = 0 then BitVec.allOnes W else BitVec.ofNat W (A.toNat / B.toNat)) ∧
    out (.rem d a b w n g) (if B = 0 then A else BitVec.ofInt W (A.toInt.tmod B.toInt)) ∧
    out (.remn d a b w n g) (if B = 0 then A else BitVec.ofNat W (A.toNat % B.toNat)) ∧
    out (.popc d a w n g) (BitVec.ofNat W ((List.range W).filter (fun i => A.getLsbD i)).length) ∧
    (∃ r, out (.bswap d a w n g) r ∧ ∀ k, k < W / 8 → r.extractLsb' (8 * k) 8 = A.extractLsb' (W - 8 - 8 * k) 8)

/-- R100: the immediate forms, at 64 bits.
R101: bit fields. EXTF and the extensions read W bits from `pos` up; INSF replaces them and keeps the others. -/
def Obligations.ImmediateAndFieldResults : Prop :=
  (∀ (s : State) (d a : BitVec 5) (i12 : BitVec 12) (i10 : BitVec 10) (sh : BitVec 6) (i17 : BitVec 17) (g : BitVec 4),
     s.runs g = true →
     GivesX (.addi d a i12 g) s d (BitVec.ofInt 64 ((s.x a).toInt + i12.toInt)) ∧
     GivesX (.andi d a i10 g) s d (s.x a &&& i10.setWidth 64) ∧
     GivesX (.ori d a i10 g) s d (s.x a ||| i10.setWidth 64) ∧
     GivesX (.xori d a i10 g) s d (s.x a ^^^ i10.setWidth 64) ∧
     GivesX (.shli d a sh g) s d (BitVec.ofNat 64 ((s.x a).toNat * 2 ^ sh.toNat)) ∧
     GivesX (.shri d a sh g) s d (BitVec.ofNat 64 ((s.x a).toNat / 2 ^ sh.toNat)) ∧
     GivesX (.srai d a sh g) s d (BitVec.ofInt 64 ((s.x a).toInt / 2 ^ sh.toNat)) ∧
     GivesX (.liu d i17 g) s d (BitVec.ofInt 64 (i17.toInt * 2 ^ 15)) ∧
     GivesX (.addpc d i17 g) s d (BitVec.ofInt 64 (s.pc.toInt + i17.toInt * 4))) ∧
  (∀ (s : State) (d a : BitVec 5) (w : BitVec 2) (n : BitVec 1) (pos : BitVec 6) (g : BitVec 4), s.runs g = true →
     let W := opWidth w
     GivesX (.extf d a w n pos g) s d (widened n (BitVec.ofNat W ((s.x a).toNat / 2 ^ pos.toNat))) ∧
     (∃ r : W64, GivesX (.insf d a w n pos g) s d r ∧ ∀ i, i < 64 →
       r.getLsbD i = if pos.toNat ≤ i ∧ i < pos.toNat + W then (s.x a).getLsbD (i - pos.toNat) else (s.x d).getLsbD i) ∧
     GivesX (.sext d a w g) s d (((s.x a).setWidth W).signExtend 64) ∧
     GivesX (.zext d a w g) s d (((s.x a).setWidth W).setWidth 64))

/-! ### Compare, predicates and select -/

/-- The conditions 0 to 5 of R88 on two integers. -/
def Sys2Proof.Machine.holdsFor (c : BitVec 3) (x y : Int) : Bool :=
  match c.toNat with
  | 0 => decide (x = y)
  | 1 => decide (x ≠ y)
  | 2 => decide (x < y)
  | 3 => decide (x ≤ y)
  | 4 => decide (x > y)
  | _ => decide (x ≥ y)

/-- The instruction completes in 4 bytes and writes P[d]; nothing else changes. -/
def Sys2Proof.Machine.GivesP (i : Instr) (s : State) (d : BitVec 3) (v : BitVec 16) : Prop :=
  Completes i s 4 { s.view with p := updP s.p d v }

/-- R102: CMP and CMPI write the comparison, signed when n = 0 and unsigned when n = 1, into all sixteen bits.
R84, R103: a lane-guarded predicate instruction writes the bits whose guard bit is set and keeps the others, whatever
its guard; SEL and PMOVX write X[d] when their guard bit is 1. -/
def Obligations.CompareAndPredicateResults : Prop :=
  (∀ (s : State) (p : BitVec 3) (a b : BitVec 5) (w : BitVec 2) (n : BitVec 1) (c : BitVec 3) (i9 : BitVec 9) (g : BitVec 4),
     s.runs g = true → c.toNat < 6 →
     let W := opWidth w
     let A : BitVec W := (s.x a).setWidth W
     let B : BitVec W := (s.x b).setWidth W
     let I : W64 := i9.signExtend 64
     GivesP (.cmp p a b w n c g) s p (BitVec.fill 16 (if n = 0 then holdsFor c A.toInt B.toInt else holdsFor c A.toNat B.toNat)) ∧
     GivesP (.cmpi n p a c i9 g) s p
       (BitVec.fill 16 (if n = 0 then holdsFor c (s.x a).toInt I.toInt else holdsFor c (s.x a).toNat I.toNat))) ∧
  (∀ (s : State) (d a b q : BitVec 3) (xd xa xb : BitVec 5) (g : BitVec 4),
     let lanes := fun (i : Instr) (f : Nat → Bool) => ∃ v : BitVec 16, GivesP i s d v ∧
       ∀ k, k < 16 → v.getLsbD k = if (s.guard g).getLsbD k then f k else (s.p d).getLsbD k
     lanes (.pand d a b g) (fun k => (s.p a).getLsbD k && (s.p b).getLsbD k) ∧
     lanes (.por d a b g) (fun k => (s.p a).getLsbD k || (s.p b).getLsbD k) ∧
     lanes (.pxor d a b g) (fun k => xor ((s.p a).getLsbD k) ((s.p b).getLsbD k)) ∧
     lanes (.pnot d a g) (fun k => !(s.p a).getLsbD k) ∧
     lanes (.xmovp d xa g) (fun k => (s.x xa).getLsbD k) ∧
     (s.runs g = true → GivesX (.sel xd xa xb q g) s xd (if (s.p q).getLsbD 0 then s.x xa else s.x xb)) ∧
     (s.runs g = true → GivesX (.pmovx xd a g) s xd ((s.p a).setWidth 64)))

/-! ### Scalar floating point and control flow -/

/-- A scalar floating instruction that gives the bits and flags `r` (R109, R150): with no raised flag enabled it completes
with X[d] and FSR written; otherwise it traps FP and X[d] keeps its value. -/
def Sys2Proof.Machine.FloatX (i : Instr) (s : State) (d : BitVec 5) (r : Nat × Flags) : Prop :=
  (s.fpTraps r.2 = false →
    Completes i s 4 { s.view with x := updX s.x d (BitVec.ofNat 64 r.1), fsr := s.slot.fsr ||| r.2.setWidth 32 }) ∧
  (s.fpTraps r.2 = true → TrapsFp i s r.2)

/-- R104 to R106, R109, R150: the scalar floating instructions, with the model's one rounding (`faddR` and the others) as
the operation of the name, in the mode FSR selects, on the operand values of R74.
R107 to R109: FCMP writes its result into all sixteen bits of a predicate, FCVT the converted value to X[d], unless a
raised flag is enabled: then they trap FP.
The exact rounding functions are the model's reading of R104 to R109 and R150. -/
def Obligations.ScalarFloatResults : Prop :=
  (∀ (s : State) (d a b : BitVec 5) (t : BitVec 3) (g : BitVec 4), s.runs g = true → t.toNat < 2 →
     let f := if t = 0 then fp64 else fp32
     let val := fun (r : BitVec 5) => (s.x r).toNat % (if t = 0 then 2 ^ 64 else 2 ^ 32)
     let X := val a
     let Y := val b
     FloatX (.fadd d a b t g) s d (faddR f s.rm X Y) ∧
     FloatX (.fsub d a b t g) s d (fsubR f s.rm X Y) ∧
     FloatX (.fmul d a b t g) s d (fmulR f s.rm X Y) ∧
     FloatX (.ffma d a b t g) s d (ffmaR f s.rm false false X Y (val d)) ∧
     FloatX (.fdiv d a b t g) s d (fdivR f s.rm (unpack f X) (unpack f Y)) ∧
     FloatX (.fsqrt d a t g) s d (fsqrtR f s.rm (unpack f X)) ∧
     FloatX (.fmin d a b t g) s d (fminmaxR f false X Y) ∧
     FloatX (.fmax d a b t g) s d (fminmaxR f true X Y)) ∧
  (∀ (s : State) (d a b : BitVec 5) (p c src dst : BitVec 3) (t : BitVec 1) (g : BitVec 4), s.runs g = true →
     let f := if t = 0 then fp64 else fp32
     let val := fun (r : BitVec 5) => (s.x r).toNat % (if t = 0 then 2 ^ 64 else 2 ^ 32)
     let r := fcmpR f c.toNat (val a) (val b)
     let v := fcvtResult s.rm src.toNat dst.toNat (s.x a)
     (s.fpTraps r.2 = false →
       Completes (.fcmp t p a b c g) s 4
         { s.view with p := updP s.p p (BitVec.fill 16 r.1), fsr := s.slot.fsr ||| r.2.setWidth 32 }) ∧
     (s.fpTraps r.2 = true → TrapsFp (.fcmp t p a b c g) s r.2) ∧
     FloatX (.fcvt d a src dst g) s d (v.1.toNat, v.2))

/-- R110: branches and calls go on at PC + 4 × offset, JR at X[a], and the calls write x31; a word-misaligned JR traps ALIGN
with X[a]; LIW writes X[d]. -/
def Obligations.ControlFlow : Prop :=
  ∀ (s : State) (d a : BitVec 5) (o : BitVec 22) (imm : BitVec 32) (g : BitVec 4), s.runs g = true →
    let target := fun (k : Int) => BitVec.ofInt 64 (s.pc.toInt + 4 * k)
    CompletesAt (.br o g) s (target o.toInt) s.view ∧
    CompletesAt (.call o g) s (target o.toInt) { s.view with x := updX s.x 31 (s.pc + 4) } ∧
    CompletesAt (.calll g imm) s (target imm.toInt) { s.view with x := updX s.x 31 (s.pc + 8) } ∧
    ((s.x a).toNat % 4 = 0 → CompletesAt (.jr a g) s (s.x a) s.view) ∧
    ((s.x a).toNat % 4 ≠ 0 → Traps (.jr a g) s .align (s.x a)) ∧
    Completes (.liw d g imm) s 8 { s.view with x := updX s.x d (imm.signExtend 64) }

/-! ### Scalar loads and stores -/

/-- A scalar load or store (R111, R112): its register, base register, offset in bytes, size, whether a load sign-extends,
hint, ordering and scope codes, length and guard. -/
structure Sys2Proof.Machine.ScalarAccess where
  load : Bool
  sgn : Bool
  d : BitVec 5
  a : BitVec 5
  off : Int
  size : Nat
  hint : Nat
  ord : Nat
  scope : Nat
  len : Nat
  g : BitVec 4

/-- The operands of LD, LDN and ST, short (.rlx.co.wb, offset in units of the size) and long. -/
def Sys2Proof.Machine.scalarAccess : Instr → Option ScalarAccess
  | .ld d a i w g => some ⟨true, true, d, a, i.toInt * 2 ^ w.toNat, 2 ^ w.toNat, 0, 0, 0, 4, g⟩
  | .ldn d a i w g => some ⟨true, false, d, a, i.toInt * 2 ^ w.toNat, 2 ^ w.toNat, 0, 0, 0, 4, g⟩
  | .st d a i w g => some ⟨false, false, d, a, i.toInt * 2 ^ w.toNat, 2 ^ w.toNat, 0, 0, 0, 4, g⟩
  | .ldLong d a w g sc ord h off => some ⟨true, true, d, a, off.toInt, 2 ^ w.toNat, h.toNat, ord.toNat, sc.toNat, 8, g⟩
  | .ldnLong d a w g sc ord h off => some ⟨true, false, d, a, off.toInt, 2 ^ w.toNat, h.toNat, ord.toNat, sc.toNat, 8, g⟩
  | .stLong d a w g sc ord h off => some ⟨false, false, d, a, off.toInt, 2 ^ w.toNat, h.toNat, ord.toNat, sc.toNat, 8, g⟩
  | _ => none

def Sys2Proof.Machine.ScalarAccess.kind (q : ScalarAccess) : Acc := if q.load then .read else .write

/-- R294: the ordering and scope in force at a place; a TSO page makes a load .acq and a store .rel, at SY. -/
def Sys2Proof.Machine.ScalarAccess.ordAt (q : ScalarAccess) (p : Place) : Nat :=
  if p.tso ∧ q.ord ≠ 4 then (if q.load then 1 else 2) else q.ord
def Sys2Proof.Machine.ScalarAccess.scopeAt (q : ScalarAccess) (p : Place) : Nat := if p.tso then 4 else q.scope

/-- The access is allowed and its exact address is `va` (R112): canonical and inside the implemented space, aligned with an
aligned offset, translated to a place that the host does not hold, its page not refused; what a load reads is correctable (R324);
a release can write back. -/
structure Sys2Proof.Machine.Allowed (s : State) (q : ScalarAccess) (va : W64) (p : Place) : Prop where
  guard : s.runs q.g = true
  exact : (s.x q.a).toNat + q.off = va.toNat
  range : addrFault va q.size = false
  aligned : va.toNat % q.size = 0
  offset : q.off % q.size = 0
  place : s.translate s.core s.slot.job q.kind va q.size = .ok p
  granted : vpnOf va ∉ s.slot.deny
  free : s.hostHolds p q.size = false
  sound : q.load = true → s.spoiled p q.size = false
  release : ordRel (q.ordAt p) = true → s.hostBlocks s.clusterNo (q.scopeAt p) = false

/-- R112, R222 to R224: an allowed scalar load from this package completes. X[d] takes the bytes read, widened by the sign
for LD and by zeros for LDN; the plain short forms read each byte as the issuing core's cluster sees it. Of memory only
dirty bytes of the own cluster's cache change, by write-back; nothing else changes but cache lines, TLB use stamps, and what
the streams had fetched ahead of an acquire (R211). R294: on a TSO page the load acquires at SY. Which line a cluster cache holds
is the model's (log 5), and so is what a load in the range that holds rows leaves in it (log 57). -/
def Obligations.ScalarLoads : Prop :=
  ∀ (i : Instr) (s : State) (q : ScalarAccess) (va : W64) (p : Place), scalarAccess i = some q → q.load = true →
    Memory.wf s.mem = true → Allowed s q va p → p.away = none →
    let r := (s.touchTlb s.core s.slot.job va).readAt p q.size q.hint (q.ordAt p) (q.scopeAt p)
    let v := BitVec.ofNat (8 * q.size) r.1
    CompletesFrom i s r.2 q.len { (s.refetch (q.ordAt p)).view with
      x := updX s.x q.d (if q.sgn then v.signExtend 64 else v.setWidth 64) } ∧
    ((∀ pa, p ≠ .held pa) → OnlyMemory (s.refetch (q.ordAt p)) r.2 ∧ MemoryFrame s r.2 0 0) ∧
    (q.ord = 0 → q.hint = 0 → p.here = true → r.1 = packDigits 8 (s.loadByte p) q.size)

/-- R112, R222 to R224: an allowed scalar store to a scratchpad or HBM of this package completes. The bytes of X[d] stand
at the place the address translates to; every other byte of memory is as before, or a dirty byte of the own cluster's cache
written back; no register changes, but for what the streams had fetched ahead of an acquire (R211).
Which line a cluster cache holds is the model's (log 5). -/
def Obligations.ScalarStores : Prop :=
  ∀ (i : Instr) (s : State) (q : ScalarAccess) (va : W64) (p : Place), scalarAccess i = some q → q.load = false →
    Memory.wf s.mem = true → Allowed s q va p → p.here = true →
    let sA := s.refetch (q.ordAt p)
    ∃ s', CompletesFrom i s s' q.len sA.view ∧ OnlyMemory sA s' ∧ MemoryFrame s s' p.flat q.size ∧
      ∀ k, k < q.size → s'.byteAt p k = (s.x q.d).extractLsb' (8 * k) 8

/-- R112, R303: an access with an address outside the implemented space traps ADDR, then one that is not aligned traps
ALIGN (PERM in the link window, R354), then a translation that fails traps with its cause, each with the address as TRAPVAL; an
absent translation is walked; one whose page was refused to the task traps PERM, absent or not (R311). R321, R324: a load of
an uncorrectable block is MCHECK with the address, its page to be tested (R421).
R114: an allowed access to another package or the host's memory sends one request with the address, the byte mask of
its 64-byte line and, for a store, the data; the thread issues nothing until the answer, and no register has changed. -/
def Obligations.ScalarAccessOutcomes : Prop :=
  (∀ (i : Instr) (s : State) (q : ScalarAccess), scalarAccess i = some q → s.runs q.g = true →
     let A : Int := (s.x q.a).toNat + q.off
     (A < 0 ∨ 2 ^ 64 ≤ A → Traps i s .addr (BitVec.ofInt 64 A)) ∧
     ∀ va : W64, A = va.toNat →
       (addrFault va q.size = true → Traps i s .addr va) ∧
       (addrFault va q.size = false → va.toNat % q.size ≠ 0 → Traps i s (if inLink va then .perm else .align) va) ∧
       (addrFault va q.size = false → va.toNat % q.size = 0 → q.off % q.size = 0 →
         (∀ c, s.translate s.core s.slot.job q.kind va q.size = .fault c → Traps i s c va) ∧
         ((∀ c, s.translate s.core s.slot.job q.kind va q.size ≠ .fault c) → vpnOf va ∈ s.slot.deny →
           Traps i s .perm va) ∧
         (s.translate s.core s.slot.job q.kind va q.size = .miss → s.pageRefused va = false →
           exec i s = .next (s.startMiss s.cur q.kind va)) ∧
         (∀ p, s.translate s.core s.slot.job q.kind va q.size = .ok p → vpnOf va ∉ s.slot.deny →
           s.hostHolds p q.size = false → q.load = true → s.spoiled p q.size = true →
           exec i s = .next ((s.reportPage p).takeTrap s.cur .mcheck va)))) ∧
  (∀ (i : Instr) (s : State) (q : ScalarAccess) (va : W64) (p : Place) (host : Option Nat) (pkg : Nat),
     scalarAccess i = some q → Allowed s q va p → p.away = some (host, pkg) →
     ∃ t r, exec i s = .next t ∧ t.reqs = s.reqs ++ [r] ∧ r.host = host ∧ r.pkg = pkg ∧ r.va = va ∧
       r.sid = s.cur ∧ r.tid = s.slot.tid ∧ r.num = (if q.load then 2 else 3) ∧ r.acq = ordAcq (q.ordAt p) ∧
       (∀ k, k < 64 → r.mask.getLsbD k = decide (va.toNat % 64 ≤ k ∧ k < va.toNat % 64 + q.size)) ∧
       (q.load = false → r.ops = [s.x q.d]) ∧
       t.slot.pend = some (.remote q.len 7 [r.rid] none 0 0xFFFF) ∧ t.view = s.view ∧ t.pc = s.pc ∧
       (ordRel (q.ordAt p) = false → t.mem = s.mem))

/-! ### Atomics -/

/-- An atomic (R115): its operation, destination, address and operand registers, ordering and scope codes and guard. -/
structure Sys2Proof.Machine.Atomic where
  kind : AtomKind
  d : BitVec 5
  a : BitVec 5
  b : BitVec 5
  ord : Nat
  scope : Nat
  g : BitVec 4

def Sys2Proof.Machine.atomicOf : Instr → Option Atomic
  | .aadd d a b o sc g => some ⟨.int .add, d, a, b, o.toNat, sc.toNat, g⟩
  | .aand d a b o sc g => some ⟨.int .and, d, a, b, o.toNat, sc.toNat, g⟩
  | .aor d a b o sc g => some ⟨.int .or, d, a, b, o.toNat, sc.toNat, g⟩
  | .axor d a b o sc g => some ⟨.int .xor, d, a, b, o.toNat, sc.toNat, g⟩
  | .amin d a b o sc g => some ⟨.int .min, d, a, b, o.toNat, sc.toNat, g⟩
  | .amax d a b o sc g => some ⟨.int .max, d, a, b, o.toNat, sc.toNat, g⟩
  | .aminn d a b o sc g => some ⟨.int .minn, d, a, b, o.toNat, sc.toNat, g⟩
  | .amaxn d a b o sc g => some ⟨.int .maxn, d, a, b, o.toNat, sc.toNat, g⟩
  | .aswap d a b o sc g => some ⟨.int .swap, d, a, b, o.toNat, sc.toNat, g⟩
  | .acas d a b o sc g => some ⟨.int .cas, d, a, b, o.toNat, sc.toNat, g⟩
  | .aaddf d a b o sc g => some ⟨.int .addf, d, a, b, o.toNat, sc.toNat, g⟩
  | .afaddF64 d a b o sc g => some ⟨.fadd false, d, a, b, o.toNat, sc.toNat, g⟩
  | .afmaxF64 d a b o sc g => some ⟨.fmax false, d, a, b, o.toNat, sc.toNat, g⟩
  | .afaddF32 d a b o sc g => some ⟨.fadd true, d, a, b, o.toNat, sc.toNat, g⟩
  | .afmaxF32 d a b o sc g => some ⟨.fmax true, d, a, b, o.toNat, sc.toNat, g⟩
  | _ => none

/-- R116, R117: the new value from the old one, the operand X[b] and ACAS's expected value X[d]. -/
def Sys2Proof.Machine.atomicNew (k : AtomKind) (old b d : W64) : W64 :=
  match k with
  | .int .add => old + b
  | .int .addf => old + b
  | .int .and => old &&& b
  | .int .or => old ||| b
  | .int .xor => old ^^^ b
  | .int .min => BitVec.ofInt 64 (min old.toInt b.toInt)
  | .int .max => BitVec.ofInt 64 (max old.toInt b.toInt)
  | .int .minn => BitVec.ofNat 64 (min old.toNat b.toNat)
  | .int .maxn => BitVec.ofNat 64 (max old.toNat b.toNat)
  | .int .swap => b
  | .int .cas => if old = d then b else old
  | .fadd f32 => BitVec.ofNat 64 (faddR (if f32 then fp32 else fp64) .rne old.toNat (b.toNat % (if f32 then 2 ^ 32 else 2 ^ 64))).1
  | .fmax f32 => BitVec.ofNat 64 (fminmaxR (if f32 then fp32 else fp64) true old.toNat (b.toNat % (if f32 then 2 ^ 32 else 2 ^ 64))).1

/-- R294: on a TSO page an atomic is .ar at SY, but for .sc. -/
def Sys2Proof.Machine.Atomic.ordAt (q : Atomic) (p : Place) : Nat := if p.tso ∧ q.ord ≠ 4 then 3 else q.ord
def Sys2Proof.Machine.Atomic.scopeAt (q : Atomic) (p : Place) : Nat := if p.tso then 4 else q.scope

/-- An atomic that is allowed on a place of this package, its task committed in `s1` (R38, R112, R115). -/
structure Sys2Proof.Machine.AtomicAllowed (s s1 : State) (q : Atomic) (p : Place) : Prop where
  guard : s.runs q.g = true
  range : addrFault (s.x q.a) q.kind.size = false
  aligned : (s.x q.a).toNat % q.kind.size = 0
  place : s.translate s.core s.slot.job .atomic (s.x q.a) q.kind.size = .ok p
  here : p.here = true
  granted : vpnOf (s.x q.a) ∉ s.slot.deny
  free : s.hostHolds p q.kind.size = false
  sound : s.spoiled p q.kind.size = false
  release : ordRel (q.ordAt p) = true → s.hostBlocks s.clusterNo (q.scopeAt p) = false
  commit : s.commit = .ok s1

/-- R115 to R117: an allowed atomic but AADDF on this package completes. X[d] takes the old value at the place, after the
release its ordering asks for; the new value stands there; every other byte is as before or a dirty byte written back; what the
streams had fetched ahead of an acquire is dropped (R211).
R118: AADDF on a record of this package. The counter at the record's word 0 takes the sum and X[d] its old value; when
the sum is zero and the operand is not, the image in words 1 to 5 leaves for the record's owner core, unless the task's
launch is cancelled on the core. -/
def Obligations.Atomics : Prop :=
  (∀ (i : Instr) (s s1 : State) (q : Atomic) (p : Place), atomicOf i = some q → q.kind ≠ .int .addf →
     Memory.wf s.mem = true → AtomicAllowed s s1 q p →
     let s0 := if ordRel (q.ordAt p) then s1.release s1.clusterNo (q.scopeAt p) else s1
     let sA := s1.refetch (q.ordAt p)
     let old := BitVec.ofNat 64 (packDigits 8 (s0.byteAt p) q.kind.size)
     ∃ s', CompletesFrom i s s' 4 { sA.view with x := updX s.x q.d old } ∧ OnlyMemory sA s' ∧
       MemoryFrame s s' p.flat q.kind.size ∧
       ∀ k, k < q.kind.size → s'.byteAt p k = (atomicNew q.kind old (s.x q.b) (s.x q.d)).extractLsb' (8 * k) 8) ∧
  (∀ (s s1 : State) (d a b : BitVec 5) (o : BitVec 2) (sc : BitVec 3) (g : BitVec 4) (p : Place),
     let q : Atomic := ⟨.int .addf, d, a, b, o.toNat, sc.toNat, g⟩
     Memory.wf s.mem = true → AtomicAllowed s s1 q p →
     let s0 := if ordRel (q.ordAt p) then s1.release s1.clusterNo (q.scopeAt p) else s1
     let sA := s1.refetch (q.ordAt p)
     let word := fun (k : Nat) => BitVec.ofNat 64 (packDigits 8 (fun j => s0.byteAt p (8 * k + j)) 8)
     let new := word 0 + s.x b
     let fires := new = 0 ∧ s.x b ≠ 0
     (fires → s.isCancelled s.core s.slot.launch = false → imageBad (word 1) = false) →
     ∃ s', CompletesFrom (.aaddf d a b o sc g) s s' 4 { sA.view with x := updX s.x d (word 0) } ∧
       MemoryFrame s s' p.flat 8 ∧ (∀ k, k < 8 → s'.byteAt p k = new.extractLsb' (8 * k) 8) ∧
       (¬ fires ∨ s.isCancelled s.core s.slot.launch = true → OnlyMemory sA s') ∧
       (fires → s.isCancelled s.core s.slot.launch = false →
         ∃ m, s'.flight = s.flight ++ [m] ∧ m.dest = s1.liveCore p.owner ∧ m.img.w0 = word 1 ∧ m.img.w1 = word 2 ∧
           m.img.w2 = word 3 ∧ m.img.w3 = word 4 ∧ m.img.w4 = word 5 ∧ m.img.launch = s.slot.launch))

/-! ### Waiting, ordering and cache maintenance -/

/-- R133: WAITC with a completion of its tag takes it: X[d] is its status, and the core has acquired; one that has not come
is waited for, and a tag outside 16 bits traps ILLEGAL.
R133: one read of WAITM at a scratchpad or HBM of this package, .acq at PK. A word that differs from X[b] goes to X[d]
and the instruction completes; an equal one leaves the thread waiting with its registers and PC as they are.
R211: what its streams had fetched ahead is dropped with each acquiring read. -/
def Obligations.WaitResults : Prop :=
  (∀ (s : State) (d a : BitVec 5) (g : BitVec 4), s.runs g = true →
     (2 ^ 16 ≤ (s.x a).toNat → Traps (.waitc d a g) s .illegal (s.ir.setWidth 64)) ∧
     ((s.x a).toNat < 2 ^ 16 →
       (∀ e, s.slot.compl.find? (fun e => e.1 == (s.x a).setWidth 16) = some e →
         CompletesFrom (.waitc d a g) s ((s.acquire s.core 2).mod (fun t => { t with compl := t.compl.erase e })) 4
           { s.view with x := updX s.x d e.2 }) ∧
       (s.slot.compl.find? (fun e => e.1 == (s.x a).setWidth 16) = none →
         exec (.waitc d a g) s = .next (s.startWait 2 (s.x a) 0)))) ∧
  (∀ (s : State) (d a b : BitVec 5) (g : BitVec 4) (p : Place), s.runs g = true → Memory.wf s.mem = true →
     addrFault (s.x a) 8 = false → (s.x a).toNat % 8 = 0 → vpnOf (s.x a) ∉ s.slot.deny →
     s.translate s.core s.slot.job .read (s.x a) 8 = .ok p → s.hostHolds p 8 = false → s.spoiled p 8 = false →
     p.here = true →
     let t := ((s.touchTlb s.core s.slot.job (s.x a)).acquire s.core 2).dropAhead s.cur
     let sA := s.dropAhead s.cur
     let r := t.readPlace t.clusterNo (t.coreAt t.core).stale 0 p 8
     let w := BitVec.ofNat 64 r.1
     r.1 = packDigits 8 (t.loadByte p) 8 ∧ OnlyMemory sA r.2 ∧ MemoryFrame s r.2 0 0 ∧
     (w ≠ s.x b → CompletesFrom (.waitm d a b g) s r.2 4 { sA.view with x := updX s.x d w }) ∧
     (w = s.x b → ∃ u, exec (.waitm d a b g) s = .next u ∧ u.view = sA.view ∧ u.pc = s.pc ∧ u.mem = r.2.mem ∧
       (∃ since, u.slot.pend = some (.waitm d since)) ∧ ∃ k, u.slot.wait = some k ∧ k.kind = 1))

/-- R224, R265: FENCE completes. With a release at PK or wider every dirty byte of the issuing cluster's cache is in memory
and no byte is dirty; with an acquire at PK or wider the core's stale mark is the present step, with one at CL the latest mark of
its cluster and its own. R211: what the task's streams had fetched ahead is dropped.
R266: DRAIN with nothing left to wait for completes: .sp, which waits for the transfers credited when it was issued, and .wg
without another effect, .gl with every dirty byte of the cluster's cache in memory. A failure mark makes .wg trap with the mark's
cause and address, the mark cleared.
R268: BAR. The first arrival opens the generation; it and each later one before the COUNT-th waits, counted; the arrival that makes
COUNT completes, ends the generation and lets the waiting tasks retire their BAR; each acquires at CL. A BAR of another launch than
the open generation's traps PERM, and then one of another COUNT ILLEGAL; nothing arrives. An arrival withdrawn in the same cycle
counts for an opening (R269).
Accesses of this package are performed at their issue (log 4) in the model's write-back caches (log 5); the TRAPVAL of that PERM is
free (log 18). -/
def Obligations.FencesAndBarriers : Prop :=
  ((∀ (s : State) (sc o : BitVec 3) (g : BitVec 4), s.runs g = true → Memory.wf s.mem = true →
      (ordRel o.toNat = true → s.hostBlocks s.clusterNo sc.toNat = false) →
      let sA := s.dropAhead s.cur
      ∃ s', CompletesFrom (.fence sc o g) s s' 4 sA.view ∧ OnlyMemory sA s' ∧ MemoryFrame s s' 0 0 ∧
        (ordRel o.toNat = true → 2 ≤ sc.toNat →
          ∀ a, s'.dirtyByte s.clusterNo a = none ∧ memGet s'.mem a = s.seenByte s.clusterNo a) ∧
        (ordAcq o.toNat = true → 2 ≤ sc.toNat → (s'.coreAt s.core).stale = s.tick) ∧
        (ordAcq o.toNat = true → sc.toNat = 1 → (s'.coreAt s.core).stale = max (s.coreAt s.core).stale (s.clusterStale s.clusterNo))) ∧
   (∀ (s : State) (g : BitVec 4), s.runs g = true → Memory.wf s.mem = true →
      (let l := if s.draining.isSome then s.slot.drain else s.drainTiles
       (s.drainSp l = false → Completes (.drain 0 g) s 4 s.view) ∧
       (s.drainSp l = true → ∃ t, exec (.drain 0 g) s = .next t ∧ t.view = s.view ∧ t.pc = s.pc ∧ t.mem = s.mem ∧
         t.slot.drain = l ∧ ∃ k, t.slot.wait = some k ∧ k.kind = 7)) ∧
      (s.drainGl s.drainMark = false → s.hostBlocks s.clusterNo 2 = false →
        ∃ s', CompletesFrom (.drain 1 g) s s' 4 s.view ∧ OnlyMemory s s' ∧
          ∀ a, s'.dirtyByte s.clusterNo a = none ∧ memGet s'.mem a = s.seenByte s.clusterNo a) ∧
      (s.drainWg s.drainMark = false → s.slot.failCause = 0 → Completes (.drain 2 g) s 4 s.view) ∧
      (s.drainWg s.drainMark = false → s.slot.failCause ≠ 0 →
        exec (.drain 2 g) s = .next ((s.mod (fun t => { t with failCause := 0, failAddr := 0 })).takeTrap s.cur
          (causeOf s.slot.failCause) s.slot.failAddr)))) ∧
  (∀ (s : State) (a : BitVec 5) (g : BitVec 4), s.runs g = true → s.worker = true → barBad (s.x a) = false →
     let n := barNum (s.x a)
     let cl := s.clusterNo
     let open_ := (RegFile.read (s.clusterAt cl).bars n).filter (·.inUse s.cyc)
     (open_ = none →
       (barCount (s.x a) = 1 →
         CompletesFrom (.bar a g) s ((s.setBar cl n none).acquire s.core 1) 4 s.view) ∧
       (1 < barCount (s.x a) → ∃ t, exec (.bar a g) s = .next t ∧ t.slot.pend = some (.bar n.toNat) ∧ t.view = s.view ∧
         t.pc = s.pc ∧ ∃ b, RegFile.read (t.clusterAt cl).bars n = some b ∧ b.launch = s.slot.launch ∧
           b.count = barCount (s.x a) ∧ b.arrived = [s.slot.tid])) ∧
     (∀ b, open_ = some b →
       (b.launch ≠ s.slot.launch → exec (.bar a g) s = .next (s.nextFree64.2.takeTrap s.cur .perm s.nextFree64.1)) ∧
       (b.launch = s.slot.launch → b.count ≠ barCount (s.x a) → Traps (.bar a g) s .illegal (s.ir.setWidth 64)) ∧
       (b.launch = s.slot.launch → b.count = barCount (s.x a) → b.counted s.cyc + 1 < b.count →
         ∃ t, exec (.bar a g) s = .next t ∧ t.slot.pend = some (.bar n.toNat) ∧ t.view = s.view ∧ t.pc = s.pc ∧ t.mem = s.mem ∧
           RegFile.read (t.clusterAt cl).bars n = some { b with arrived := b.arrived ++ [s.slot.tid], cls := min b.cls (s.issueClass s.cur) }) ∧
       (b.launch = s.slot.launch → b.count = barCount (s.x a) → b.count ≤ b.counted s.cyc + 1 →
         let s' := b.arrived.foldl (fun s t => (s.acquire (s.coreOf t) 1).retireTask t 4 id) ((s.setBar cl n none).acquire s.core 1)
         CompletesFrom (.bar a g) s s' 4 s'.view)))

/-- R263, R301: a prefetch completes unless its page is to be walked to or the host holds its line; it changes no register and no
byte of memory but by write-back, and the cluster's cache then holds the line of a LOCAL page. A page that the core's TLB lacks
and that is neither absent nor refused is walked. R264, R301: CFLUSH and CINV of a range whose pages need no walk, and whose lines
the host does not hold, complete: the dirty bytes of its lines in the own cluster's cache are in memory, and CINV's lines are
gone; a page to be walked to is walked first. The write-back caches and their lines are the model's (log 5), and so are the walks
of these instructions (log 35). -/
def Obligations.CacheMaintenance : Prop :=
  ∀ (s : State) (a b : BitVec 5) (h : BitVec 2) (sc : BitVec 3) (off : BitVec 24) (g : BitVec 4), s.runs g = true →
    Memory.wf s.mem = true →
    (∀ i A len, (i, A, len) = (Instr.pref a h g, ((s.x a).toNat : Int), 4) ∨
        (i, A, len) = (Instr.prefLong a g h off, (s.x a).toNat + off.toInt, 8) →
      let tr := fun (va : W64) => s.translate s.core s.slot.job .read va 1
      let known := fun (va : W64) => (s.pageReqOf s.slot.job (vpnOf va)).isSome = true ∨ s.pageRefused va = true
      ((∀ va : W64, A = va.toNat → addrFault va 1 = false → (tr va = .miss → known va) ∧
          ∀ pa, tr va = .ok (.hbm pa false) → s.hostHolds (.hbm pa false) 1 = false) →
        ∃ s', CompletesFrom i s s' len s.view ∧ OnlyMemory s s' ∧ MemoryFrame s s' 0 0 ∧
          ∀ (va : W64) pa, A = va.toNat → addrFault va 1 = false → vpnOf va ∉ s.slot.deny → tr va = .ok (.hbm pa false) →
            h.toNat < 2 → (tfind (s'.clusterAt s.clusterNo).lines (pa / 64)).isSome = true) ∧
      (∀ va : W64, A = va.toNat → addrFault va 1 = false → tr va = .miss → ¬ known va →
        exec i s = .next (s.startMiss s.cur .read va))) ∧
    (let n := max (s.x b).toNat 1
     let vas := (List.range (((s.x a).toNat % 64 + n + 63) / 64)).map (fun i => (s.x a).toNat / 64 * 64 + 64 * i)
     (s.x b).toNat ≤ 0x100000 → addrFault (s.x a) n = false → s.rangePerm (s.x a) n = false →
     (∀ acc va, s.rangeLines vas = .error (.miss acc va) → exec (.cflush a b sc g) s = .next (s.startMiss s.cur acc va) ∧
       exec (.cinv a b sc g) s = .next (s.startMiss s.cur acc va)) ∧
     ∀ ls, s.rangeLines vas = .ok ls → (∀ l ∈ ls, s.hostHeld.contains l = false) →
     (∃ s', CompletesFrom (.cflush a b sc g) s s' 4 s.view ∧ OnlyMemory s s' ∧ MemoryFrame s s' 0 0 ∧
       ∀ l ∈ ls, ∀ k, k < 64 → s'.dirtyByte s.clusterNo (64 * l + k) = none ∧
         memGet s'.mem (64 * l + k) = s.seenByte s.clusterNo (64 * l + k)) ∧
     (∃ s', CompletesFrom (.cinv a b sc g) s s' 4 s.view ∧ OnlyMemory s s' ∧ MemoryFrame s s' 0 0 ∧
       ∀ l ∈ ls, tfind (s'.clusterAt s.clusterNo).lines l = none ∧ ∀ k, k < 64 →
         memGet s'.mem (64 * l + k) = s.seenByte s.clusterNo (64 * l + k)))

/-! ### Vector arithmetic and movement -/

/-- A vector instruction whose results are lanes of one register: the lane width, destination, sources, guard, and the bits
and flags of each lane. -/
structure Sys2Proof.Machine.LaneOp where
  W : Nat
  d : BitVec 5
  srcs : List (BitVec 5)
  g : BitVec 4
  lane : Nat → BitVec W × Flags

/-- A floating instruction of type code `t` (R182): lane `i` is `f` of the format, FSR's mode and the index. -/
def Sys2Proof.Machine.floatLanes (s : State) (t : BitVec 1) (d : BitVec 5) (srcs : List (BitVec 5)) (g : BitVec 4)
    (f : Fmt → RM → (BitVec 5 → Nat) → Nat × Flags) : LaneOp :=
  ⟨laneW t, d, srcs, g, fun i =>
    let r := f (if t = 0 then fp32 else fp64) s.rm (fun r => (laneOf (laneW t) (s.vin r) i).toNat)
    (BitVec.ofNat _ r.1, r.2)⟩

/-- Lane `i` of a fused form (R184): ±(V[a] × V[b]) ± V[d], rounded once. -/
def Sys2Proof.Machine.fusedLane (s : State) (t : BitVec 1) (negProd negAdd : Bool) (d a b : BitVec 5) (i : Nat) : Nat × Flags :=
  ffmaR (if t = 0 then fp32 else fp64) s.rm negProd negAdd (laneOf (laneW t) (s.vin a) i).toNat
    (laneOf (laneW t) (s.vin b) i).toNat (laneOf (laneW t) (s.v d) i).toNat

/-- R184 to R186, R190, R191: the floating lane instructions, each with the model's one rounding as the operation of its
name. -/
def Sys2Proof.Machine.floatOp (s : State) : Instr → Option LaneOp
  | .vadd d a b t g => some (floatLanes s t d [a, b] g (fun f m v => faddR f m (v a) (v b)))
  | .vsub d a b t g => some (floatLanes s t d [a, b] g (fun f m v => fsubR f m (v a) (v b)))
  | .vmul d a b t g => some (floatLanes s t d [a, b] g (fun f m v => fmulR f m (v a) (v b)))
  | .vmin d a b t g => some (floatLanes s t d [a, b] g (fun f _ v => fminmaxR f false (v a) (v b)))
  | .vmax d a b t g => some (floatLanes s t d [a, b] g (fun f _ v => fminmaxR f true (v a) (v b)))
  | .vdiv d a b t g => some (floatLanes s t d [a, b] g (fun f m v => fdivR f m (unpack f (v a)) (unpack f (v b))))
  | .vfma d a b t g => some ⟨laneW t, d, [a, b], g, fun i => let r := fusedLane s t false false d a b i; (BitVec.ofNat _ r.1, r.2)⟩
  | .vfms d a b t g => some ⟨laneW t, d, [a, b], g, fun i => let r := fusedLane s t false true d a b i; (BitVec.ofNat _ r.1, r.2)⟩
  | .vfnma d a b t g => some ⟨laneW t, d, [a, b], g, fun i => let r := fusedLane s t true false d a b i; (BitVec.ofNat _ r.1, r.2)⟩
  | .vabs d a t g => some (floatLanes s t d [a] g (fun f _ v => (if (unpack f (v a)).isNan then f.nanCode else v a % f.signBit, 0)))
  | .vneg d a t g => some (floatLanes s t d [a] g (fun f _ v =>
      (if (unpack f (v a)).isNan then f.nanCode else (v a + f.signBit) % (2 * f.signBit), 0)))
  | .vsqrt d a t g => some (floatLanes s t d [a] g (fun f m v => fsqrtR f m (unpack f (v a))))
  | .vrcp d a g => some (floatLanes s 0 d [a] g (fun _ _ v => rcpR (v a)))
  | .vrsqrt d a g => some (floatLanes s 0 d [a] g (fun _ _ v => rsqrtR (v a)))
  | .vexp2 d a g => some (floatLanes s 0 d [a] g (fun _ _ v => exp2R (v a)))
  | .vlog2 d a g => some (floatLanes s 0 d [a] g (fun _ _ v => log2R (v a)))
  | .vsin d a g => some (floatLanes s 0 d [a] g (fun _ _ v => trigR false (v a)))
  | .vcos d a g => some (floatLanes s 0 d [a] g (fun _ _ v => trigR true (v a)))
  | .vcvt d a c r sat g => some (floatLanes s (if c.toNat = 16 ∨ c.toNat = 17 ∨ c.toNat = 28 ∨ c.toNat = 29 then 1 else 0) d [a] g
      (fun _ m v => cvtLane c.toNat (if r.toNat < 4 then RM.ofCode r.toNat else m) (sat == 1) (s.e (c.setWidth 3)) (v a)))
  | _ => none

/-- The register V[d] after lane results under a guard value: the enabled lanes are the results, the others as before
(R181). -/
def Sys2Proof.Machine.LanesWritten (W : Nat) (g : BitVec 16) (old new : Vec) (f : Nat → BitVec W) : Prop :=
  ∀ i, i < 512 / W → laneOf W new i = if g.getLsbD i then f i else laneOf W old i

/-- R181, R184 to R186, R190, R191, R209: a floating lane instruction with an unbound destination and its stream elements
at hand. Its flags are those of its enabled lanes. With none of them enabled it completes: the enabled lanes of V[d] are
the results, the flags reach FSR, the streams it reads step on; otherwise it traps FP and writes nothing else.
The special functions below full precision use the model's free values (logs 8, 9). -/
def Obligations.VectorFloatResults : Prop :=
  ∀ (i : Instr) (s : State) (q : LaneOp), floatOp s i = some q → s.Unbound [q.d] → s.ElemsReady q.srcs →
    ∃ fl : Flags, (∀ k, fl.getLsbD k = true ↔
        ∃ j, j < 512 / q.W ∧ (s.guard q.g).getLsbD j = true ∧ (q.lane j).2.getLsbD k = true) ∧
      (s.fpTraps fl = false → ∃ V, LanesWritten q.W (s.guard q.g) (s.v q.d) V (fun j => (q.lane j).1) ∧
        Completes i s 4 { s.view with v := upd s.v q.d V, z := s.zAfter q.srcs, fsr := s.slot.fsr ||| fl.setWidth 32 }) ∧
      (s.fpTraps fl = true → TrapsFp i s fl)

/-- An integer instruction of width code `w` on the lanes of V[a] and V[b] (R187). -/
def Sys2Proof.Machine.intLanes (s : State) (w : BitVec 1) (d a b : BitVec 5) (g : BitVec 4)
    (f : (W : Nat) → BitVec W → BitVec W → BitVec W) : LaneOp :=
  ⟨laneW w, d, [a, b], g, fun i => (f (laneW w) (laneOf _ (s.vin a) i) (laneOf _ (s.vin b) i), 0)⟩

/-- R187, R189, R192, R194 (VUNPK), R195, R197, R198: the lane instructions that raise no flag, on lanes of the values their
sources give. -/
def Sys2Proof.Machine.plainOp (s : State) : Instr → Option LaneOp
  | .viadd d a b w g => some (intLanes s w d a b g (fun _ A B => A + B))
  | .visub d a b w g => some (intLanes s w d a b g (fun _ A B => A - B))
  | .vimul d a b w g => some (intLanes s w d a b g (fun W A B => BitVec.ofNat W (A.toNat * B.toNat)))
  | .vimin d a b w n g => some (intLanes s w d a b g (fun W A B =>
      if n = 0 then BitVec.ofInt W (min A.toInt B.toInt) else BitVec.ofNat W (min A.toNat B.toNat)))
  | .vimax d a b w n g => some (intLanes s w d a b g (fun W A B =>
      if n = 0 then BitVec.ofInt W (max A.toInt B.toInt) else BitVec.ofNat W (max A.toNat B.toNat)))
  | .vand d a b w g => some (intLanes s w d a b g (fun _ A B => A &&& B))
  | .vor d a b w g => some (intLanes s w d a b g (fun _ A B => A ||| B))
  | .vxor d a b w g => some (intLanes s w d a b g (fun _ A B => A ^^^ B))
  | .vshl d a b w g => some (intLanes s w d a b g (fun W A B => A <<< (B.toNat % W)))
  | .vshr d a b w g => some (intLanes s w d a b g (fun W A B => A >>> (B.toNat % W)))
  | .vsra d a b w g => some (intLanes s w d a b g (fun W A B => A.sshiftRight (B.toNat % W)))
  | .vsel d a b w p g => some ⟨laneW w, d, [a, b], g, fun i =>
      (if (s.p p).getLsbD i then laneOf _ (s.vin a) i else laneOf _ (s.vin b) i, 0)⟩
  | .vbcast d a w g => some ⟨laneW w, d, [], g, fun _ => ((s.x a).setWidth _, 0)⟩
  | .vperm d a b g => some ⟨32, d, [a, b], g, fun i => (laneOf 32 (s.vin a) ((laneOf 32 (s.vin b) i).toNat % 16), 0)⟩
  | .vshuf d a b p g => some ⟨32, d, if p.toNat < 6 then [a, b] else [a], g, fun i =>
      let A := laneOf 32 (s.vin a)
      let B := laneOf 32 (s.vin b)
      (if p = 0 then (if i % 2 = 0 then A (i / 2) else B (i / 2))
       else if p = 1 then (if i % 2 = 0 then A (8 + i / 2) else B (8 + i / 2))
       else if p = 2 then (if i < 8 then A (2 * i) else B (2 * i - 16))
       else if p = 3 then (if i < 8 then A (2 * i + 1) else B (2 * i - 15))
       else if p = 4 then (if i < 8 then A i else B (i - 8))
       else if p = 5 then (if i < 8 then A (i + 8) else B i)
       else if p = 6 then A (15 - i)
       else A (4 * (i % 4) + i / 4), 0)⟩
  | .vunpk d a w p g => some ⟨32, d, [a], g, fun i =>
      (if w = 0 then (laneOf 8 (s.vin a) (16 * p.toNat + i)).setWidth 32 else (laneOf 16 (s.vin a) (16 * p.toNat + i)).setWidth 32, 0)⟩
  | .vqdec d a b k g => some ⟨32, d, [a], g, fun i =>
      (q16Elem (q16Scale ((s.x b).setWidth 32) ((s.x b).toNat / 2 ^ 32 % 256)) (laneOf 4 (s.vin a) (16 * k.toNat + i)).toNat, 0)⟩
  | _ => none

/-- R181, R187, R189, R192, R194, R195, R197, R198, R209: a lane instruction that raises no flag completes when its
destination is unbound and its stream elements are at hand: the enabled lanes of V[d] are the results of the table, the
others keep their bits, and the streams it reads step on. -/
def Obligations.VectorLaneResults : Prop :=
  ∀ (i : Instr) (s : State) (q : LaneOp), plainOp s i = some q → s.Unbound [q.d] → s.ElemsReady q.srcs →
    ∃ V, LanesWritten q.W (s.guard q.g) (s.v q.d) V (fun j => (q.lane j).1) ∧
      Completes i s 4 { s.view with v := upd s.v q.d V, z := s.zAfter q.srcs }

/-- R193, R194: VPACK moves the low bits of the enabled lanes of V[a] to the elements of part p of V[d], and VQENC writes
their Q16N indexes to its nibbles; every other bit of V[d] is kept.
R193: the index VQENC gives under a scale: 7 under a zero, infinite or NaN scale or for a NaN lane; otherwise the lowest
of the indexes whose decoded values lie nearest the lane, of the largest or smallest ones for an infinite lane. -/
def Obligations.PackingAndIndexes : Prop :=
  (∀ (s : State) (d a b : BitVec 5) (w p : BitVec 2) (k : BitVec 3) (g : BitVec 4), s.Unbound [d] → s.ElemsReady [a] →
     (∃ V, Completes (.vqenc d a b k g) s 4 { s.view with v := upd s.v d V, z := s.zAfter [a] } ∧
       ∀ j, j < 128 → laneOf 4 V j = if j / 16 = k.toNat ∧ (s.guard g).getLsbD (j % 16) = true
         then BitVec.ofNat 4 (q16Index (q16Scale ((s.x b).setWidth 32) ((s.x b).toNat / 2 ^ 32 % 256))
           (laneOf 32 (s.vin a) (j % 16)).toNat)
         else laneOf 4 (s.v d) j) ∧
     (∃ V, Completes (.vpack d a w p g) s 4 { s.view with v := upd s.v d V, z := s.zAfter [a] } ∧
       ∀ j, j < 512 / packW w → laneOf (packW w) V j = if j / 16 = p.toNat ∧ (s.guard g).getLsbD (j % 16) = true
         then (laneOf 32 (s.vin a) (j % 16)).setWidth (packW w) else laneOf (packW w) (s.v d) j)) ∧
  (∀ (sc : W32) (x : Nat),
     let dec := fun i => unpack fp32 (q16Elem sc i).toNat
     let nearer := fun i j => match unpack fp32 x with
       | .inf true => fvLt (dec i) (dec j)
       | .inf false => fvLt (dec j) (dec i)
       | v => fvLt (absDiff v (dec i)) (absDiff v (dec j))
     ((∀ n m e, unpack fp32 sc.toNat ≠ .fin n (m + 1) e) ∨ (unpack fp32 x).isNan = true → q16Index sc x = 7) ∧
     (∀ n m e, unpack fp32 sc.toNat = .fin n (m + 1) e → (unpack fp32 x).isNan = false →
       q16Index sc x < 16 ∧ (∀ j, j < 16 → nearer j (q16Index sc x) = false) ∧
         ∀ j, j < q16Index sc x → (dec j).isNan = false → nearer (q16Index sc x) j = true))

/-- R188: VCMP and VICMP write bit i of the destination predicate from lane i where the guard bit is 1; for 64-bit lanes
bits 8 to 15 keep their values, and p7 discards the write. -/
def Obligations.VectorCompares : Prop :=
  ∀ (s : State) (p c : BitVec 3) (a b : BitVec 5) (t n : BitVec 1) (g : BitVec 4), s.ElemsReady [a, b] →
    let A := fun i => laneOf (laneW t) (s.vin a) i
    let B := fun i => laneOf (laneW t) (s.vin b) i
    let r := fun i => fcmpR (if t = 0 then fp32 else fp64) c.toNat (A i).toNat (B i).toNat
    let written := fun (P : BitVec 16) (f : Nat → Bool) =>
      ∀ i, i < 16 → P.getLsbD i = if i < 512 / laneW t ∧ (s.guard g).getLsbD i = true then f i else (s.p p).getLsbD i
    (∃ fl : Flags, (∀ k, fl.getLsbD k = true ↔
        ∃ j, j < 512 / laneW t ∧ (s.guard g).getLsbD j = true ∧ (r j).2.getLsbD k = true) ∧
      (s.fpTraps fl = false → ∃ P, written P (fun i => (r i).1) ∧ Completes (.vcmp p a b t c g) s 4
        { s.view with p := updP s.p p P, z := s.zAfter [a, b], fsr := s.slot.fsr ||| fl.setWidth 32 }) ∧
      (s.fpTraps fl = true → TrapsFp (.vcmp p a b t c g) s fl)) ∧
    (c.toNat < 6 → ∃ P, written P (fun i => if n = 0 then holdsFor c (A i).toInt (B i).toInt else holdsFor c (A i).toNat (B i).toNat) ∧
      Completes (.vicmp n p a b t c g) s 4 { s.view with p := updP s.p p P, z := s.zAfter [a, b] })

/-- R157, R199: the value and flags of the node at level `k` and place `i` of the pairwise tree over lanes. -/
def Sys2Proof.Machine.treeNode (node : Nat → Nat → Nat × Flags) (lane : Nat → Nat) : Nat → Nat → Nat × Flags
  | 0, i => (lane i, 0)
  | k + 1, i =>
    let x := treeNode node lane k (2 * i)
    let y := treeNode node lane k (2 * i + 1)
    let r := node x.1 y.1
    (r.1, r.2 ||| x.2 ||| y.2)

/-- R157, R199: running result `i` over lanes, and the flags of the steps so far. -/
def Sys2Proof.Machine.running (node : Nat → Nat → Nat × Flags) (lane : Nat → Nat) : Nat → Nat × Flags
  | 0 => (lane 0, 0)
  | i + 1 =>
    let x := running node lane i
    let r := node x.1 (lane (i + 1))
    (r.1, r.2 ||| x.2)

/-- R157, R196, R199: VMOVX writes one enabled lane to X[d]; VRED writes the top of the pairwise tree to X[d], VSCAN the
running results to the enabled lanes of V[d], with disabled lanes entering as the identity; an enabled flag traps FP. -/
def Obligations.ReductionsAndScans : Prop :=
  ∀ (s : State) (d a : BitVec 5) (w k : BitVec 1) (o : BitVec 2) (l g : BitVec 4), s.ElemsReady [a] →
    let W := laneW w
    let n := 512 / W
    let lane := fun i => if (s.guard g).getLsbD i then (laneOf W (s.vin a) i).toNat else redIdentity w k o.toNat
    let top := treeNode (redNode w k o.toNat) lane (if w = 0 then 4 else 3) 0
    let last := running (redNode w k o.toNat) lane (n - 1)
    ((s.guard g).getLsbD l.toNat = true → Completes (.vmovx d a l g) s 4
      { s.view with x := updX s.x d ((laneOf 32 (s.vin a) l.toNat).setWidth 64), z := s.zAfter [a] }) ∧
    ((s.guard g).getLsbD l.toNat = false → Completes (.vmovx d a l g) s 4 { s.view with z := s.zAfter [a] }) ∧
    (s.fpTraps top.2 = false → Completes (.vred d a w k o g) s 4
      { s.view with x := updX s.x d (if w = 0 ∧ k = 1 then (BitVec.ofNat 32 top.1).signExtend 64 else BitVec.ofNat 64 top.1)
                    z := s.zAfter [a], fsr := s.slot.fsr ||| top.2.setWidth 32 }) ∧
    (s.fpTraps top.2 = true → TrapsFp (.vred d a w k o g) s top.2) ∧
    (s.Unbound [d] → s.fpTraps last.2 = false → ∃ V,
      LanesWritten W (s.guard g) (s.v d) V (fun i => BitVec.ofNat W (running (redNode w k o.toNat) lane i).1) ∧
      Completes (.vscan d a w k o g) s 4
        { s.view with v := upd s.v d V, z := s.zAfter [a], fsr := s.slot.fsr ||| last.2.setWidth 32 }) ∧
    (s.Unbound [d] → s.fpTraps last.2 = true → TrapsFp (.vscan d a w k o g) s last.2)

/-- R200: the `n` best of some candidates as a list register holds them: score and index in rank order, no candidate left
out better than one in the list, padded with −infinity and 0xFFFFFFFF. -/
def Sys2Proof.Machine.HoldsBest (V : Vec) (n : Nat) (cands : List Cand) : Prop :=
  ∃ L R : List Cand, (L ++ R).Perm cands ∧ L.length = min n cands.length ∧ L.Pairwise (fun x y => candBefore y x = false) ∧
    (∀ x ∈ L, ∀ y ∈ R, candBefore y x = false) ∧
    ∀ i, i < 8 → laneOf 32 V i = BitVec.ofNat 32 (L.getD i (0xFF800000, 0)).1 ∧
      laneOf 32 V (8 + i) = BitVec.ofNat 32 (L.getD i (0, 0xFFFFFFFF)).2

/-- R200, R201: VTOPK replaces V[d] by the k best of its own k entries and the enabled lanes of V[a], numbered from X[b] up;
VPAIRK by the k best sums of a pair of enabled entries of the lists V[a] and V[b], empty entries (index 0xFFFFFFFF) left
out, with the code index × 65536 + index.
R202, R203: VOPTU writes the parameter and both moments of each enabled lane to V[d], V[d + 1] and V[d + 2], from
V[a] to V[a + 3] and the scale registers; an enabled flag of an enabled lane traps FP. -/
def Obligations.SelectionAndOptimiser : Prop :=
  (∀ (s : State) (d a b : BitVec 5) (k : BitVec 3) (g : BitVec 4), s.Unbound [d] →
     let n := k.toNat + 1
     let entry := fun (v : Vec) i => ((laneOf 32 v i).toNat, (laneOf 32 v (8 + i)).toNat)
     (s.ElemsReady [a] → ∃ V, Completes (.vtopk d a b k g) s 4 { s.view with v := upd s.v d V, z := s.zAfter [a] } ∧
       HoldsBest V n ((List.range n).map (entry (s.v d)) ++
         ((List.range 16).filter (fun i => (s.guard g).getLsbD i)).map (fun i =>
           ((laneOf 32 (s.vin a) i).toNat, ((s.x b).toNat + i) % 2 ^ 32)))) ∧
     (s.ElemsReady [a, b] → ∃ V, Completes (.vpairk d a b k g) s 4 { s.view with v := upd s.v d V, z := s.zAfter [a, b] } ∧
       HoldsBest V n ((((List.range n).flatMap (fun i => (List.range n).map (fun j => (i, j)))).filter (fun ij =>
           (s.guard g).getLsbD ij.1 && (s.guard g).getLsbD (8 + ij.2) &&
             (entry (s.vin a) ij.1).2 != 0xFFFFFFFF && (entry (s.vin b) ij.2).2 != 0xFFFFFFFF)).map (fun ij =>
         ((faddR fp32 .rne (entry (s.vin a) ij.1).1 (entry (s.vin b) ij.2).1).1,
           (entry (s.vin a) ij.1).2 % 65536 * 65536 + (entry (s.vin b) ij.2).2 % 65536))))) ∧
  (∀ (s : State) (d a : BitVec 5) (g : BitVec 4), s.Unbound [d, d + 1, d + 2] → s.ElemsReady [a, a + 1, a + 2, a + 3] →
     let val := fun (r : BitVec 5) i => (laneOf 32 (s.vin r) i).toNat
     let r := fun i => optuLane s.rm (fun k => unpack fp32 (s.e (BitVec.ofNat 3 k)).toNat) (val a i) (val (a + 1) i)
       (val (a + 2) i) (val (a + 3) i)
     ∃ fl : Flags, (∀ k, fl.getLsbD k = true ↔
         ∃ j, j < 16 ∧ (s.guard g).getLsbD j = true ∧ (r j).2.2.2.getLsbD k = true) ∧
       (s.fpTraps fl = false → ∃ P M N,
         LanesWritten 32 (s.guard g) (s.v d) P (fun i => BitVec.ofNat 32 (r i).1) ∧
         LanesWritten 32 (s.guard g) (s.v (d + 1)) M (fun i => BitVec.ofNat 32 (r i).2.1) ∧
         LanesWritten 32 (s.guard g) (s.v (d + 2)) N (fun i => BitVec.ofNat 32 (r i).2.2.1) ∧
         Completes (.voptu d a g) s 4
           { s.view with v := upd (upd (upd s.v d P) (d + 1) M) (d + 2) N, z := s.zAfter [a, a + 1, a + 2, a + 3]
                         fsr := s.slot.fsr ||| fl.setWidth 32 }) ∧
       (s.fpTraps fl = true → TrapsFp (.voptu d a g) s fl))

/-! ### Vector loads and stores -/

/-- The task of the issuing slot with an empty lane-done mask (R260: an execution first clears it). -/
def Sys2Proof.Machine.clearDone (s : State) : State :=
  s.mod (fun t => if t.laneDone = 0 then t else { t with laneDone := 0, dirty := { t.dirty with x := setBit t.dirty.x 0 } })

/-- The state in which the accesses of an instruction with ordering and scope codes are made: after the release and the
acquire they ask for (R224). -/
def Sys2Proof.Machine.ordered (s : State) (acq : Bool) (ord scope : Nat) : State :=
  let s1 := if ordRel ord then s.release s.clusterNo scope else s
  if ordAcq ord && acq then s1.acquireHere scope else s1

/-- A place read through the cluster's cache (R222). -/
def Sys2Proof.Machine.Place.cached : Place → Bool
  | .hbm _ false => true
  | _ => false

/-- LDV and STV, short and long (R253): direction, register, base, offset in bytes, codes, length and guard. -/
structure Sys2Proof.Machine.BlockAccess where
  load : Bool
  d : BitVec 5
  a : BitVec 5
  off : Int
  hint : Nat
  ord : Nat
  scope : Nat
  len : Nat
  g : BitVec 4

def Sys2Proof.Machine.blockAccess : Instr → Option BlockAccess
  | .ldv d a i g => some ⟨true, d, a, 64 * i.toInt, 0, 0, 0, 4, g⟩
  | .stv d a i g => some ⟨false, d, a, 64 * i.toInt, 0, 0, 0, 4, g⟩
  | .ldvLong d a g sc ord h off => some ⟨true, d, a, off.toInt, h.toNat, ord.toNat, sc.toNat, 8, g⟩
  | .stvLong d a g sc ord h off => some ⟨false, d, a, off.toInt, h.toNat, ord.toNat, sc.toNat, 8, g⟩
  | _ => none

/-- R294: the ordering and scope in force, `tso` for an access to a TSO page: .acq for a load, .rel for a store, at SY. -/
def Sys2Proof.Machine.vecOrd (load tso : Bool) (ord : Nat) : Nat := if tso ∧ ord ≠ 4 then (if load then 1 else 2) else ord
def Sys2Proof.Machine.vecScope (tso : Bool) (scope : Nat) : Nat := if tso then 4 else scope

/-- The access of 64 bytes is allowed at `va`, a place of this package (R112, R253, R256). -/
structure Sys2Proof.Machine.BlockAllowed (s : State) (q : BlockAccess) (va : W64) (p : Place) : Prop where
  unbound : s.Unbound [q.d]
  enabled : s.guard q.g ≠ 0
  exact : (s.x q.a).toNat + q.off = va.toNat
  range : addrFault va 64 = false
  aligned : va.toNat % 64 = 0
  offset : q.off % 64 = 0
  place : s.translate s.core s.slot.job (if q.load then .read else .write) va 64 = .ok p
  here : p.here = true
  granted : vpnOf va ∉ s.slot.deny
  free : s.hostHolds p 64 = false
  sound : q.load = true → s.spoiled p 64 = false
  release : ordRel (vecOrd q.load p.tso q.ord) = true → s.hostBlocks s.clusterNo (vecScope p.tso q.scope) = false

/-- R253 to R256: an allowed LDV writes the enabled 32-bit lanes of V[d] from the 64 bytes and keeps the others; an allowed STV
stores the enabled lanes and leaves every other byte as before, or written back; an instruction with no enabled lane only retires;
a bound register traps ILLEGAL whatever the guard. R211: what the streams had fetched ahead of an acquire is dropped. -/
def Obligations.VectorBlocks : Prop :=
  ∀ (i : Instr) (s : State) (q : BlockAccess), blockAccess i = some q → Memory.wf s.mem = true →
    (s.slot.isBound q.d = true → Traps i s .illegal (s.ir.setWidth 64)) ∧
    (s.slot.isBound q.d = false → s.guard q.g = 0 → Completes i s q.len s.view) ∧
    ∀ (va : W64) (p : Place), BlockAllowed s q va p →
      let ord := vecOrd q.load p.tso q.ord
      let s1 := ordered s q.load ord (vecScope p.tso q.scope)
      let sA := (clearDone s).refetch ord
      (q.load = true → ∃ s' x V, CompletesFrom i s s' q.len { sA.view with v := upd s.v q.d V } ∧
        OnlyMemory sA s' ∧ MemoryFrame s s' 0 0 ∧
        LanesWritten 32 (s.guard q.g) (s.v q.d) V (fun j => laneOf 32 x j) ∧
        ∀ k, k < 64 → laneOf 8 x k = if q.hint = 2 then s1.byteAt p k else s1.loadByte p k) ∧
      (q.load = false → ∃ s', CompletesFrom i s s' q.len sA.view ∧ OnlyMemory sA s' ∧
        (∀ j, (∀ k, k < 64 → (s.guard q.g).getLsbD (k / 4) = true → j ≠ p.flat + k) →
          memGet s'.mem j = memGet s.mem j ∨ s.dirtyByte s.clusterNo j = some (memGet s'.mem j)) ∧
        ∀ k, k < 64 → (s.guard q.g).getLsbD (k / 4) = true → s'.byteAt p k = laneOf 8 (s.v q.d) k)

/-- LDVS, STVS, VGATHER and VSCATTER, short and long (R257): direction, data register, vector operands, lane width, the
lane addresses, codes, length and guard. -/
structure Sys2Proof.Machine.LaneAccess where
  load : Bool
  d : BitVec 5
  vecs : List (BitVec 5)
  w : Nat
  addr : Nat → Int
  hint : Nat
  ord : Nat
  scope : Nat
  len : Nat
  g : BitVec 4

def Sys2Proof.Machine.laneAccess (s : State) : Instr → Option LaneAccess
  | .ldvs d a b w g => some ⟨true, d, [d], laneW w, fun i => (s.x a).toNat + i * (s.x b).toInt, 0, 0, 0, 4, g⟩
  | .stvs d a b w g => some ⟨false, d, [d], laneW w, fun i => (s.x a).toNat + i * (s.x b).toInt, 0, 0, 0, 4, g⟩
  | .vgather d a b w sc g => some ⟨true, d, [d, b], laneW w,
      fun i => (s.x a).toNat + (laneOf (laneW w) (s.v b) i).toInt * (2 ^ sc.toNat : Nat), 0, 0, 0, 4, g⟩
  | .vscatter d a b w sc g => some ⟨false, d, [d, b], laneW w,
      fun i => (s.x a).toNat + (laneOf (laneW w) (s.v b) i).toInt * (2 ^ sc.toNat : Nat), 0, 0, 0, 4, g⟩
  | .ldvsLong d a w g sc ord h b => some ⟨true, d, [d], laneW w,
      fun i => (s.x a).toNat + i * (s.x b).toInt, h.toNat, ord.toNat, sc.toNat, 8, g⟩
  | .stvsLong d a w g sc ord h b => some ⟨false, d, [d], laneW w,
      fun i => (s.x a).toNat + i * (s.x b).toInt, h.toNat, ord.toNat, sc.toNat, 8, g⟩
  | .vgatherLong d a w k g sc ord h b => some ⟨true, d, [d, b], laneW w,
      fun i => (s.x a).toNat + (laneOf (laneW w) (s.v b) i).toInt * (2 ^ k.toNat : Nat), h.toNat, ord.toNat, sc.toNat, 8, g⟩
  | .vscatterLong d a w k g sc ord h b => some ⟨false, d, [d, b], laneW w,
      fun i => (s.x a).toNat + (laneOf (laneW w) (s.v b) i).toInt * (2 ^ k.toNat : Nat), h.toNat, ord.toNat, sc.toNat, 8, g⟩
  | _ => none

/-- Lane `i` makes an access: its guard bit is 1 and it is not marked done (R258, R260). -/
def Sys2Proof.Machine.LaneAccess.on (q : LaneAccess) (s : State) (i : Nat) : Prop :=
  i < 512 / q.w ∧ (s.guard q.g).getLsbD i = true ∧ (s.slot.lanePc = s.pc → s.slot.laneDone.getLsbD i = false)

/-- Every lane that makes an access is allowed, at a place `p i` of this package; `tso` says that some place is on a TSO page. -/
structure Sys2Proof.Machine.LanesAllowed (s : State) (q : LaneAccess) (va : Nat → W64) (p : Nat → Place) (tso : Bool) : Prop where
  unbound : s.Unbound q.vecs
  exact : ∀ i, q.on s i → q.addr i = (va i).toNat
  range : ∀ i, q.on s i → addrFault (va i) (q.w / 8) = false
  aligned : ∀ i, q.on s i → (va i).toNat % (q.w / 8) = 0
  place : ∀ i, q.on s i → s.translate s.core s.slot.job (if q.load then .read else .write) (va i) (q.w / 8) = .ok (p i)
  here : ∀ i, q.on s i → (p i).here = true
  granted : ∀ i, q.on s i → vpnOf (va i) ∉ s.slot.deny
  free : ∀ i, q.on s i → s.hostHolds (p i) (q.w / 8) = false
  sound : q.load = true → ∀ i, q.on s i → s.spoiled (p i) (q.w / 8) = false
  shared : tso = true ↔ ∃ i, q.on s i ∧ (p i).tso = true
  release : ordRel (vecOrd q.load tso q.ord) = true → s.hostBlocks s.clusterNo (vecScope tso q.scope) = false
  some : ∃ i, q.on s i

/-- R255, R257, R258: LDVS and VGATHER whose accesses are all allowed complete. Each lane that makes an access takes its
bytes, as the core's cluster sees them before the instruction or as memory holds them; the other lanes keep theirs.
R255, R257 to R259: STVS and VSCATTER whose accesses are all allowed complete. Each lane that makes an access stores
its bytes, and of overlapping lanes the highest's bytes stand; every byte no lane stores to is as before, or written back.
(A place outside the cluster's cache must not also be written through it.) R294 applies where a place is on a TSO page; R211:
what the streams had fetched ahead of an acquire is dropped. -/
def Obligations.LaneAccesses : Prop :=
  (∀ (i : Instr) (s : State) (q : LaneAccess) (va : Nat → W64) (p : Nat → Place) (tso : Bool), laneAccess s i = some q → q.load = true →
     Memory.wf s.mem = true → LanesAllowed s q va p tso →
     let ord := vecOrd true tso q.ord
     let s1 := ordered s true ord (vecScope tso q.scope)
     let sA := (clearDone s).refetch ord
     ∃ s' V, CompletesFrom i s s' q.len { sA.view with v := upd s.v q.d V } ∧ OnlyMemory sA s' ∧ MemoryFrame s s' 0 0 ∧
       ∀ j, j < 512 / q.w → (¬ q.on s j → laneOf q.w V j = laneOf q.w (s.v q.d) j) ∧
         (q.on s j → ∀ k, k < q.w / 8 → (laneOf q.w V j).extractLsb' (8 * k) 8 = s1.loadByte (p j) k ∨
           (laneOf q.w V j).extractLsb' (8 * k) 8 = s1.byteAt (p j) k)) ∧
  (∀ (i : Instr) (s : State) (q : LaneAccess) (va : Nat → W64) (p : Nat → Place) (tso : Bool), laneAccess s i = some q → q.load = false →
     Memory.wf s.mem = true → LanesAllowed s q va p tso →
     (∀ j, q.on s j → (p j).cached = false → ∀ k, k < q.w / 8 → s.dirtyByte s.clusterNo ((p j).flat + k) = none ∧
       ∀ l, q.on s l → (p l).cached = true → ∀ m, m < q.w / 8 → (p l).flat + m ≠ (p j).flat + k) →
     let sA := (clearDone s).refetch (vecOrd false tso q.ord)
     ∃ s', CompletesFrom i s s' q.len sA.view ∧ OnlyMemory sA s' ∧
       (∀ a, (∀ j, q.on s j → ∀ k, k < q.w / 8 → a ≠ (p j).flat + k) →
         memGet s'.mem a = memGet s.mem a ∨ s.dirtyByte s.clusterNo a = some (memGet s'.mem a)) ∧
       ∀ j, q.on s j → ∀ k, k < q.w / 8 →
         (∀ l, q.on s l → j < l → ∀ m, m < q.w / 8 → (p l).flat + m ≠ (p j).flat + k) →
         s'.byteAt (p j) k = (laneOf q.w (s.v q.d) j).extractLsb' (8 * k) 8)

/-- R256, R258, R260: a lane instruction with a bound vector operand traps ILLEGAL. With no lane that makes an access it only
retires, the lane-done mask cleared. When no lane misses, none leaves the package and the lowest lane that fails its checks
does so with another cause than PAGE, it traps with that cause and address; a load has then marked exactly the lanes that
passed, in the predicate of its guard or, under ?p7, in the lane-done mask. -/
def Obligations.LaneFaults : Prop :=
  ∀ (i : Instr) (s : State) (q : LaneAccess), laneAccess s i = some q →
    (q.vecs.any s.slot.isBound = true → Traps i s .illegal (s.ir.setWidth 64)) ∧
    (s.Unbound q.vecs → (∀ j, ¬ q.on s j) → CompletesFrom i s (s.mod (fun t => { t with laneDone := 0 })) q.len s.view) ∧
    (s.Unbound q.vecs →
      ∀ (check : Nat → Except (Cause × W64) Place) (tso : Bool),
        (tso = true ↔ ∃ j p, q.on s j ∧ check j = .ok p ∧ p.tso = true) →
        (ordRel (vecOrd q.load tso q.ord) = true → s.hostBlocks s.clusterNo (vecScope tso q.scope) = false) →
        (∀ j, q.on s j → s.laneCheck (if q.load then .read else .write) (q.w / 8) j (q.addr j) (ones (q.w / 8)) =
          .ok ⟨j, BitVec.ofInt 64 (q.addr j), ones (q.w / 8), check j⟩ ∧ ∀ p, check j = .ok p → p.away = none) →
        ∀ j c v, q.on s j → check j = .error (c, v) → c ≠ .page →
          (∀ l, q.on s l → l < j → ∃ p, check l = .ok p) →
          ∃ u : State, exec i s = .next (u.takeTrap s.cur c v) ∧ u.pc = s.pc ∧ u.slot.task = s.slot.task ∧
            u.slot.cmtd = s.slot.cmtd ∧ (q.load = true → ∀ l, q.on s l →
              (q.g = 7 → (u.slot.laneDone.getLsbD l = true ↔ ∃ p, check l = .ok p) ∧ u.slot.lanePc = s.pc) ∧
              (q.g ≠ 7 → ((u.guard q.g).getLsbD l = false ↔ ∃ p, check l = .ok p))))

/-! ### Streams -/

/-- R86, R209, R210: a lane instruction with a bound destination traps ILLEGAL. With an unbound one, a first source that is
bound and has not ended decides: an element on a page refused to the task traps PERM (R311); with no element yet the instruction
waits, and a fault held with its element is taken; an absent page is met as by an access of the thread.
R205 to R208, R392: SCFG reads a configuration block and makes it the stream's, which is then bound to nothing; a
reserved bit or a hint of 3 traps ILLEGAL and a base or stride off a line traps ALIGN. SBIND binds a configured stream to an
unbound register with an engine of its own, or waits for one of the core's eight; SSTOP unbinds. -/
def Obligations.StreamRules : Prop :=
  (∀ (i : Instr) (s : State) (q : LaneOp), floatOp s i = some q ∨ plainOp s i = some q →
     (s.slot.isBound q.d = true → Traps i s .illegal (s.ir.setWidth 64)) ∧
     (s.slot.isBound q.d = false → ∀ (r : BitVec 5) (l : List (BitVec 5)) (k : BitVec 3), q.srcs = r :: l →
       s.slot.boundTo r = some k → (RegFile.read s.slot.z k).ended = false →
       let refused := fun (va : W64) => s.elemRefused (RegFile.read s.slot.z k) va
       (∀ va, (RegFile.read s.slot.z k).headVa = some va → refused va = true → Traps i s .perm va) ∧
       ((∀ va, (RegFile.read s.slot.z k).headVa = some va → refused va = false) →
       ((RegFile.read s.slot.z k).buf = [] → exec i s = .next (s.startWait 0 0 0)) ∧
       (∀ e b c va, (RegFile.read s.slot.z k).buf = e :: b → e.fault = some (c, va) →
         (c ≠ .page → exec i s = .next ((s.reportAt s.cur c va).takeTrap s.cur c va)) ∧ (c = .page → exec i s = .next (s.startMiss s.cur .read va)))))) ∧
  (∀ (s : State) (d : BitVec 3) (a b : BitVec 5) (g : BitVec 4), s.runs g = true → s.worker = true →
     let z := RegFile.read s.slot.z d
     let put := fun (y : Stream) => { s.view with z := upd s.view.z d y }
     (z.reg = none → ∀ p, addrFault (s.x a) 64 = false → (s.x a).toNat % 64 = 0 →
       s.translate s.core s.slot.job .read (s.x a) 64 = .ok p → p.away = none → s.hostHolds p 64 = false →
       vpnOf (s.x a) ∉ s.slot.deny → s.spoiled p 64 = false →
       let ord := if p.tso then 1 else 0
       let r := (s.touchTlb s.core s.slot.job (s.x a)).readAt p 64 0 ord (if p.tso then 4 else 0)
       let u := (s.refetch ord).view
       (blockBad r.1 = true → Traps (.scfg d a g) s .illegal (s.ir.setWidth 64)) ∧
       (blockBad r.1 = false → blockAlign r.1 = true → Traps (.scfg d a g) s .align (s.x a)) ∧
       (blockBad r.1 = false → blockAlign r.1 = false →
         CompletesFrom (.scfg d a g) s r.2 4 { u with z := upd u.z d { Stream.none with cfg := some (blockCfg r.1) } })) ∧
     (z.reg.isSome = true → Traps (.scfg d a g) s .illegal (s.ir.setWidth 64)) ∧
     (z.cfg.isSome = true → z.reg = none → s.slot.isBound b = false → s.enginesHeld s.core < 8 →
       Completes (.sbind d b g) s 4 (put { z with reg := some b, engine := true, buf := [] })) ∧
     (z.cfg.isSome = true → z.reg = none → s.slot.isBound b = false → 8 ≤ s.enginesHeld s.core →
       exec (.sbind d b g) s = .next (s.startWait 6 0 0)) ∧
     (z.cfg = none ∨ z.reg.isSome = true ∨ s.slot.isBound b = true → Traps (.sbind d b g) s .illegal (s.ir.setWidth 64)) ∧
     (z.reg.isSome = true → CompletesFrom (.sstop d g) s (s.dropStreamReqs s.cur (some d)) 4
       (put { z with reg := none, engine := false, buf := [] })) ∧
     (z.reg = none → Completes (.sstop d g) s 4 s.view))

/-! ### Matrix unit -/

/-- A matrix command that an instruction queues (R371): its guard, the accumulators it must hold, the pair whose latches it
reads, whether its accumulator must be even, and the command. -/
structure Sys2Proof.Machine.Queued where
  g : BitVec 4
  claims : List (BitVec 3)
  pair : Option Nat
  even : Option (BitVec 3)
  op : MOp

/-- MZERO and the MMAs; the scale registers are captured at issue (R376, R378). -/
def Sys2Proof.Machine.queuedOp (s : State) : Instr → Option Queued
  | .mzero d g => some ⟨g, [d], none, none, .zero d⟩
  | .mmaE4e4 d a b g => some ⟨g, [d], some 0, none, .mma 0 d (s.e a) (s.e b)⟩
  | .mmaE4e5 d a b g => some ⟨g, [d], some 1, none, .mma 1 d (s.e a) (s.e b)⟩
  | .mmaE5e4 d a b g => some ⟨g, [d], some 2, none, .mma 2 d (s.e a) (s.e b)⟩
  | .mmaE5e5 d a b g => some ⟨g, [d], some 3, none, .mma 3 d (s.e a) (s.e b)⟩
  | .mmaQ4e4 d a b g => some ⟨g, [d], some 4, none, .mma 4 d (s.e a) (s.e b)⟩
  | .mmaBf d g => some ⟨g, [d], some 5, none, .mma 5 d (s.e 0) (s.e 0)⟩
  | .mmaHf d g => some ⟨g, [d], some 6, none, .mma 6 d (s.e 0) (s.e 0)⟩
  | .mmaF32 d g => some ⟨g, [d], some 7, none, .mma 7 d (s.e 0) (s.e 0)⟩
  | .mmaF64 d g => some ⟨g, [d, d + 1], some 8, some d, .mma 8 d (s.e 0) (s.e 0)⟩
  | .mmaI8 d g => some ⟨g, [d], some 9, none, .mma 9 d (s.e 0) (s.e 0)⟩
  | _ => none

/-- The issuing core with a command at the end of its queue (R371). -/
def Sys2Proof.Machine.State.withCmd (s : State) (op : MOp) : State :=
  s.modCore s.core (fun c => { c with cmds := c.cmds ++ [⟨op, s.cur, s.slot.tid, s.slot.run, s.slot.job⟩] })

/-- R370, R371, R376, R378, R379: MZERO, MMA and MWR on claimed accumulators, with this run's latches of the pair's formats
and room in the queue, complete and queue their command; a missing claim or latch traps ILLEGAL; a full queue stalls.
R369, R374, R375, R377: MLDA and MLDB of an allowed layout, and MST and MST.W of claimed accumulators, translate their
range at issue, queue their command and complete; a load records its format and run for the latch it names. -/
def Obligations.MatrixCommands : Prop :=
  (∀ (s : State), s.worker = true →
     (∀ (i : Instr) (q : Queued), queuedOp s i = some q → s.runs q.g = true →
       let ok := (∀ d ∈ q.claims, s.holds d = true) ∧ (∀ d, q.even = some d → d.getLsbD 0 = false) ∧
         (∀ p, q.pair = some p → s.latchesOk p = true)
       (ok → (s.coreAt s.core).cmds.length < 2 → CompletesFrom i s (s.withCmd q.op) 4 s.view) ∧
       (ok → 2 ≤ (s.coreAt s.core).cmds.length → exec i s = .next (s.startWait 0 0 0)) ∧
       (¬ ok → Traps i s .illegal (s.ir.setWidth 64))) ∧
     ∀ (d : BitVec 3) (a b : BitVec 5) (g : BitVec 4), s.runs g = true →
       let ok := s.slot.isBound a = false ∧ (s.x b).toNat < 64 ∧ s.holds d = true
       (ok → (s.coreAt s.core).cmds.length < 2 → CompletesFrom (.mwr d a b g) s (s.withCmd (.row d (s.v a) (s.x b).toNat)) 4 s.view) ∧
       (¬ ok → Traps (.mwr d a b g) s .illegal (s.ir.setWidth 64))) ∧
  (∀ (s : State) (d : BitVec 3) (a b : BitVec 5) (g : BitVec 4) (pages : List Place), s.worker = true → s.runs g = true →
     (s.coreAt s.core).cmds.length < 2 →
     let va := s.x a
     let lay := s.x b
     let s1 := fun (n : Nat) => s.touchRange s.core s.slot.job va.toNat n
     let load := fun (i : Instr) (toB : Bool) => layoutBad toB lay = false → addrFault va (loadBytes lay) = false →
       va.toNat % 64 = 0 → s.cmdPages .read 3 va.toNat (loadBytes lay) = .ok pages →
       CompletesFrom i s (((s1 (loadBytes lay)).modCore s.core (recordLoad toB lay (layFmt lay, s.cur, s.slot.run))).withCmd (.load toB lay va pages)) 4
         s.view
     load (.mlda a b g) false ∧ load (.mldb a b g) true ∧
     (s.holds d = true → addrFault va 4096 = false → va.toNat % 64 = 0 → s.cmdPages .write 3 va.toNat 4096 = .ok pages →
       CompletesFrom (.mst d a g) s ((s1 4096).withCmd (.store false d va pages)) 4 s.view) ∧
     (d.getLsbD 0 = false → s.holds d = true → s.holds (d + 1) = true → addrFault va 8192 = false → va.toNat % 64 = 0 →
       s.cmdPages .write 3 va.toNat 8192 = .ok pages →
       CompletesFrom (.mstW d a g) s ((s1 8192).withCmd (.store true d va pages)) 4 s.view) ∧
     (s.holds d = false → Traps (.mst d a g) s .illegal (s.ir.setWidth 64)) ∧
     (layoutBad false lay = true → Traps (.mlda a b g) s .illegal (s.ir.setWidth 64)))

/-- The pair code, scale registers and guard of an RMMA (R378, R382). -/
def Sys2Proof.Machine.ringOp : Instr → Option (Nat × BitVec 3 × BitVec 3 × BitVec 4)
  | .rmmaE4e4 a b g => some (0, a, b, g)
  | .rmmaE4e5 a b g => some (1, a, b, g)
  | .rmmaE5e4 a b g => some (2, a, b, g)
  | .rmmaE5e5 a b g => some (3, a, b, g)
  | .rmmaQ4e4 a b g => some (4, a, b, g)
  | .rmmaBf g => some (5, 0, 0, g)
  | .rmmaHf g => some (6, 0, 0, g)
  | .rmmaF32 g => some (7, 0, 0, g)
  | .rmmaI8 g => some (9, 0, 0, g)
  | _ => none

/-- R382: RMMA. A member of its troupe's gang that holds all eight accumulators stands at it, its registers and PC as they
were. When all eight members stand at one pair and every queue has room, all eight RMMAs queue with their scales and
retire. A task outside the gang traps ILLEGAL.
R381: MGANG. A committed task takes the seat of its core's position and waits; the eighth arrival forms the gang and
every member's MGANG retires. A taken seat is waited for; an uncommitted task traps ILLEGAL. -/
def Obligations.GangAndRing : Prop :=
  (∀ (i : Instr) (s : State) (p : Nat) (a b : BitVec 3) (g : BitVec 4), ringOp i = some (p, a, b, g) → s.runs g = true →
     s.worker = true →
     let member := (s.gangAt s.troupe).formed = true ∧ (s.position, s.slot.tid) ∈ (s.gangAt s.troupe).seats
     (¬ member → Traps i s .illegal (s.ir.setWidth 64)) ∧
     (member → (∀ d, s.holds d = true) → s.latchesOk p = true →
       let u := (s.startWait 13 0 0).mod (fun t => { t with pend := some (.ring p a b s.ir) })
       let l := u.standing s.troupe
       (l.length ≠ 8 → exec i s = .next u) ∧ u.view = s.view ∧ u.pc = s.pc ∧
       (l.length = 8 → (l.map (fun m => sidCore m.1)).Nodup → (∃ m ∈ l, m.1 = s.cur) → (∀ m ∈ l, m.2.1 = p) →
         (∀ m ∈ l, (s.coreAt (sidCore m.1)).cmds.length < 2) →
         ∃ t, exec i s = .next t ∧ t.view = s.view ∧ t.pc = s.pc + 4 ∧ t.slot.pend = none ∧ t.slot.wait = none ∧ t.mem = s.mem ∧
           ∀ m ∈ l, (t.slotAt m.1).pc = (s.slotAt m.1).pc + 4 ∧ (t.slotAt m.1).view = (s.slotAt m.1).view ∧
             (t.coreAt (sidCore m.1)).cmds = (s.coreAt (sidCore m.1)).cmds ++
               [⟨.rmma p (RegFile.read (s.slotAt m.1).e m.2.2.1) (RegFile.read (s.slotAt m.1).e m.2.2.2.1), m.1,
                 (s.slotAt m.1).tid, (s.slotAt m.1).run, (s.slotAt m.1).job⟩]))) ∧
  (∀ (s : State) (g : BitVec 4), s.runs g = true → s.worker = true →
     let gang := s.gangAt s.troupe
     let seats := gang.seats ++ [(s.position, s.slot.tid)]
     (s.slot.cmtd = false → Traps (.mgang g) s .illegal (s.ir.setWidth 64)) ∧
     (s.slot.cmtd = true → (∃ e ∈ gang.seats, e.1 = s.position) → exec (.mgang g) s = .next (s.startWait 13 0 0)) ∧
     (s.slot.cmtd = true → (∀ e ∈ gang.seats, e.1 ≠ s.position) →
       (gang.seats.length ≠ 7 → ∃ t, exec (.mgang g) s = .next t ∧ t.view = s.view ∧ t.pc = s.pc ∧ t.slot.pend = some .gang ∧
         t.gangAt s.troupe = { gang with seats := seats }) ∧
       (gang.seats.length = 7 →
         let u := ((s.startWait 13 0 0).mod (fun t => { t with pend := some .gang })).setGang s.troupe
           { gang with seats := seats, formed := true }
         let s' := gang.seats.foldl (fun s e => s.retireTask e.2 4 id) u
         s'.slotOfTid s.slot.tid = some s.cur → s'.cur = s.cur ∧ CompletesFrom (.mgang g) s s' 4 s'.view ∧
           s'.gangAt s.troupe = { gang with seats := seats, formed := true })))

/-- R370, R374, R379, R380: MWAIT, MRD, MCLAIM, MFREE, ESET and ERD. An MCLAIM issued earlier that still waits is served first. -/
def Obligations.MatrixRegisters : Prop :=
  ∀ (s : State) (d : BitVec 3) (a b : BitVec 5) (g : BitVec 4), s.runs g = true → s.worker = true →
    let c := s.coreAt s.core
    let own := some s.slot.tid
    let x := (s.x b).toNat
    ((∀ m ∈ c.cmds, m.tid ≠ s.slot.tid) → s.slot.latchErr = none → Completes (.mwait g) s 4 s.view) ∧
    (∀ va, (∀ m ∈ c.cmds, m.tid ≠ s.slot.tid) → s.slot.latchErr = some va →
      exec (.mwait g) s = .next (((s.reportAt s.cur .mcheck va).mod (fun t => { t with latchErr := none })).takeTrap s.cur .mcheck va)) ∧
    ((∃ m ∈ c.cmds, m.tid = s.slot.tid) → exec (.mwait g) s = .next (s.startWait 0 0 0)) ∧
    (s.Unbound [a] → x < 64 → s.holds d = true → ((s.gangAt s.troupe).running = true → headRmma c = none) →
      ∃ V, Completes (.mrd a d b g) s 4 { s.view with v := upd s.v a V } ∧
        ∀ l, l < 16 → laneOf 32 V l = accElem (RegFile.read c.acc d) (x % 32) (x / 32 * 16 + l)) ∧
    (s.Unbound [a] → 64 ≤ x ∨ s.holds d = false → Traps (.mrd a d b g) s .illegal (s.ir.setWidth 64)) ∧
    (RegFile.read c.claim d = own → Completes (.mclaim d g) s 4 s.view) ∧
    (RegFile.read c.claim d = none → s.claimTurn d = true →
      exec (.mclaim d g) s = .next (s.startWait 12 (BitVec.ofNat 64 d.toNat) 0)) ∧
    (RegFile.read c.claim d = none → s.claimTurn d = false →
      let ext := if s.slot.ext = 0 then s.freeExt s.slot.job else s.slot.ext
      ext ≠ 0 → CompletesFrom (.mclaim d g) s ((s.mod (fun t =>
          { t with ext := ext, dirty := { t.dirty with a := t.dirty.a ||| accMask d } })).modCore s.core
        (fun c => { c with claim := RegFile.write c.claim d own })) 4 s.view) ∧
    (∀ o, RegFile.read c.claim d = some o → o ≠ s.slot.tid →
      exec (.mclaim d g) s = .next (s.startWait 12 (BitVec.ofNat 64 d.toNat) 0)) ∧
    (s.holds d = true → CompletesFrom (.mfree d g) s
      (s.modCore s.core (fun c => { c with freeing := setBit c.freeing d.toNat }.settle)) 4 s.view) ∧
    (s.holds d = false → Completes (.mfree d g) s 4 s.view) ∧
    Completes (.eset d a g) s 4 { s.view with e := upd s.view.e d ((s.x a).setWidth 32) } ∧
    GivesX (.erd a d g) s a ((s.e d).setWidth 64)

/-- R371, R376 to R379: the command at the head of a core's queue executes and leaves it: MZERO clears the accumulator, MWR
writes half a row, MMA adds the product of the latches in the pair's sums, MMA.F64 to each element's two halves in a pair of
accumulators, MST writes the accumulator's bytes over the pages translated at issue, MST.W the pair's elements of eight bytes, and a
load fills the latch it names. No other accumulator changes, and no byte of memory but by MST or a load's write-back.
When a command executes is the agenda's choice (log 1). -/
def Obligations.MatrixExecutes : Prop :=
  ∀ (core : Nat) (s : State) (m : MCmd) (rest : List MCmd), (s.coreAt core).cmds = m :: rest → isRmma m = false →
    (s.gangAt (coreTroupe core)).formed = false →
    let c := s.coreAt core
    ∃ t, exec (.matrixCommandExecute core) s = .next t ∧ (t.coreAt core).cmds = rest ∧
      (∀ d, m.op = .zero d → ∀ r k, r < 32 → k < 32 → accElem (RegFile.read (t.coreAt core).acc d) r k = 0) ∧
      (∀ d line sel, m.op = .row d line sel → sel < 64 → ∀ r k, r < 32 → k < 32 →
        accElem (RegFile.read (t.coreAt core).acc d) r k =
          if r = sel % 32 ∧ k / 16 = sel / 32 then laneOf 32 line (k % 16) else accElem (RegFile.read c.acc d) r k) ∧
      (∀ p d ea eb A, m.op = .mma p d ea eb → c.latchA = some A → A.bad = none → (∀ l ∈ c.latchB, l.bad = none) →
        (∀ l ∈ c.latchBhi, l.bad = none) → p ≠ 8 → ∀ r k, r < 32 → k < 32 →
        accElem (RegFile.read (t.coreAt core).acc d) r k = BitVec.ofNat 32
          (let x := (accElem (RegFile.read c.acc d) r k).toNat
           if p = 9 then accI8 A c.latchB c.latchBhi r k x
           else accF32 p A c.latchB c.latchBhi (pairScale p ea eb) r k x)) ∧
      (∀ d ea eb A, m.op = .mma 8 d ea eb → c.latchA = some A → A.bad = none → (∀ l ∈ c.latchB, l.bad = none) →
        ∀ r k, r < 32 → k < 32 →
        let both := fun (x : CoreSt) => accElem (RegFile.read x.acc (d + 1)) r k ++ accElem (RegFile.read x.acc d) r k
        both (t.coreAt core) = BitVec.ofNat 64 (accF64 A c.latchB c.latchBhi r k (both c).toNat)) ∧
      (∀ wide d va pages, m.op = .store wide d va pages →
        t.mem = (if wide then State.writePages (coreCluster core) pages s va.toNat 8192
            (packDigits 64 (fun k => accElem (RegFile.read c.acc (d + 1)) (k / 32) (k % 32) ++
              accElem (RegFile.read c.acc d) (k / 32) (k % 32)) 1024)
          else State.writePages (coreCluster core) pages s va.toNat 4096 (RegFile.read c.acc d).toNat).mem) ∧
      ((∀ wide d va pages, m.op ≠ .store wide d va pages) → (∀ toB lay va pages, m.op ≠ .load toB lay va pages) → t.mem = s.mem) ∧
      (∀ toB lay va pages, m.op = .load toB lay va pages → (∀ p ∈ pages, ∀ pa, p ≠ .held pa) → Memory.wf s.mem = true →
        ∀ a, memGet t.mem a = memGet s.mem a ∨ s.dirtyByte (coreCluster core) a = some (memGet t.mem a)) ∧
      (∀ toB lay va pages, m.op = .load toB lay va pages →
        let x := (State.readPages (coreCluster core) c.stale pages s va.toNat (loadBytes lay)).1
        ∃ l, (if toB then (if lay.getLsbD 5 then (t.coreAt core).latchBhi else (t.coreAt core).latchB)
            else (t.coreAt core).latchA) = some l ∧ l.layout = lay ∧ l.sid = m.sid ∧ l.run = m.run ∧
          l.tile = x % 2 ^ (8 * tileBytes (layFmt lay))) ∧
      (∀ e, m.op.names e = false → RegFile.read (t.coreAt core).acc e = RegFile.read c.acc e)

/-! ### Queues, messages and tasks -/

/-- R75, R122 to R124, R326: QPUSH and QPOP move one word when the queue allows it and no other slot has waited longer, the
task committed; otherwise they wait. QNPUSH never waits and says in X[d] whether it pushed; QCNT counts the words. -/
def Obligations.QueueResults : Prop :=
  ∀ (s s1 : State) (d : BitVec 5) (q : BitVec 2) (a : BitVec 5) (g : BitVec 4), s.runs g = true → s.worker = true →
    s.commit = .ok s1 →
    let l := RegFile.read (s.coreAt s.core).q q
    let put := fun (t : State) (l : List W64) => t.modCore s.core (fun c => { c with q := RegFile.write c.q q l })
    let served := s1.leaveQueues s.core s.cur
    (l.length < 8 → s.queueTurn q 1 = true → CompletesFrom (.qpush q a g) s (put served (l ++ [s.x a])) 4 s.view) ∧
    (¬ (l.length < 8 ∧ s.queueTurn q 1 = true) → exec (.qpush q a g) s = .next (s.queueWait q 1)) ∧
    (∀ x r, l = x :: r → s.queueTurn q 0 = true →
      CompletesFrom (.qpop d q g) s (put served r) 4 { s.view with x := updX s.x d x }) ∧
    (l = [] ∨ s.queueTurn q 0 = false → exec (.qpop d q g) s = .next (s.queueWait q 0)) ∧
    (l.length < 8 → CompletesFrom (.qnpush d q a g) s (put s1 (l ++ [s.x a])) 4 { s.view with x := updX s.x d 1 }) ∧
    (8 ≤ l.length → CompletesFrom (.qnpush d q a g) s s1 4 { s.view with x := updX s.x d 0 }) ∧
    GivesX (.qcnt d q g) s d (BitVec.ofNat 64 l.length)

/-- The fields of an image the issuing slot creates (R29): words 0 to 4, its launch with index 0, its source with the scope
of its release, the payload descriptor, register block, payload and job. -/
structure Sys2Proof.Machine.Created (s : State) (i : Image) (scope : Nat) (words : List W64) (w7 : W64) (regs : Option (List W64))
    (pay : List W64) : Prop where
  w0 : i.w0 = recWord words 0
  w1 : i.w1 = recWord words 1
  w2 : i.w2 = recWord words 2
  w3 : i.w3 = recWord words 3
  w4 : i.w4 = recWord words 4
  w5 : i.w5 = s.slot.launch ++ 0#32
  src : i.w6.extractLsb' 32 32 = s.srcNum s.cur
  scope : i.w6.extractLsb' 29 3 = BitVec.ofNat 3 scope
  w7 : i.w7 = w7
  regs : i.regs = regs
  pay : i.payload = pay
  job : i.job = s.slot.job

/-- From `s` to `t` the issuing slot released at a scope and created `n` images: every byte reads as before or as written
back, all dirty bytes of its cluster are in memory when the scope is PK or wider, and its launch's work count rose. -/
structure Sys2Proof.Machine.HandedOver (s t : State) (scope n : Nat) : Prop where
  bytes : MemoryFrame s t 0 0
  clean : 2 ≤ scope → ∀ a, t.dirtyByte s.clusterNo a = none ∧ memGet t.mem a = s.seenByte s.clusterNo a
  work : ∀ v, tfind s.launches s.slot.launch.toNat = some v →
    tfind t.launches s.slot.launch.toNat = some { v with work := v.work + n }

/-- The scope SEND, SENDL, HOP and HOP.V release at for a core of this package (R49): code 7 is the smallest scope that
contains both cores; CO and CL hold worker cores alone (R278). -/
def Sys2Proof.Machine.scopeFor (s : State) (sc : BitVec 3) (core : Nat) : Nat :=
  if sc = 7 then (if coreCluster s.core = coreCluster core ∧ isWorkerCore s.core = true ∧ isWorkerCore core = true then
    (if s.core = core then 0 else 1) else 2)
  else sc.toNat

/-- The 64-byte block at `va` lies on this package and may be read (R126, R127, R129). -/
structure Sys2Proof.Machine.BlockReadable (s : State) (va : W64) (p : Place) : Prop where
  range : addrFault va 64 = false
  aligned : va.toNat % 64 = 0
  place : s.translate s.core s.slot.job .read va 64 = .ok p
  here : p.away = none
  plain : ∀ pa, p ≠ .held pa
  granted : vpnOf va ∉ s.slot.deny
  free : s.hostHolds p 64 = false
  sound : s.spoiled p 64 = false

/-- The block an instruction reads for itself, and the package after it: .rlx at CO, or .acq at SY on a TSO page (R294). -/
def Sys2Proof.Machine.State.blockRead (s : State) (va : W64) (p : Place) : Nat × State :=
  (s.touchTlb s.core s.slot.job va).readAt p 64 0 (if p.tso then 1 else 0) (if p.tso then 4 else 0)

/-- A kind-0 target word that names a core of this package the sender may address (R32). -/
structure Sys2Proof.Machine.TargetHere (s : State) (x : W64) : Prop where
  kind : targetKind x = 0
  ok : targetOk x = true
  worker : s.worker = true → isWorkerCore (targetCore x) = true
  pkg : targetPkg x = s.pkg.toNat

/-- The sub-queue has room, the task has committed in `s1`, and its release finds no line the host holds (R34, R38, R49). -/
structure Sys2Proof.Machine.CanSend (s s1 : State) (core : Nat) (w0 : W64) (scope : Nat) : Prop where
  image : imageBad w0 = false
  room : s.hasRoom (s.liveCore core) (w0.toNat / 64 % 4) = true
  commit : s.commit = .ok s1
  release : s.hostBlocks s.clusterNo scope = false

/-- A kind-1 target word that names a ring of this package which the sender's job may use (R411). -/
structure Sys2Proof.Machine.RingHere (s : State) (x : W64) : Prop where
  kind : targetKind x = 1
  zero : x.toNat / 2 ^ 26 % 2 ^ 36 = 0 ∧ x.toNat / 2 ^ 10 % 2 ^ 6 = 0
  pkg : targetPkg x = s.pkg.toNat
  on : (s.ring (targetRing x)).on = true
  job : (s.ring (targetRing x)).cfg.setWidth 32 = s.slot.job

/-- A kind-0 target word that names a core of another package of the job's load-store domain (R32). -/
structure Sys2Proof.Machine.TargetAway (s : State) (x : W64) : Prop where
  kind : targetKind x = 0
  ok : targetOk x = true
  worker : s.worker = true → isWorkerCore (targetCore x) = true
  pkg : targetPkg x ≠ s.pkg.toNat
  domain : s.inDomain s.slot.job (targetPkg x) = true

/-- R29 to R32, R34, R49, R126, R127: SEND and SENDL to a core of this package complete. The image of the block's words (and
the payload of X[b] for SENDL) is on its way to the core after a release at the scope; no register changes, but for what the
streams had fetched ahead of an acquire (R211).
R126, R411 to R413: SEND to a ring of this package that is not full completes after a release at SY: the entry at TAIL holds the
block's first five words, the launch, the source, the type 1 and the phase; TAIL rises by one and one MSI-X message is on the
ring's vector. To a full ring it waits.
R119, R126, R127: SEND and SENDL to a core of another package send one request that carries the image, after a release at the
scope, which .auto makes PD; the thread issues nothing until the answer, and no register has changed. The frame that
its commit needs is reserved (log 49). -/
def Obligations.MessagesSent : Prop :=
  (∀ (s s1 : State) (d a b : BitVec 5) (o : BitVec 1) (sc : BitVec 3) (g : BitVec 4) (va : W64) (p : Place), s.runs g = true →
    Memory.wf s.mem = true → TargetHere s (s.x d) → BlockReadable s va p →
    let core := targetCore (s.x d)
    let r := s.blockRead va p
    let words := (List.range 8).map (word64 r.1)
    let scope := scopeFor s sc core
    CanSend r.2 s1 core (recWord words 0) scope →
    let sent := fun (i : Instr) (w7 : W64) (pay : List W64) => ∃ s' m, CompletesFrom i s s' 4 (s.refetch (if p.tso then 1 else 0)).view ∧
      s'.flight = s.flight ++ [m] ∧ m.dest = s.liveCore core ∧ Created s m.img scope words w7 none pay ∧ HandedOver s s' scope 1
    ((s.x a).toNat + (o.toNat * 32 + b.toNat) * 64 = va.toNat → sent (.send d a b sc o g) 0 []) ∧
    (s.x a = va → payloadBad (s.x b) = false → sent (.sendl d a b sc g) (s.x b) (r.2.payload (s.x b)))) ∧
  (∀ (s s1 : State) (d a b : BitVec 5) (o : BitVec 1) (sc : BitVec 3) (g : BitVec 4) (va : W64) (p : Place), s.runs g = true →
    Memory.wf s.mem = true → RingHere s (s.x d) → BlockReadable s va p → (s.x a).toNat + (o.toNat * 32 + b.toNat) * 64 = va.toNat →
    let n := targetRing (s.x d)
    let ring := s.ring n
    let r := s.blockRead va p
    (ring.full = true → exec (.send d a b sc o g) s = .next (s.startWait 5 (BitVec.ofNat 64 n) 0)) ∧
    (ring.full = false → r.2.commit = .ok s1 → r.2.hostBlocks s.clusterNo 4 = false →
      ∃ s', CompletesFrom (.send d a b sc o g) s s' 4 (s.refetch (if p.tso then 1 else 0)).view ∧
        s'.ring n = { ring with tail := (ring.tail + 1) % 2 ^ 32 } ∧ (∀ k, k ≠ n → s'.ring k = s.ring k) ∧
        s'.host.msix = s.host.msix ++ [((ring.cfg.toNat / 2 ^ 56) % 2 ^ 7, (ring.cfg.toNat / 2 ^ 42) % 2 ^ 6)] ∧
        ∀ k, k < 8 → word64 (memRead s'.mem (hostBase + ring.base.toNat + 64 * (ring.tail % 2 ^ ring.log2n)) 64) k =
          if k < 5 then word64 r.1 k else if k = 5 then s.slot.launch ++ 0#32 else if k = 6 then s.srcNum s.cur ++ 0#32
          else BitVec.ofNat 64 (2 ^ 56 + (1 - ring.tail / 2 ^ ring.log2n % 2)))) ∧
  (∀ (s s1 : State) (d a b : BitVec 5) (o : BitVec 1) (sc : BitVec 3) (g : BitVec 4) (va : W64) (p : Place), s.runs g = true →
    Memory.wf s.mem = true → TargetAway s (s.x d) → BlockReadable s va p →
    let r := s.blockRead va p
    let words := (List.range 8).map (word64 r.1)
    let w0 := recWord words 0
    let scope := if sc = 7 then 3 else sc.toNat
    imageBad w0 = false → w0.getLsbD 3 = false → r.2.reserve = .ok s1 → r.2.hostBlocks s.clusterNo scope = false →
    let leaves := fun (i : Instr) (w7 : W64) (pay : List W64) => ∃ t q m, exec i s = .next t ∧ t.reqs = s.reqs ++ [q] ∧
      q.target = s.x d ∧ q.pkg = targetPkg (s.x d) ∧ q.sid = s.cur ∧ q.tid = s.slot.tid ∧ q.img = some m ∧
      Created s m scope words w7 none pay ∧ HandedOver s t scope 1 ∧ t.slot.pend = some (.remote 4 7 [q.rid] none 0 0xFFFF) ∧
      t.view = (s.refetch (if p.tso then 1 else 0)).view ∧ t.pc = s.pc ∧ t.slot.cmtd = s.slot.cmtd ∧
      (s.slot.cmtd = false → t.slot.frame ≠ 0)
    ((s.x a).toNat + (o.toNat * 32 + b.toNat) * 64 = va.toNat → leaves (.send d a b sc o g) 0 []) ∧
    (s.x a = va → payloadBad (s.x b) = false → leaves (.sendl d a b sc g) (s.x b) (r.2.payload (s.x b))))

/-- R30, R35, R36, R61, R129: SPAWN and SPAWNN complete: the image, or one entry that stands for N images of ascending index,
is at the bottom of the own deque, or at the tail of the own sub-queue when it is urgent or the deque is full. SPAWNN with
N = 0 only commits. An ordered image for the own sub-queue waits for those of the task that are still on their way to it (R51).
R42, R49, R128, R316: HOP to a core of this package and HOP.V to the home of a virtual address on it: the continuation
(X[a], x1 to x4, beside it x5 to x8 and the payload) is on its way after a release, and the task has ended here. -/
def Obligations.SpawnsAndHops : Prop :=
  (∀ (s s1 : State) (d a b : BitVec 5) (sc : BitVec 3) (g : BitVec 4) (va : W64) (p : Place), s.runs g = true →
     Memory.wf s.mem = true → (s.x a).toNat + b.toNat * 64 = va.toNat → BlockReadable s va p →
     let r := s.blockRead va p
     let words := (List.range 8).map (word64 r.1)
     let w0 := recWord words 0
     let scope := if sc = 7 then 0 else sc.toNat
     let c := s.coreAt s.core
     let after := (s.refetch (if p.tso then 1 else 0)).view
     imageBad w0 = false → r.2.commit = .ok s1 → r.2.hostBlocks s.clusterNo scope = false → s.ordBehind w0 = false →
     let room := (w0.getLsbD 4 = false ∧ c.deque.length < 512) ∨ s.hasRoom s.core (w0.toNat / 64 % 4) = true
     let pushed := fun (i : Instr) (fan : Option (Nat × Nat)) (n : Nat) => ∃ s' e, CompletesFrom i s s' 4 after ∧
       Created s e.img scope words 0 none [] ∧ e.fan = fan ∧ HandedOver s s' scope n ∧
       (w0.getLsbD 4 = false → c.deque.length < 512 → (s'.coreAt s.core).deque = c.deque ++ [e]) ∧
       (w0.getLsbD 4 = true ∨ 512 ≤ c.deque.length → (s'.coreAt s.core).deque = c.deque ∧
         subQueue (s'.coreAt s.core) (w0.toNat / 64 % 4) = subQueue c (w0.toNat / 64 % 4) ++ [e])
     (room → pushed (.spawn a b sc g) none 1) ∧
     (room → s.x d ≠ 0 → (s.x d).toNat ≤ 2 ^ 32 → pushed (.spawnn d a b sc g) (some ((s.x d).toNat, 0)) (s.x d).toNat) ∧
     (s.x d = 0 → CompletesFrom (.spawnn d a b sc g) s s1 4 after)) ∧
  (∀ (s s1 : State) (d a b : BitVec 5) (sc : BitVec 3) (g : BitVec 4) (core : Nat), s.runs g = true → Memory.wf s.mem = true →
     payloadBad (s.x b) = false →
     CanSend s s1 core (s.x a) (scopeFor s sc core) →
     let hops := fun (i : Instr) => ∃ s' m, exec i s = .next (s'.doneTask s.cur) ∧ s'.flight = s.flight ++ [m] ∧
       m.dest = s.liveCore core ∧ Created s m.img (scopeFor s sc core) [s.x a, s.x 1, s.x 2, s.x 3, s.x 4] (s.x b)
         (some [s.x 5, s.x 6, s.x 7, s.x 8]) (s.payload (s.x b)) ∧
       HandedOver s s' (scopeFor s sc core) 1 ∧ s'.view = s.view ∧ s'.pc = s.pc
     (TargetHere s (s.x d) → targetCore (s.x d) = core → hops (.hop d a b sc g)) ∧
     (canonical (s.x d) = true → s.homeOfVa (s.x d) = .ok (.here core) → hops (.hopV d a b sc g)))


/-- R38, R42, R45, R46, R64, R131, R132, R326: the task instructions. COMMIT commits the task, with a frame; DONE ends it, its
slot is free and its launch has one image less; YIELD waits for the core's other ready slots; PRIO sets the base class; UMASK
opens the core's urgent window and UNMASK closes it; CNTADD adds to the launch's counter. R47, R48, R131: CANCEL. A worker that
names a job, or what other jobs alone hold, traps PERM; words 61:32 other than zero name nothing, and a launch of another package
is asked of its home, the frame of the commit reserved. A worker's name of level 3 with such words set traps too (log 89).
Otherwise the task commits, what the name covers is cancelled (of a worker's own job, of every job for a service core), and the
instruction completes, unless its own launch is among it: then the task ends. -/
def Obligations.TaskEndsAndCancels : Prop :=
  (∀ (s : State) (a : BitVec 5) (c : BitVec 2) (g : BitVec 4), s.runs g = true →
     let k := s.coreAt s.core
     (∀ s1, s.commit = .ok s1 → CompletesFrom (.commit g) s s1 4 s.view ∧ s1.slot.cmtd = true ∧ (s.slot.cmtd = false → s1.slot.frame ≠ 0)) ∧
     (s.slot.cmtd = false → s.slot.frame = 0 → s.freeFrame s.slot.job = 0 → exec (.commit g) s = .next (s.startWait 10 0 0)) ∧
     (∀ v, tfind s.launches s.slot.launch.toNat = some v → 2 ≤ v.work → (∀ m ∈ k.cmds, m.tid ≠ s.slot.tid) →
       (∀ e ∈ (s.gangAt s.troupe).seats, e.2 ≠ s.slot.tid) → ∃ t, exec (.done g) s = .next t ∧ t.slot.task = none ∧
         (∀ j, j ≠ s.cur → t.slotAt j = s.slotAt j) ∧ (∀ j, memGet t.mem j = memGet s.mem j) ∧
         tfind t.launches s.slot.launch.toNat = some { v with work := v.work - 1 }) ∧
     (s.yieldSet = [] → Completes (.yield g) s 4 s.view) ∧
     (s.yieldSet ≠ [] → CompletesFrom (.yield g) s (s.mod (fun t => { t with yielding := some (s.yieldSet, s.cyc) })) 4 s.view) ∧
     Completes (.prio c g) s 4 { s.view with prio := c } ∧
     (s.worker = true → sidNum s.cur < 4 → k.opener = none → k.heldHeads = [] → ∃ t, exec (.umask g) s = .next t ∧
       t.view = s.view ∧ t.pc = s.pc + 4 ∧ t.mem = s.mem ∧ t.coreAt s.core = { k with opener := some s.cur, retired := 0, opened := some (s.cur, s.cyc) }) ∧
     (¬ (s.worker = true ∧ sidNum s.cur < 4 ∧ k.opener = none ∧ k.heldHeads = []) → Completes (.umask g) s 4 s.view) ∧
     CompletesFrom (.unmask g) s (s.closeIfOpener s.cur) 4 s.view ∧ ((s.closeIfOpener s.cur).coreAt s.core).opener ≠ some s.cur ∧
     (∀ s1, s.commit = .ok s1 →
       let u := s1.modLaunch s.slot.launch (fun v => { v with counter := v.counter + s.x a })
       CompletesFrom (.cntadd a g) s (u.completeLaunch s.slot.launch) 4 (u.completeLaunch s.slot.launch).view ∧
       ∀ v, tfind s.launches s.slot.launch.toNat = some v → v.work ≠ 0 → u.completeLaunch s.slot.launch = u ∧ u.view = s.view ∧
         tfind u.launches s.slot.launch.toNat = some { v with counter := v.counter + s.x a })) ∧
  (∀ (s s1 : State) (a : BitVec 5) (g : BitVec 4), s.runs g = true → s.commit = .ok s1 →
     let name := s.x a
     let mine := fun (j : W32) => !s.worker || j == s.slot.job
     let u := s1.cancelName name mine
     let own := (tfind u.launches s.slot.launch.toNat).any (·.cancelled)
     (s.worker = true → name.toNat / 2 ^ 62 = 3 → ∃ v, exec (.cancel a g) s = .next (s.nextFree64.2.takeTrap s.cur .perm v)) ∧
     (s.worker = false ∨ name.toNat / 2 ^ 62 ≠ 3 → name.toNat / 2 ^ 32 % 2 ^ 30 ≠ 0 → CompletesFrom (.cancel a g) s s1 4 s.view) ∧
     (s.worker = false ∨ name.toNat / 2 ^ 62 ≠ 3 → name.toNat / 2 ^ 32 % 2 ^ 30 = 0 → s.decidedAway name = true →
       ∀ r, s.reserve = .ok r → ∃ t, exec (.cancel a g) s = .next t ∧ t.slot.pend = some (.cancel name) ∧ t.view = s.view ∧
         t.pc = s.pc ∧ t.slot.cmtd = s.slot.cmtd ∧ (s.slot.cmtd = false → t.slot.frame ≠ 0)) ∧
     (s.worker = false ∨ name.toNat / 2 ^ 62 ≠ 3 → name.toNat / 2 ^ 32 % 2 ^ 30 = 0 → s.decidedAway name = false →
       s.nameJobs name ≠ [] → (∀ j ∈ s.nameJobs name, mine j = false) →
       ∃ v, exec (.cancel a g) s = .next (s.nextFree64.2.takeTrap s.cur .perm v)) ∧
     (s.worker = false ∨ name.toNat / 2 ^ 62 ≠ 3 → name.toNat / 2 ^ 32 % 2 ^ 30 = 0 → s.decidedAway name = false →
       (s.nameJobs name = [] ∨ ∃ j ∈ s.nameJobs name, mine j = true) →
       (own = false → CompletesFrom (.cancel a g) s u 4 u.view) ∧
       (own = true → exec (.cancel a g) s = .next ((u.retire 4).endTask u.cur))))

/-! ### Whirligig regions, engines and lookups -/

/-- The region of a row block the issuing worker may use (R272). -/
structure Sys2Proof.Machine.RowOk (s : State) (va : W64) (r : Region) : Prop where
  worker : s.worker = true
  canonical : canonical va = true
  aligned : va.toNat % 64 = 0
  region : s.regionOf s.slot.job va = some r

/-- The current lap of a region, and the tag a minimum lap gives (R238, R241). -/
def Sys2Proof.Machine.lapNow (s : State) (r : Region) : Nat := (s.gtsNow - r.origin) / r.period
def Sys2Proof.Machine.tagOf (s : State) (r : Region) (minLap : W64) : Nat := max minLap.toNat (lapNow s r + r.dist)

/-- A request for a row block as it leaves (R240, R241): kind, block, tag, the slot's next sequence number, source, launch,
task, data and holder package. -/
structure Sys2Proof.Machine.RowRequest (s : State) (r : Region) (w : WReq) (num : Nat) (block minLap : W64) (line : Vec) : Prop where
  num : w.num = num
  va : w.va = block
  tag : w.tag = tagOf s r minLap
  seq : w.seq = tget 0 s.issueSeq s.cur
  src : w.src = s.srcNum s.cur
  launch : w.launch = s.slot.launch
  task : w.sid = s.cur ∧ w.tid = s.slot.tid
  line : w.line = line
  holder : w.holder = r.first + (block.toNat - r.base) / (r.sizeg * 2 ^ 30 / r.npkg)

/-- R238, R240, R241, R273, R274: WREAD sends its request, with X[b] as minimum lap, and the thread waits for the answer with
its registers as they are. WADD, WSET and WMAX, with X[d] as minimum lap, send the 64 bytes of V[b], the task committed, and
complete at once. A tag more than 255 laps ahead stalls them.
R238, R272, R275: WLAP writes the current lap of the address's region to X[d]. Off the worker cores the whirligig
instructions trap ILLEGAL; then an address that is not canonical traps ADDR, one off a row block's 64 bytes traps ALIGN (but
for WLAP), and one in no region of the job traps PERM. -/
def Obligations.WhirligigRequests : Prop :=
  (∀ (s : State) (d a b : BitVec 5) (g : BitVec 4) (r : Region), s.runs g = true → RowOk s (s.x a) r →
     let va := s.x a
     (s.Unbound [d] → tagOf s r (s.x b) ≤ lapNow s r + 255 → ∃ t w, exec (.wread d a b g) s = .next t ∧
       t.wreqs = s.wreqs ++ [w] ∧ RowRequest s r w 64 va (s.x b) 0 ∧ t.slot.pend = some (.wread d b va) ∧ t.view = s.view ∧
       t.pc = s.pc ∧ t.mem = s.mem ∧ tget 0 t.issueSeq s.cur = w.seq + 1) ∧
     (s.Unbound [d] → lapNow s r + 255 < tagOf s r (s.x b) → exec (.wread d a b g) s = .next (s.startWait 8 va 0)) ∧
     (∀ (i : Instr) (num : Nat), i = .wadd d a b g ∧ num = 65 ∨ i = .wset d a b g ∧ num = 66 ∨ i = .wmax d a b g ∧ num = 67 →
       (lapNow s r + 255 < tagOf s r (s.x d) → exec i s = .next (s.startWait 8 va 0)) ∧
       (tagOf s r (s.x d) ≤ lapNow s r + 255 → s.ElemsReady [b] → ∀ s1 s2, s.takeElems [b] = .ok s1 → s1.commit = .ok s2 →
         ∃ s' w, CompletesFrom i s s' 4 { s.view with z := s.zAfter [b] } ∧ s'.wreqs = s.wreqs ++ [w] ∧
           RowRequest s r w num va (s.x d) (s.vin b) ∧ s'.slot.cmtd = true ∧ s'.mem = s.mem ∧
           tget 0 s'.issueSeq s.cur = w.seq + 1))) ∧
  (∀ (s : State) (d a b : BitVec 5) (g : BitVec 4), s.runs g = true →
     let va := s.x a
     let all := fun (c : Cause) (v : W64) => Traps (.wlap d a g) s c v ∧ Traps (.wadd d a b g) s c v ∧
       Traps (.wset d a b g) s c v ∧ Traps (.wmax d a b g) s c v ∧ (s.slot.isBound d = false → Traps (.wread d a b g) s c v)
     (∀ r, s.worker = true → canonical va = true → s.regionOf s.slot.job va = some r →
       GivesX (.wlap d a g) s d (BitVec.ofNat 64 (lapNow s r))) ∧
     (s.worker = false → all .illegal (s.ir.setWidth 64)) ∧
     (s.worker = true → canonical va = false → all .addr va) ∧
     (s.worker = true → canonical va = true → va.toNat % 64 ≠ 0 → Traps (.wadd d a b g) s .align va ∧
       Traps (.wset d a b g) s .align va ∧ Traps (.wmax d a b g) s .align va) ∧
     (s.worker = true → canonical va = true → va.toNat % 64 = 0 → s.regionOf s.slot.job va = none → all .perm va) ∧
     (s.slot.isBound d = true → Traps (.wread d a b g) s .illegal (s.ir.setWidth 64)))

/-- R270, R271: TWALK, TWB and TDEAL read a block of 32 bytes and PERMIT its word from X[a]; when the engine has room the
task commits, the command is with the engine and the instruction completes. A handler address below 2^8 or a reserved bit
traps ILLEGAL; an engine that holds sixteen commands of the core is waited for.
R172, R173: PKLOOK, PKSCORE, PKGW and PKRES hand the addresses of a request block (64 bytes) and a descriptor (128 bytes)
of this package and the tag in X[d] to the lookup unit, the task committed and released at PK, and complete. A tag of more
than 16 bits traps ILLEGAL; a block or descriptor on another package or the host traps PERM. -/
def Obligations.EngineAndLookupCommands : Prop :=
  (∀ (s s1 : State) (a : BitVec 5) (e : BitVec 1) (g : BitVec 4), s.runs g = true → s.worker = true → Memory.wf s.mem = true →
     let leaves := fun (i : Instr) (s0 : State) (kind : Nat) (w1 w2 w3 w4 : W64) (v : Regs) => ∃ s' c, CompletesFrom i s s' 4 v ∧
       (s'.engine s.clusterNo e.toNat).cmds = (s0.engine s.clusterNo e.toNat).cmds ++ [c] ∧ c.kind = kind ∧ c.w1 = w1 ∧
       c.w2 = w2 ∧ c.w3 = w3 ∧ c.w4 = w4 ∧ c.sid = s.cur ∧ c.tid = s.slot.tid ∧ c.launch = s.slot.launch ∧
       MemoryFrame s s' 0 0 ∧ s'.slot.cmtd = true
     (∀ p, addrFault (s.x a) 32 = false → (s.x a).toNat % 32 = 0 → s.translate s.core s.slot.job .read (s.x a) 32 = .ok p →
       p.away = none → (∀ pa, p ≠ .held pa) → s.hostHolds p 32 = false → vpnOf (s.x a) ∉ s.slot.deny →
       s.spoiled p 32 = false →
       let ord := if p.tso then 1 else 0
       let r := (s.touchTlb s.core s.slot.job (s.x a)).readAt p 32 0 ord (if p.tso then 4 else 0)
       let v := (s.refetch ord).view
       let w := fun k => word64 r.1 k
       let h := (w 3).toNat / 2 ^ 8
       (h = 0 ∨ (2 ≤ h ∧ h ≤ 255) ∨ (w 3).toNat % 64 ≠ 0 → Traps (.twalk a e g) s .illegal (s.ir.setWidth 64) ∧
         Traps (.twb a e g) s .illegal (s.ir.setWidth 64) ∧ Traps (.tdeal a e g) s .illegal (s.ir.setWidth 64)) ∧
       (¬ (h = 0 ∨ (2 ≤ h ∧ h ≤ 255) ∨ (w 3).toNat % 64 ≠ 0) → s.engFull e.toNat = true →
         exec (.twalk a e g) s = .next (s.startWait 11 0 0) ∧ exec (.twb a e g) s = .next (s.startWait 11 0 0) ∧
         exec (.tdeal a e g) s = .next (s.startWait 11 0 0)) ∧
       (¬ (h = 0 ∨ (2 ≤ h ∧ h ≤ 255) ∨ (w 3).toNat % 64 ≠ 0) → s.engFull e.toNat = false → r.2.commit = .ok s1 →
         leaves (.twalk a e g) s1 0 (w 0) (w 1) (w 2) (w 3) v ∧ leaves (.twb a e g) s1 1 (w 0) (w 1) (w 2) (w 3) v ∧
         leaves (.tdeal a e g) s1 2 (w 0) (w 1) (w 2) (w 3) v)) ∧
     (let w := (s.x a).toNat
      let bad := w / 2 ^ 59 % 16 ≠ 0 ∨ w / 2 ^ 19 % 2 ^ 9 ≠ 0 ∨ w % 64 ≠ 0 ∨ (2 ^ 63 ≤ w ∧ permBase (s.x a) = 0)
      let outside := 2 ^ 63 ≤ w ∧ 0x70000 < permBase (s.x a) + permSlots (s.x a) * permLen (s.x a)
      (bad → Traps (.permit a e g) s .illegal (s.ir.setWidth 64)) ∧
      (¬ bad → outside → ∃ v, exec (.permit a e g) s = .next (s.nextFree64.2.takeTrap s.cur .perm v)) ∧
      (¬ bad → ¬ outside → s.engFull e.toNat = true → exec (.permit a e g) s = .next (s.startWait 11 0 0)) ∧
      (¬ bad → ¬ outside → s.engFull e.toNat = false → s.commit = .ok s1 → leaves (.permit a e g) s1 3 (s.x a) 0 0 0 s.view))) ∧
  (∀ (s s1 : State) (i : Instr) (d a b : BitVec 5) (g : BitVec 4) (member : Nat),
     i = .pklook d a b g ∧ member = 0 ∨ i = .pkscore d a b g ∧ member = 1 ∨ i = .pkgw d a b g ∧ member = 2 ∨
       i = .pkres d a b g ∧ member = 3 →
     s.runs g = true → s.worker = true → Memory.wf s.mem = true →
     let ra := s.x a
     let da := s.x b
     (2 ^ 16 ≤ (s.x d).toNat → Traps i s .illegal (s.ir.setWidth 64)) ∧
     ((s.x d).toNat < 2 ^ 16 → ∀ p q, addrFault ra 64 = false → ra.toNat % 64 = 0 → addrFault da 128 = false → da.toNat % 128 = 0 →
       s.translate s.core s.slot.job .write ra 64 = .ok p → s.translate s.core s.slot.job .read da 128 = .ok q →
       s.hostHolds p 64 = false → s.hostHolds q 128 = false → vpnOf ra ∉ s.slot.deny → vpnOf da ∉ s.slot.deny →
       (p.away ≠ none → Traps i s .perm ra) ∧ (p.away = none → q.away ≠ none → Traps i s .perm da) ∧
       (p.away = none → q.away = none → (s.pklu s.clusterNo).look.length < 256 → s.commit = .ok s1 →
         s.hostBlocks s.clusterNo 2 = false → ∃ s' l, CompletesFrom i s s' 4 s.view ∧
           (s'.pklu s.clusterNo).look = (s.pklu s.clusterNo).look ++ [l] ∧ l.member = member ∧ l.req = ra ∧ l.desc = da ∧ l.reqAt = p ∧ l.descAt = q ∧ l.arrived = s.cyc ∧
           l.tag = (s.x d).setWidth 16 ∧ l.sid = s.cur ∧ l.tid = s.slot.tid ∧ l.launch = s.slot.launch ∧
           s'.slot.cmtd = true ∧ MemoryFrame s s' 0 0 ∧
           ∀ c, s'.dirtyByte s.clusterNo c = none ∧ memGet s'.mem c = s.seenByte s.clusterNo c)))

/-! ### System instructions and exceptions -/

/-- R77, R78, R146, R147, R394, R402: SRD of a register the slot may read completes with its value, zero-extended. SWR writes the
existing bits of FSR, FEN, RNRLIM (0 stores 1), and on a steward SLICETAB, PWRLIM, LINKSEL and the bits of HLTHST that a 1 clears;
values out of range trap ILLEGAL. SWR of a register that is read-only for the slot traps PERM (its TRAPVAL is open, log 18): those
of the user class, and of the system class what R394 marks RO for the core. What R394 bars a service core from, and the system
class 0x100 to 0x10B for a worker core, traps PRIV. -/
def Obligations.SpecialRegisters : Prop :=
  ∀ (s : State) (d n : BitVec 5) (m g : BitVec 4) (a : BitVec 5),
    let num := 32 * m.toNat + n.toNat
    let t := s.slot
    let x := s.x a
    let reads := fun (k : Nat) (v : W64) => num = k → s.runs g = true → GivesX (.srd d n m g) s d v
    let writes := fun (k : Nat) (v : Regs) => num = k → s.runs g = true → Completes (.swr a n m g) s 4 v
    let steward := fun (k : Nat) (u : State) => num = k → isSteward s.core = true → s.runs g = true →
      CompletesFrom (.swr a n m g) s u 4 s.view
    let barred := Traps (.srd d n m g) s .priv (s.ir.setWidth 64) ∧ Traps (.swr a n m g) s .priv (s.ir.setWidth 64)
    let ro := fun (k : Nat) => num = k → s.runs g = true →
      ∃ v, exec (.swr a n m g) s = .next (s.nextFree64.2.takeTrap s.cur .perm v)
    reads 0 ((s.srcNum s.cur).setWidth 64) ∧ reads 1 ((t.image.w5.setWidth 32).setWidth 64) ∧ reads 2 t.image.w5 ∧
    reads 3 (BitVec.ofNat 64 s.gtsNow) ∧ reads 4 (BitVec.ofNat 64 s.cyc) ∧ reads 5 (t.fsr.setWidth 64) ∧
    reads 6 (t.fen.setWidth 64) ∧ reads 7 (t.prio.setWidth 64) ∧ reads 8 (t.rnrlim.setWidth 64) ∧
    reads 9 (if t.cmtd then 1 else 0) ∧ reads 10 (BitVec.ofNat 64 (s.issueClass s.cur)) ∧ reads 11 (s.health.eolhrs.setWidth 64) ∧
    (isEsc s.core = true ∨ isSteward s.core = true →
      reads 0x100 (t.sys.cause.setWidth 64) ∧ reads 0x102 t.sys.pc ∧ reads 0x104 t.sys.frm) ∧
    (isTsc s.core = true → reads 0x105 t.sys.base1 ∧ reads 0x106 t.sys.base2) ∧
    (s.worker = false → isTsc s.core = true ∨ isEsc s.core = true ∨ isSteward s.core = true →
      reads 0x101 (t.sys.src.setWidth 64) ∧ reads 0x103 t.sys.val ∧ reads 0x107 (t.sys.vf.setWidth 64) ∧
      reads 0x108 (s.sched.pending.getD s.sched.slicetab) ∧ reads 0x109 (s.health.pwrlim.setWidth 64) ∧
      reads 0x10B s.health.hlthst) ∧
    (isSteward s.core = true → reads 0x10A (s.health.linksel.setWidth 64)) ∧
    writes 5 { s.view with fsr := x.setWidth 32 &&& 0x33F } ∧ writes 6 { s.view with fen := x.setWidth 32 &&& 0x3F } ∧
    writes 8 { s.view with rnrlim := if (x.setWidth 4 : BitVec 4) = 0 then 1 else x.setWidth 4 } ∧
    steward 0x108 { s with sched := { s.sched with pending := some x } } ∧
    (500 ≤ x.toNat % 4096 → x.toNat % 4096 ≤ 2000 →
      steward 0x109 { s with health := { s.health with pwrlim := x.setWidth 12 } }) ∧
    (x.toNat % 32 < 18 → steward 0x10A { s with health := { s.health with linksel := x.setWidth 5 } }) ∧
    steward 0x10B { s with health := { s.health with hlthst := s.health.hlthst &&& ~~~(x &&& 0xFFFFC0FF00000000) } } ∧
    (num = 0x109 → isSteward s.core = true → s.runs g = true → x.toNat % 4096 < 500 ∨ 2000 < x.toNat % 4096 →
      Traps (.swr a n m g) s .illegal (s.ir.setWidth 64)) ∧
    (num = 0x10A → isSteward s.core = true → s.runs g = true → 18 ≤ x.toNat % 32 →
      Traps (.swr a n m g) s .illegal (s.ir.setWidth 64)) ∧
    (∀ k ∈ [0, 1, 2, 3, 4, 7, 9, 10, 11], ro k) ∧
    (isTsc s.core = true → (∀ k ∈ [0x101, 0x103, 0x105, 0x106, 0x107, 0x108, 0x109, 0x10B], ro k) ∧
      ∀ k ∈ [0x100, 0x102, 0x104, 0x10A], num = k → barred) ∧
    (isEsc s.core = true → (∀ k ∈ [0x100, 0x101, 0x102, 0x103, 0x104, 0x107, 0x108, 0x109, 0x10B], ro k) ∧
      ∀ k ∈ [0x105, 0x106, 0x10A], num = k → barred) ∧
    (isSteward s.core = true → (∀ k ∈ [0x100, 0x101, 0x102, 0x103, 0x104, 0x107], ro k) ∧
      ∀ k ∈ [0x105, 0x106], num = k → barred) ∧
    (s.worker = true → 0x100 ≤ num → num ≤ 0x10B → barred)

/-- The frame a trapped task is saved in: its own, or the lowest free one for an uncommitted task that has none (R326). -/
def Sys2Proof.Machine.trapFrame (s : State) : Nat :=
  if s.slot.frame ≠ 0 ∨ s.slot.cmtd = true then s.slot.frame else s.freeFrame s.slot.job

/-- What a trap of cause `c` tells the ESC of the cluster (R323): source number, cause with bit 8 where a frame holds the task,
PC, TRAPVAL and frame. -/
structure Sys2Proof.Machine.TellsEsc (s t : State) (c : Cause) (v : W64) (held : Bool) (frame : Nat) (m : Msg) : Prop where
  flight : t.flight = s.flight ++ [m]
  dest : m.dest = s.clusterNo * 64 + 33
  handler : m.img.handler = ((recWord (s.record s.slot.job) 0) >>> 8) <<< 8
  w1 : m.img.w1 = (s.srcNum s.cur ++ BitVec.ofNat 32 (c.code + if held then 256 else 0) : BitVec (32 + 32))
  w2 : m.img.w2 = s.pc
  w3 : m.img.w3 = v
  w4 : m.img.w4 = BitVec.ofNat 64 frame

/-- R322, R323, R397: TRAP takes BREAK with X[a]. A trap of a task on a worker core that has a frame, or that is uncommitted and
gets a free one, saves the task, TRAPPED, with its cause, TRAPVAL, PC and registers; frees the slot; and sends the ESC of the
cluster the source number, cause, PC, TRAPVAL and frame. An uncommitted task with no frame and none free is discarded instead,
its image at the head of its sub-queue as it was bound, and the message says that no frame holds it.
R330: before a task that holds accumulators is saved, its queued commands execute; each dirty held accumulator is then in its
extension, and its claims are released. On a service core (R393) the task ends and a steward of the die is told. -/
def Obligations.TrapEntry : Prop :=
  ∀ (s : State) (c : Cause) (v : W64) (a : BitVec 5) (g : BitVec 4),
    (s.runs g = true → Traps (.trap a g) s .brk (s.x a)) ∧
    (let t := s.takeTrap s.cur c v
     let tid := s.slot.tid
     let f := trapFrame s
     let alone := (∀ m ∈ (s.coreAt s.core).cmds, m.tid ≠ tid) ∧ (s.coreAt s.core).claim.any (· == some tid) = false
     let rerun := c = .mcheck ∧ s.slot.image.marked = false
     (s.worker = true → s.slot.cmtd = true ∨ (f ≠ 0 ∧ ¬ rerun) → alone → t.slot.task = none ∧
       (∃ w, tfind t.saved tid = some w ∧ w.st = 4 ∧ w.trap = some (c, v) ∧ w.core = s.core ∧ w.slot.pc = s.pc ∧
         w.slot.cmtd = s.slot.cmtd ∧ w.slot.frame = f ∧ w.slot.task = s.slot.task ∧
         { w.slot.view with z := s.view.z } = s.view) ∧ ∃ m, TellsEsc s t c v true f m) ∧
     (s.worker = true → s.slot.cmtd = false → f = 0 → ¬ rerun → alone →
       (∀ e ∈ (s.gangAt s.troupe).seats, e.2 ≠ tid) → t.slot.task = none ∧ t.saved = s.saved ∧
       (∃ m, TellsEsc s t c v false 0 m) ∧
       (s.isCancelled (s.liveCore s.core) s.slot.launch = false → s.jobIn s.slot.job = true →
         ∃ e, subQueue (t.coreAt (s.liveCore s.core)) s.slot.image.cls =
           e :: subQueue (s.coreAt (s.liveCore s.core)) s.slot.image.cls ∧ e.img = s.slot.image ∧ e.fan = none)) ∧
     (s.worker = true → s.slot.cmtd = true ∨ (f ≠ 0 ∧ ¬ rerun) → f ≠ 0 → Memory.wf s.mem = true →
       let s0 := s.mod (fun t => { t with
         frame := f, pend := none, starting := none, forced := none, deny := [], blk := none
         wait := if c = .watchdog then t.wait else none })
       let d := State.drainCmds 16 s0 s.core tid
       let k := d.coreAt s.core
       (∀ i, RegFile.read (t.coreAt s.core).claim i ≠ some tid) ∧
       ∀ base, (∀ i, i < 8 → ∃ nc, d.agentPlace d.slot.job (BitVec.ofNat 64 (d.slot.ext + 4096 * i)) = some (.hbm (base + 4096 * i) nc)) →
         ∀ i : BitVec 3, RegFile.read k.claim i = some tid → k.freeing.getLsbD i.toNat = false → d.slot.dirty.a.getLsbD i.toNat = true →
           ∀ j, j < 4096 → memGet t.mem (base + 4096 * i.toNat + j) = (RegFile.read k.acc i).extractLsb' (8 * j) 8)) ∧
    (s.worker = false →
      let t := s.takeTrap s.cur c v
      ∃ m, t.flight = (s.endTask s.cur).flight ++ [m] ∧
        m.dest = coreDie s.core * 2048 + (if s.core = coreDie s.core * 2048 + 34 then 35 else 34) ∧
        m.img.w1 = (s.srcNum s.cur ++ BitVec.ofNat 32 c.code : BitVec (32 + 32)) ∧ m.img.w2 = s.pc ∧ m.img.w3 = v ∧ m.img.w4 = 0)

/-- R325, R397: ERET on an ESC or steward. A frame address off 4 KiB traps ALIGN, a reserved disposition ILLEGAL. It releases
at PK; where the frame is a TRAPPED task's of the cluster, RESUME makes the task ready at its PC without its trap, END ends
it, and DISCARD puts back the image of an uncommitted one and traps ILLEGAL for a committed one; otherwise it has no other
effect. -/
def Obligations.TrapReturn : Prop :=
  ∀ (s : State) (a b : BitVec 5) (g : BitVec 4), s.runs g = true → s.worker = false → isTsc s.core = false →
    let f := s.x a
    let D := (s.x b).toNat
    let r := s.release s.clusterNo 2
    (f.toNat % 4096 ≠ 0 → Traps (.eret a b g) s .align f) ∧
    (f.toNat % 4096 = 0 → D % 2 ^ 62 ≠ 0 ∨ D / 2 ^ 62 = 3 → Traps (.eret a b g) s .illegal (s.ir.setWidth 64)) ∧
    (f.toNat % 4096 = 0 → D % 2 ^ 62 = 0 → D / 2 ^ 62 < 3 → s.hostBlocks s.clusterNo 2 = false →
      (s.trappedAt s.clusterNo f.toNat = none → CompletesFrom (.eret a b g) s r 4 s.view) ∧
      ∀ tid w, s.trappedAt s.clusterNo f.toNat = some (tid, w) → tfind s.saved tid = some w →
        (D / 2 ^ 62 = 2 → w.slot.cmtd = true → Traps (.eret a b g) s .illegal (s.ir.setWidth 64)) ∧
        (w.st = 4 → D / 2 ^ 62 = 0 → ∃ s' u, CompletesFrom (.eret a b g) s s' 4 s.view ∧ tfind s'.saved tid = some u ∧
          u.ready = true ∧ u.trap = none ∧ u.slot.wait = none ∧ u.slot.pc = w.slot.pc ∧ u.slot.view = w.slot.view ∧
          s' = { r with saved := s'.saved }) ∧
        (w.st = 4 → D / 2 ^ 62 = 1 → CompletesFrom (.eret a b g) s (r.endSaved tid) 4 (r.endSaved tid).view) ∧
        (w.st = 4 → D / 2 ^ 62 = 2 → w.slot.cmtd = false →
          CompletesFrom (.eret a b g) s (r.discardSaved tid) 4 (r.discardSaved tid).view ∧ tfind (r.discardSaved tid).saved tid = none))

/-- R302 to R306, R310, R398 to R400: the TLB instructions. On a TSC, TLBW WRITE puts the entry into the TLB of the target core;
ABSENT joins every TSC's misses of its page to a page request and ends its own walks of it, DENY ends those of the target. On a
TSC or steward TLBI, once nothing uses the entries, leaves no entry in its range in any TLB or table cache, and the dirty bytes of
their pages, those of entries replaced since among them, at their slices. TLBP gives the entry's second word or all ones. -/
def Obligations.TlbInstructions : Prop :=
  ∀ (s : State) (d a b : BitVec 5) (g : BitVec 4), s.runs g = true → s.worker = false →
    let sel := (s.x d).toNat
    let mine := fun (w : Walk) => w.tsc = s.clusterNo ∧ s.tagCovers (s.x a) w.job w.vpn = true
    let tlbs := fun (t : State) (hit : TlbEntry → Bool) => (∀ c, ∀ e ∈ (t.coreAt c).tlb, hit e = false) ∧
      (∀ c, ∀ e ∈ (t.dieAt c).tlb, hit e = false) ∧ (∀ c, ∀ e ∈ (t.clusterAt c).tableCache, hit e = false) ∧ ∀ e ∈ t.tables, hit e = false
    let idle := fun (hit : TlbEntry → Bool) (walk : W32 → Nat → Bool) =>
      s.pageBusy walk = false ∧ s.walkBusy walk = false ∧
        (s.entryLines (s.allEntries.filter hit)).any (fun x => s.hostHeld.contains x.2) = false
    let flushed := fun (t : State) (hit : TlbEntry → Bool) => Memory.wf s.mem = true →
      (∀ j, memGet t.mem j = memGet s.mem j ∨ ∃ cl, s.dirtyByte cl j = some (memGet t.mem j)) ∧
      ∀ e ∈ s.allEntries, hit e = true → entKind e = 1 → entTgt e = 0 → ∀ cl j, entFrame e ≤ j →
        j < entFrame e + 2 ^ sizeLog (entSize e) → t.dirtyByte cl j = none
    (isTsc s.core = true → sel < 32 → entryBad (s.x a) (s.x b) = false → ∃ s', CompletesFrom (.tlbwWrite d a b g) s s' 4 s.view ∧ s'.mem = s.mem ∧
      (s'.coreAt (s.clusterNo * 64 + sel)).tlb =
        tlbInsert 16 64 (s.coreAt (s.clusterNo * 64 + sel)).tlb ⟨s.x a, s.x b, s.tick⟩) ∧
    (isTsc s.core = true → sel < 32 → entryBad (s.x a) (s.x b) = true → Traps (.tlbwWrite d a b g) s .illegal (s.ir.setWidth 64)) ∧
    (isTsc s.core = true → 32 ≤ sel → sel ≠ 63 → Traps (.tlbwWrite d a b g) s .illegal (s.ir.setWidth 64) ∧
      Traps (.tlbwAbsent d a b g) s .illegal (s.ir.setWidth 64) ∧ Traps (.tlbwDeny d a b g) s .illegal (s.ir.setWidth 64)) ∧
    (isTsc s.core = true → sel < 32 → ∃ s', CompletesFrom (.tlbwAbsent d a b g) s s' 4 s.view ∧ s'.mem = s.mem ∧
      ∀ r, (∀ q ∈ s.pageReqs, s.tagCovers (s.x a) q.job q.vpn = false) → s.outstanding r.fn < 1024 →
        s.absentReq (s.x a) ((s.x b).toNat % 2 ^ 32) (let l := s.walks.filter (fun w => s.tagCovers (s.x a) w.job w.vpn)
          l.filter (fun w => w.waiters != []) ++ l) = some r →
        s'.pageReqs.map (fun q => { q with joined := [] }) = (s.pageReqs ++ [r]).map (fun q => { q with joined := [] }) ∧
        ∀ w ∈ s'.walks, s.tagCovers (s.x a) w.job w.vpn = true → w.tsc ≠ s.clusterNo ∧ w.waiters = []) ∧
    (isTsc s.core = true → sel < 32 → s.x b = 0 → ∃ s', CompletesFrom (.tlbwDeny d a b g) s s' 4 s.view ∧ s'.mem = s.mem ∧
      ∀ w ∈ s'.walks, mine w → ∀ x ∈ w.waiters, x.1 ≠ sel) ∧
    (isTsc s.core = true → sel < 32 → s.x b ≠ 0 → Traps (.tlbwDeny d a b g) s .illegal (s.ir.setWidth 64)) ∧
    (isTsc s.core = true ∨ isSteward s.core = true → idle (fun e => entOverlap e ⟨s.x a, 0, 0⟩) (fun job vpn => s.tagCovers (s.x a) job vpn) →
      ∃ s', CompletesFrom (.tlbiPage a g) s s' 4 s.view ∧ tlbs s' (fun e => entOverlap e ⟨s.x a, 0, 0⟩) ∧
        flushed s' (fun e => entOverlap e ⟨s.x a, 0, 0⟩)) ∧
    (isTsc s.core = true ∨ isSteward s.core = true → idle (fun e => entAsid e == (s.x a).toNat % 2 ^ 16) (fun job _ => s.asid job == (s.x a).toNat % 2 ^ 16) →
      ∃ s', CompletesFrom (.tlbiAsid a g) s s' 4 s.view ∧ tlbs s' (fun e => entAsid e == (s.x a).toNat % 2 ^ 16) ∧
        flushed s' (fun e => entAsid e == (s.x a).toNat % 2 ^ 16)) ∧
    (isTsc s.core = true ∨ isSteward s.core = true → s.x a = 0 → idle (fun _ => true) (fun _ _ => true) →
      ∃ s', CompletesFrom (.tlbiAll a g) s s' 4 s.view ∧ tlbs s' (fun _ => true) ∧
        flushed s' (fun _ => true)) ∧
    ((s.x b).toNat < 32 → GivesX (.tlbp d a b g) s d (match tlbLookup (s.coreAt (s.clusterNo * 64 + (s.x b).toNat)).tlb
        (entAsid ⟨s.x a, 0, 0⟩) (BitVec.ofNat 64 (entBase ⟨s.x a, 0, 0⟩)) with
      | some e => e.word
      | none => BitVec.allOnes 64))

/-- R401, R402: IDLE and WFM complete at once when an image waits in the mailbox or their time has come, WFM with the number
of waiting images in X[d], and otherwise wait. HALTC fences and unfences a core; SELFT of a unit that cannot be tested
completes with BADUNIT or NOTFENCED, and waits for its result otherwise. -/
def Obligations.ServiceControl : Prop :=
  ∀ (s : State) (d a : BitVec 5) (g : BitVec 4), s.runs g = true → s.worker = false →
    let n := (s.coreAt s.core).waiting
    let now := n ≠ 0 ∨ (s.x a).toNat ≤ s.gtsNow
    let core := (s.x a).toNat % 2 ^ 16 / 8
    let waits := fun (i : Instr) (p : Pend) => ∃ t, exec i s = .next t ∧ t.slot.pend = some p ∧ t.view = s.view ∧ t.pc = s.pc ∧
      t.mem = s.mem
    (now → Completes (.idle a g) s 4 s.view) ∧ (¬ now → waits (.idle a g) (.idle (s.x a))) ∧
    (now → GivesX (.wfm d a g) s d (BitVec.ofNat 64 n)) ∧ (¬ now → waits (.wfm d a g) (.wfm d (s.x a))) ∧
    (isSteward s.core = true →
      (s.haltBad (s.x a) = true → Traps (.haltcFence a g) s .illegal (s.ir.setWidth 64) ∧
        Traps (.haltcUnfence a g) s .illegal (s.ir.setWidth 64)) ∧
      (s.haltBad (s.x a) = false →
        ((s.coreAt core).fenced = true → Completes (.haltcFence a g) s 4 s.view) ∧
        ((s.coreAt core).fenced = false → CompletesFrom (.haltcFence a g) s (s.fenceCore core) 4 (s.fenceCore core).view ∧
          ((s.fenceCore core).coreAt core).fenced = true) ∧
        CompletesFrom (.haltcUnfence a g) s (s.modCore core (fun c => { c with fenced := false })) 4 s.view) ∧
      (let u := (s.x a).toNat / 2 ^ 56
       (u = 0 ∨ 7 ≤ u → Traps (.selft d a g) s .illegal (s.ir.setWidth 64)) ∧
       (1 ≤ u → u < 7 → (∀ r, s.unitResult (s.x a) = some r →
           CompletesFrom (.selft d a g) s (s.setStres (s.x a) r) 4 { s.view with x := updX s.x d (BitVec.ofNat 64 r) }) ∧
         (s.unitResult (s.x a) = none → waits (.selft d a g) (.selft d (s.x a))))))

/-- The guard and length of the scalar-guarded instructions (R83) but the privileged ones and MRD. -/
def Sys2Proof.Machine.guardOf : Instr → Option (BitVec 4 × Nat)
  | .add _ _ _ _ _ g => some (g, 4)
  | .sub _ _ _ _ _ g => some (g, 4)
  | .and _ _ _ _ _ g => some (g, 4)
  | .or _ _ _ _ _ g => some (g, 4)
  | .xor _ _ _ _ _ g => some (g, 4)
  | .andn _ _ _ _ _ g => some (g, 4)
  | .shl _ _ _ _ _ g => some (g, 4)
  | .shr _ _ _ _ _ g => some (g, 4)
  | .sra _ _ _ _ _ g => some (g, 4)
  | .rol _ _ _ _ _ g => some (g, 4)
  | .min _ _ _ _ _ g => some (g, 4)
  | .max _ _ _ _ _ g => some (g, 4)
  | .minn _ _ _ _ _ g => some (g, 4)
  | .maxn _ _ _ _ _ g => some (g, 4)
  | .clz _ _ _ _ g => some (g, 4)
  | .ctz _ _ _ _ g => some (g, 4)
  | .mul _ _ _ _ _ g => some (g, 4)
  | .mulh _ _ _ _ _ g => some (g, 4)
  | .mulhn _ _ _ _ _ g => some (g, 4)
  | .div _ _ _ _ _ g => some (g, 4)
  | .divn _ _ _ _ _ g => some (g, 4)
  | .rem _ _ _ _ _ g => some (g, 4)
  | .remn _ _ _ _ _ g => some (g, 4)
  | .popc _ _ _ _ g => some (g, 4)
  | .bswap _ _ _ _ g => some (g, 4)
  | .addi _ _ _ g => some (g, 4)
  | .andi _ _ _ g => some (g, 4)
  | .ori _ _ _ g => some (g, 4)
  | .xori _ _ _ g => some (g, 4)
  | .shli _ _ _ g => some (g, 4)
  | .shri _ _ _ g => some (g, 4)
  | .srai _ _ _ g => some (g, 4)
  | .extf _ _ _ _ _ g => some (g, 4)
  | .insf _ _ _ _ _ g => some (g, 4)
  | .sext _ _ _ g => some (g, 4)
  | .zext _ _ _ g => some (g, 4)
  | .liu _ _ g => some (g, 4)
  | .cmp _ _ _ _ _ _ g => some (g, 4)
  | .cmpi _ _ _ _ _ g => some (g, 4)
  | .sel _ _ _ _ g => some (g, 4)
  | .pmovx _ _ g => some (g, 4)
  | .fadd _ _ _ _ g => some (g, 4)
  | .fsub _ _ _ _ g => some (g, 4)
  | .fmul _ _ _ _ g => some (g, 4)
  | .ffma _ _ _ _ g => some (g, 4)
  | .fdiv _ _ _ _ g => some (g, 4)
  | .fsqrt _ _ _ g => some (g, 4)
  | .fmin _ _ _ _ g => some (g, 4)
  | .fmax _ _ _ _ g => some (g, 4)
  | .fcmp _ _ _ _ _ g => some (g, 4)
  | .fcvt _ _ _ _ g => some (g, 4)
  | .br _ g => some (g, 4)
  | .call _ g => some (g, 4)
  | .jr _ g => some (g, 4)
  | .addpc _ _ g => some (g, 4)
  | .liw _ g _ => some (g, 8)
  | .calll g _ => some (g, 8)
  | .ld _ _ _ _ g => some (g, 4)
  | .ldn _ _ _ _ g => some (g, 4)
  | .st _ _ _ _ g => some (g, 4)
  | .ldLong _ _ _ g _ _ _ _ => some (g, 8)
  | .ldnLong _ _ _ g _ _ _ _ => some (g, 8)
  | .stLong _ _ _ g _ _ _ _ => some (g, 8)
  | .pref _ _ g => some (g, 4)
  | .prefLong _ g _ _ => some (g, 8)
  | .cflush _ _ _ g => some (g, 4)
  | .cinv _ _ _ g => some (g, 4)
  | .aadd _ _ _ _ _ g => some (g, 4)
  | .aand _ _ _ _ _ g => some (g, 4)
  | .aor _ _ _ _ _ g => some (g, 4)
  | .axor _ _ _ _ _ g => some (g, 4)
  | .amin _ _ _ _ _ g => some (g, 4)
  | .amax _ _ _ _ _ g => some (g, 4)
  | .aminn _ _ _ _ _ g => some (g, 4)
  | .amaxn _ _ _ _ _ g => some (g, 4)
  | .aswap _ _ _ _ _ g => some (g, 4)
  | .acas _ _ _ _ _ g => some (g, 4)
  | .aaddf _ _ _ _ _ g => some (g, 4)
  | .afaddF64 _ _ _ _ _ g => some (g, 4)
  | .afmaxF64 _ _ _ _ _ g => some (g, 4)
  | .afaddF32 _ _ _ _ _ g => some (g, 4)
  | .afmaxF32 _ _ _ _ _ g => some (g, 4)
  | .wadd _ _ _ g => some (g, 4)
  | .wset _ _ _ g => some (g, 4)
  | .wmax _ _ _ g => some (g, 4)
  | .wlap _ _ g => some (g, 4)
  | .scfg _ _ g => some (g, 4)
  | .sbind _ _ g => some (g, 4)
  | .sstop _ g => some (g, 4)
  | .mlda _ _ g => some (g, 4)
  | .mldb _ _ g => some (g, 4)
  | .mzero _ g => some (g, 4)
  | .mst _ _ g => some (g, 4)
  | .mstW _ _ g => some (g, 4)
  | .mmaE4e4 _ _ _ g => some (g, 4)
  | .mmaE4e5 _ _ _ g => some (g, 4)
  | .mmaE5e4 _ _ _ g => some (g, 4)
  | .mmaE5e5 _ _ _ g => some (g, 4)
  | .mmaQ4e4 _ _ _ g => some (g, 4)
  | .mmaBf _ g => some (g, 4)
  | .mmaHf _ g => some (g, 4)
  | .mmaF32 _ g => some (g, 4)
  | .mmaF64 _ g => some (g, 4)
  | .mmaI8 _ g => some (g, 4)
  | .rmmaE4e4 _ _ g => some (g, 4)
  | .rmmaE4e5 _ _ g => some (g, 4)
  | .rmmaE5e4 _ _ g => some (g, 4)
  | .rmmaE5e5 _ _ g => some (g, 4)
  | .rmmaQ4e4 _ _ g => some (g, 4)
  | .rmmaBf g => some (g, 4)
  | .rmmaHf g => some (g, 4)
  | .rmmaF32 g => some (g, 4)
  | .rmmaI8 g => some (g, 4)
  | .mgang g => some (g, 4)
  | .mwait g => some (g, 4)
  | .mwr _ _ _ g => some (g, 4)
  | .mclaim _ g => some (g, 4)
  | .mfree _ g => some (g, 4)
  | .eset _ _ g => some (g, 4)
  | .erd _ _ g => some (g, 4)
  | .qpush _ _ g => some (g, 4)
  | .qpop _ _ g => some (g, 4)
  | .qnpush _ _ _ g => some (g, 4)
  | .qcnt _ _ g => some (g, 4)
  | .send _ _ _ _ _ g => some (g, 4)
  | .sendl _ _ _ _ g => some (g, 4)
  | .hop _ _ _ _ g => some (g, 4)
  | .hopV _ _ _ _ g => some (g, 4)
  | .spawn _ _ _ g => some (g, 4)
  | .spawnn _ _ _ _ g => some (g, 4)
  | .commit g => some (g, 4)
  | .done g => some (g, 4)
  | .yield g => some (g, 4)
  | .prio _ g => some (g, 4)
  | .umask g => some (g, 4)
  | .unmask g => some (g, 4)
  | .cntadd _ g => some (g, 4)
  | .cancel _ g => some (g, 4)
  | .waitc _ _ g => some (g, 4)
  | .waitm _ _ _ g => some (g, 4)
  | .fence _ _ g => some (g, 4)
  | .drain _ g => some (g, 4)
  | .bar _ g => some (g, 4)
  | .twalk _ _ g => some (g, 4)
  | .twb _ _ g => some (g, 4)
  | .tdeal _ _ g => some (g, 4)
  | .permit _ _ g => some (g, 4)
  | .pklook _ _ _ g => some (g, 4)
  | .pkres _ _ _ g => some (g, 4)
  | .pkscore _ _ _ g => some (g, 4)
  | .pkgw _ _ _ g => some (g, 4)
  | .trap _ g => some (g, 4)
  | _ => none

/-- R392: the scalar-guarded queue, stream, matrix, lookup, Marionette, whirligig and BAR instructions. -/
def Sys2Proof.Machine.workerOnly : Instr → Bool
  | .qpush _ _ _ | .qpop _ _ _ | .qnpush _ _ _ _ | .qcnt _ _ _ | .scfg _ _ _ | .sbind _ _ _ | .sstop _ _ | .mlda _ _ _
  | .mldb _ _ _ | .mzero _ _ | .mst _ _ _ | .mstW _ _ _ | .mmaE4e4 _ _ _ _ | .mmaE4e5 _ _ _ _ | .mmaE5e4 _ _ _ _
  | .mmaE5e5 _ _ _ _ | .mmaQ4e4 _ _ _ _ | .mmaBf _ _ | .mmaHf _ _ | .mmaF32 _ _ | .mmaF64 _ _ | .mmaI8 _ _
  | .rmmaE4e4 _ _ _ | .rmmaE4e5 _ _ _ | .rmmaE5e4 _ _ _ | .rmmaE5e5 _ _ _ | .rmmaQ4e4 _ _ _ | .rmmaBf _ | .rmmaHf _
  | .rmmaF32 _ | .rmmaI8 _ | .mgang _ | .mwait _ | .mwr _ _ _ _ | .mclaim _ _ | .mfree _ _ | .eset _ _ _ | .erd _ _ _
  | .bar _ _ | .twalk _ _ _ | .twb _ _ _ | .tdeal _ _ _ | .permit _ _ _ | .pklook _ _ _ _ | .pkres _ _ _ _
  | .pkscore _ _ _ _ | .pkgw _ _ _ _ | .wadd _ _ _ _ | .wset _ _ _ _ | .wmax _ _ _ _ | .wlap _ _ _ => true
  | _ => false

/-- R83: a scalar-guarded instruction whose guard bit is 0 only retires. R392: the worker-core instructions trap ILLEGAL on a
service core. R86, R392: a privileged instruction traps PRIV, whatever its guard, on a worker core, and where the table of
R392 says so on a service core: ERET on a TSC, TLBW off the TSCs, TLBI on an ESC, HALTC and SELFT off the stewards. -/
def Obligations.GuardsAndPrivileges : Prop :=
  (∀ (i : Instr) (s : State) (g : BitVec 4) (len : Nat), guardOf i = some (g, len) →
    (s.runs g = false → Completes i s len s.view) ∧
    (s.runs g = true → workerOnly i = true → s.worker = false → Traps i s .illegal (s.ir.setWidth 64))) ∧
  (∀ (s : State) (d a b : BitVec 5) (g : BitVec 4),
    let priv := fun (i : Instr) => Traps i s .priv (s.ir.setWidth 64)
    (s.worker = true ∨ isTsc s.core = true → priv (.eret a b g)) ∧
    (isTsc s.core = false → priv (.tlbwWrite d a b g) ∧ priv (.tlbwAbsent d a b g) ∧ priv (.tlbwDeny d a b g)) ∧
    (isTsc s.core = false → isSteward s.core = false → priv (.tlbiPage a g) ∧ priv (.tlbiAsid a g) ∧ priv (.tlbiAll a g)) ∧
    (s.worker = true → priv (.tlbp d a b g) ∧ priv (.idle a g) ∧ priv (.wfm d a g)) ∧
    (isSteward s.core = false → priv (.haltcFence a g) ∧ priv (.haltcUnfence a g) ∧ priv (.selft d a g)))

/-! ### Events: messages, completions and cancellation -/

/-- The event happens: `exec` answers a next state of which `P` holds. -/
def Sys2Proof.Machine.Happens (i : Instr) (s : State) (P : State → Prop) : Prop := ∃ t, exec i s = .next t ∧ P t

/-- An image stands at the tail of its sub-queue on a core, as one entry without its payload (R34). -/
def Sys2Proof.Machine.Queued1 (s t : State) (core : Nat) (i : Image) : Prop :=
  ∃ e, subQueue (t.coreAt core) i.cls = subQueue (s.coreAt core) i.cls ++ [e] ∧ e.img = { i with payload := [] } ∧ e.fan = none ∧
    e.since = s.cyc

/-- Of memory only the payload of an image has changed: it stands in the scratchpad of the core (R31). -/
def Sys2Proof.Machine.PayloadPlaced (s t : State) (core : Nat) (i : Image) : Prop :=
  ∀ a, memGet t.mem a =
    (let b := scratchBase core + payDest i.w7
     if b ≤ a ∧ a < b + 8 * i.payload.length then (i.payload.getD ((a - b) / 8) 0).extractLsb' (8 * ((a - b) % 8)) 8
     else memGet s.mem a)

/-- R31, R32, R34, R48, R127, R335: the delivery of a message in its order, a fenced core's to the live one in its place. With
room it stands at the tail of its sub-queue and its payload in the core's scratchpad; an agent's message that finds none is held
and tries again; a cancelled launch's is removed and counted off. SEND_FULL_RETRY sends what was answered FULL and is due;
promotions follow the age of waiting, which counts while the image's job holds the package (R54, R59).
Which event comes next is the agenda's choice (log 1). -/
def Obligations.MessageDelivery : Prop :=
  ∀ (s : State), Memory.wf s.mem = true →
    (∀ idx m, nth s.flight idx = some m → m.ans = none → inOrder s.liveCore s.flight m idx = true →
      inOrder s.liveCore s.held m s.held.length = true →
      let dst := s.liveCore m.dest
      (s.isCancelled dst m.img.launch = true → exec (.mailboxDelivery idx) s =
        .next (({ s with flight := delAt s.flight idx } : State).countDown m.img.launch 1)) ∧
      (s.isCancelled dst m.img.launch = false → s.jobIn m.img.job = true →
        (m.agent = false → (subQueue (s.coreAt dst) m.img.cls).length < 64 → Happens (.mailboxDelivery idx) s (fun t =>
          t.flight = delAt s.flight idx ∧ t.held = s.held ∧ Queued1 s t dst m.img ∧ PayloadPlaced s t dst m.img)) ∧
        (m.agent = true → 64 ≤ (subQueue (s.coreAt dst) m.img.cls).length → exec (.mailboxDelivery idx) s =
          .next { s with flight := delAt s.flight idx, held := s.held ++ [{ m with dest := dst }] }))) ∧
    (∀ idx m, nth s.held idx = some m → m.ans = none → inOrder s.liveCore s.held { m with dest := s.liveCore m.dest } idx = true →
      let dst := s.liveCore m.dest
      s.isCancelled dst m.img.launch = false → s.jobIn m.img.job = true →
      s.takes { m with dest := dst } = true → Happens (.agentImageRetry idx) s (fun t =>
        t.held = delAt s.held idx ∧ t.flight = s.flight ∧ Queued1 s t dst m.img ∧ PayloadPlaced s t dst m.img)) ∧
    (∀ sid, Happens (.sendFullRetry sid) s (fun t => t = { s with reqs := t.reqs } ∧ t.reqs.length = s.reqs.length ∧
      ∀ k r, nth s.reqs k = some r → ∃ u, nth t.reqs k = some u ∧ u = { r with st := u.st, since := u.since } ∧
        (r.sid = sid → r.num = 0 → r.st = .backoff → r.since ≤ s.gtsOf (coreDie (sidCore sid)) → u.st ≠ .backoff) ∧
        (r.sid ≠ sid ∨ r.num ≠ 0 ∨ r.st ≠ .backoff ∨ s.gtsOf (coreDie (sidCore sid)) < r.since → u = r))) ∧
    (∀ core, Happens (.imageAgePromotion core) s (fun t => t.mem = s.mem ∧ (∀ c, c ≠ core → t.coreAt c = s.coreAt c) ∧
      (∀ k, subQueue (t.coreAt core) k = (subQueue (s.coreAt core) k).map (fun e => { e with promo := s.age e / 2 ^ 16 })) ∧
      (t.coreAt core).deque = (s.coreAt core).deque.map (fun e => { e with promo := s.age e / 2 ^ 16 })))

/-- R47, R48, R131, R133: a completion reaches its task, in the order sent (R335), where it has room; a waiting WAITM reads its
word again, what its streams had fetched ahead dropped (R211), and ends when it differs; the answer to a CANCEL lets it retire or
traps PERM; a cancellation mark removes the launch's images from a core's queues and the mark stands. -/
def Obligations.CompletionsAndMarks : Prop :=
  ∀ (s : State), Memory.wf s.mem = true →
    (∀ idx c sid, nth s.compls idx = some c → s.slotOfTid c.tid = some sid → (s.slotAt sid).compl.length < 16 →
      (∀ o ∈ s.compls.take idx, o.tid ≠ c.tid) →
      Happens (.completionDelivery idx) s (fun t => t.compls = delAt s.compls idx ∧
        t.slotAt sid = { s.slotAt sid with compl := (s.slotAt sid).compl ++ [(c.tag, c.status)] } ∧
        (∀ k, k ≠ sid → t.slotAt k = s.slotAt k) ∧ t.mem = s.mem)) ∧
    (∀ sid d since w p, sid < 2 ^ 16 → (s.slotAt sid).pend = some (.waitm d since) → (s.slotAt sid).wait = some w → w.kind = 1 →
      vpnOf w.operand ∉ (s.slotAt sid).deny →
      s.translate (sidCore sid) (s.slotAt sid).job .read w.operand 8 = .ok p → p.here = true → s.hostHolds p 8 = false → s.spoiled p 8 = false →
      let u := (({ s with cur := sid } : State).acquire (sidCore sid) 2).dropAhead sid
      let A := ((s.dropAhead sid).slotAt sid).view
      let x := BitVec.ofNat 64 (packDigits 8 (u.loadByte p) 8)
      Happens (.waitmReread sid) s (fun t => t.cur = s.cur ∧ (∀ k, k ≠ sid → t.slotAt k = s.slotAt k) ∧
        (∀ a, memGet t.mem a = memGet s.mem a ∨ s.dirtyByte (coreCluster (sidCore sid)) a = some (memGet t.mem a)) ∧
        (x ≠ w.expect → (t.slotAt sid).view = { A with x := updX A.x d x } ∧
          (t.slotAt sid).pc = (s.slotAt sid).pc + 4 ∧ (t.slotAt sid).wait = none ∧ (t.slotAt sid).pend = none) ∧
        (x = w.expect → (t.slotAt sid).view = A ∧ (t.slotAt sid).pc = (s.slotAt sid).pc ∧
          (t.slotAt sid).wait = some w ∧ ∃ n, (t.slotAt sid).pend = some (.waitm d n)))) ∧
    (∀ sid name, sid < 2 ^ 16 → s.slotOfTid (s.slotAt sid).tid = some sid → (s.slotAt sid).pend = some (.cancel name) →
      exec (.cancelAnswer sid true) s = .next (s.nextFree64.2.takeTrap sid .perm s.nextFree64.1) ∧
      ((s.slotAt sid).cmtd = true → name.setWidth 32 ≠ (s.slotAt sid).launch → Happens (.cancelAnswer sid false) s (fun t =>
        (t.slotAt sid).view = (s.slotAt sid).view ∧ (t.slotAt sid).pc = (s.slotAt sid).pc + 4 ∧ (t.slotAt sid).pend = none ∧
        (t.slotAt sid).task = (s.slotAt sid).task ∧ t.mem = s.mem))) ∧
    (∀ core launch v, tfind s.launches launch.toNat = some v → v.cancelled = true →
      Happens (.cancelMarkArrival core launch) s (fun t => t.isCancelled core launch = true ∧
        (∀ k e, e ∈ subQueue (t.coreAt core) k → e.img.launch ≠ launch) ∧ ∀ e ∈ (t.coreAt core).deque, e.img.launch ≠ launch))

/-! ### Events: binding, issue, stealing and parking -/

/-- R37: the slot of a task at its handler's start, from its image. -/
structure Sys2Proof.Machine.StartsWith (t : Slot) (i : Image) (tid : Nat) : Prop where
  task : t.task = some ⟨tid, i⟩
  pc : t.pc = i.handler
  x : ∀ r, t.getX r = (let l := 0 :: i.w1 :: i.w2 :: i.w3 :: i.w4 :: (List.range 4).map (fun k => recWord (i.regs.getD []) k)
    l.getD r.toNat 0)
  v : ∀ r, RegFile.read t.v r = 0
  p : ∀ r, t.getP r = if r = 7 then BitVec.allOnes 16 else 0
  e : ∀ r, RegFile.read t.e r = 0x3F800000
  z : ∀ r, (RegFile.read t.z r).reg = none
  prio : t.prio = BitVec.ofNat 2 i.cls
  fsr : t.fsr = 0 ∧ t.fen = 0

/-- R60: the best of the candidates: the lowest effective class, then a mailbox head before the deque, then the greater age. -/
def Sys2Proof.Machine.BestOf (l : List Bid) (x : Bid) : Prop :=
  x ∈ l ∧ ∀ y ∈ l, x.cls ≤ y.cls ∧ (y.cls = x.cls → y.k < 4 → x.k < 4 ∧ y.age ≤ x.age)

/-- R37, R50, R60 to R64, R394, R395: IMAGE_BIND and URGENT_BIND start the best candidate in the lowest free slot and in TU, its
entry gone, at its word 6's scope or, where it was stolen, at that of the hand-over; a UMASK of the same cycle does not hold TU
off. HANDLER_START acquires and loads an ESC's or steward's message registers; ISSUE_SELECT chooses TU, else the lowest class in
rotation, among the threads that may issue; the urgent window closes after 64 retirements, and a YIELD ends after 64 cycles. -/
def Obligations.BindingAndIssue : Prop :=
  ∀ (s : State) (core sid : Nat),
    let s1 := s.promote core
    let tu := core * 8 + 4
    let bound := fun (t : State) (sid : Nat) (x : Bid) => StartsWith (t.slotAt sid) x.entry.take.1 s.nextTid ∧
      (t.slotAt sid).starting = some (x.entry.img.handOver.getD (x.entry.take.1.w6.extractLsb' 29 3).toNat) ∧
      t.nextTid = s.nextTid + 1 ∧ (∀ k, k ≠ sid → t.slotAt k = s.slotAt k) ∧ t.mem = s.mem ∧
      (x.entry.fan = none → x.k < 4 → subQueue (t.coreAt core) x.k = (subQueue (s1.coreAt core) x.k).tail) ∧
      (x.entry.fan = none → x.k = 4 → (t.coreAt core).deque = (s1.coreAt core).deque.dropLast)
    ((s.coreAt core).fenced = false → s.freeSlot core = some sid → tfind (s.coreAt core).parkTo (sidNum sid) = none →
      s1.resumable core false = none → s1.normalCands core ≠ [] →
      Happens (.imageBind core) s (fun t => ∃ x, BestOf (s1.normalCands core) x ∧ bound t sid x)) ∧
    ((s.coreAt core).fenced = false → isWorkerCore core = true → (s.slotAt tu).task = none → s.resumable core true = none →
      (s.coreAt core).closedAt ≠ some s.cyc →
      ((s.coreAt core).opener = none ∨
        ∃ o, (s.coreAt core).opener = some o ∧ (s.coreAt core).opened = some (o, s.cyc)) → s1.urgentCands core ≠ [] →
      Happens (.urgentBind core) s (fun t => ∃ x, BestOf (s1.urgentCands core) x ∧ bound t tu x)) ∧
    (∀ scope, (s.slotAt sid).starting = some scope → Happens (.handlerStart sid) s (fun t => t.mem = s.mem ∧
      (2 ≤ scope → (t.coreAt (sidCore sid)).stale = s.tick) ∧
      (scope = 1 → (t.coreAt (sidCore sid)).stale =
        max (s.coreAt (sidCore sid)).stale (s.clusterStale (coreCluster (sidCore sid)))) ∧
      (scope = 0 → (t.coreAt (sidCore sid)).stale = (s.coreAt (sidCore sid)).stale) ∧ (∀ k, k ≠ sid → t.slotAt k = s.slotAt k) ∧
      t.slotAt sid = { s.slotAt sid with starting := none, sys := (t.slotAt sid).sys } ∧
      (isWorkerCore (sidCore sid) = true → (t.slotAt sid).sys = (s.slotAt sid).sys) ∧
      (isWorkerCore (sidCore sid) = false → isTsc (sidCore sid) = false → (s.slotAt sid).image.fromDevice = true →
        let i := (s.slotAt sid).image
        let r := (t.slotAt sid).sys
        r.cause = i.w1.extractLsb' 0 16 ∧ r.src = i.w1.extractLsb' 32 32 ∧ r.pc = i.w2 ∧ r.val = i.w3 ∧ r.frm = i.w4 ∧ r.vf = i.fn))) ∧
    (let u := fun (k : Nat) => ({ s with idle := s.idle + 1, cur := k } : State)
     let after := fun k => (k + 4 - ((s.coreAt core).lastIssued + 1) % 4) % 4
     (s.mayIssue tu = true → exec (.issueSelect core) s = .next (u tu)) ∧
     (s.mayIssue tu = false → (∀ j, j < 4 → s.mayIssue (core * 8 + j) = false) → exec (.issueSelect core) s = .next (u s.cur)) ∧
     (s.mayIssue tu = false → (∃ j, j < 4 ∧ s.mayIssue (core * 8 + j) = true) →
       ∃ k, k < 4 ∧ exec (.issueSelect core) s = .next (u (core * 8 + k)) ∧ s.mayIssue (core * 8 + k) = true ∧
         ∀ j, j < 4 → s.mayIssue (core * 8 + j) = true →
           s.issueClass (core * 8 + k) ≤ s.issueClass (core * 8 + j) ∧
           (s.issueClass (core * 8 + k) = s.issueClass (core * 8 + j) → after k ≤ after j))) ∧
    ((s.coreAt core).opener = some sid → sidCore sid = core →
      (64 ≤ (s.coreAt core).retired → Happens (.urgentWindowClose core) s (fun t => (t.coreAt core).opener = none ∧
        t.slots = s.slots ∧ t.mem = s.mem)) ∧
      ((s.coreAt core).retired < 64 → (s.slotAt sid).task ≠ none → (s.slotAt sid).wait = none →
        exec (.urgentWindowClose core) s = .next s)) ∧
    (∀ l t0, (s.slotAt sid).yielding = some (l, t0) →
      (t0 + 64 ≤ s.cyc → exec (.yieldTimeout sid) s = .next (s.modSlot sid (fun t => { t with yielding := none }))) ∧
      (s.cyc < t0 + 64 → exec (.yieldTimeout sid) s = .next s))

/-- R55, R66 to R68: a core that may steal asks the next victim; a victim that grants gives the top of its deque, which starts in
the thief's free slot at the scope between both, or at a wider one of an earlier hand-over; a request for a deque's only entry is
kept to the end of the cycle, since its owner's take comes first (R67); a thief fenced meanwhile takes nothing; a pass that failed
ends in a back-off of 1,024 cycles. The longest waiting task of a launch that may park does so 4,096 cycles after the conditions
began to hold, counted from the end of a cycle, and the slot is kept for the launch. The order of events of one cycle is the
agenda's (log 1). -/
def Obligations.StealingAndParking : Prop :=
  ∀ (s : State) (core : Nat),
    let v := (s.coreAt core).steal
    (∀ x, v.victim = none → v.backoff = none → s.maySteal core = true → nth (victims core) v.pos = some x →
      exec (.stealProbe core) s = .next (s.modCore core (fun c => { c with steal := { v with victim := some x } }))) ∧
    (∀ x, v.victim = some x → (s.coreAt core).fenced = true → exec (.stealGrant core) s =
      .next (s.modCore core (fun c => { c with steal := ⟨0, none, none, none⟩ }))) ∧
    (∀ x, v.victim = some x → (s.coreAt core).fenced = false → s.granter x = none → Happens (.stealGrant core) s (fun t =>
      t.mem = s.mem ∧ t.slots = s.slots ∧
      (v.pos + 1 < (victims core).length → (t.coreAt core).steal = ⟨v.pos + 1, none, none, none⟩) ∧
      ((victims core).length ≤ v.pos + 1 → (t.coreAt core).steal = ⟨0, none, some s.cyc, none⟩))) ∧
    (∀ x w e rest sid, v.victim = some x → (s.coreAt core).fenced = false → s.granter x = some w → w ≠ core →
      (s.coreAt w).deque = e :: rest → rest ≠ [] →
      s.hostBlocks (coreCluster w) (scopeBetween w core) = false → s.isCancelled core e.img.launch = false →
      s.freeSlot core = some sid →
      (s.release (coreCluster w) (scopeBetween w core)).canFrame core e.take.1 = true →
      Happens (.stealGrant core) s (fun t => (t.coreAt core).steal = ⟨0, none, none, none⟩ ∧
        let scope := max (scopeBetween w core) (e.img.handOver.getD 0)
        (e.fan = none → (t.coreAt w).deque = rest) ∧
        (t.slotAt sid).task = some ⟨s.nextTid, { e.take.1 with handOver := some scope }⟩ ∧
        (t.slotAt sid).pc = e.img.handler ∧ (t.slotAt sid).starting = some scope ∧
        ∀ a, memGet t.mem a = memGet s.mem a ∨ s.dirtyByte (coreCluster w) a = some (memGet t.mem a))) ∧
    (∀ x w e, v.victim = some x → (s.coreAt core).fenced = false → s.granter x = some w → (s.coreAt w).deque = [e] →
      exec (.stealGrant core) s = .next (s.modCore core (fun c => { c with steal := { v with seen := some w } }))) ∧
    (∀ t0, v.backoff = some t0 → t0 + 1024 ≤ s.cyc → exec (.stealBackoffExpiry core) s =
      .next (s.modCore core (fun c => { c with steal := ⟨0, none, none, none⟩ }))) ∧
    (∀ n, s.parkable core n = true → (s.coreAt core).parks.find? (fun e => e.1 == n) = none → (n, s.cyc) ∈ s.parksOf core) ∧
    (∀ n, s.parkLaunch core = some n →
      (∃ t0, (n, t0) ∈ (s.coreAt core).parks ∧ t0 + 4096 ≤ s.cyc ∧
        ∀ k w, k < 4 → (s.slotAt (core * 8 + k)).launch = n → (s.slotAt (core * 8 + k)).wait = some w → w.since ≤ t0) ∧
      ((∀ k, k < 4 → (s.slotAt (core * 8 + k)).frame ≠ 0 ∧ ∀ m ∈ (s.coreAt core).cmds, m.tid ≠ (s.slotAt (core * 8 + k)).tid) →
        Happens (.parkTimeout core) s (fun t => ∃ k w u, k < 4 ∧ (s.slotAt (core * 8 + k)).launch = n ∧
          (s.slotAt (core * 8 + k)).wait = some w ∧ (t.slotAt (core * 8 + k)).task = none ∧
          (∀ j z, j < 4 → (s.slotAt (core * 8 + j)).launch = n → (s.slotAt (core * 8 + j)).wait = some z → w.since ≤ z.since) ∧
          tfind t.saved (s.slotAt (core * 8 + k)).tid = some u ∧ u.st = 2 ∧ u.slot.pc = (s.slotAt (core * 8 + k)).pc ∧
          u.slot.task = (s.slotAt (core * 8 + k)).task ∧ tfind (t.coreAt core).parkTo k = some n)))

/-! ### Events: the host's side -/

/-- The ring is enabled, holds nothing back and has room (R410, R413). -/
def Sys2Proof.Machine.RingReady (s : State) (r : Nat) : Prop :=
  (s.ring r).on = true ∧ (s.ring r).full = false ∧ (s.ring r).held = []

/-- R412: from `s` to `t` ring `r` takes one entry: the words and the type with its phase bit stand in the entry TAIL names,
every other byte is as before, TAIL counts on and the ring's interrupt is sent. -/
structure Sys2Proof.Machine.RingTakes (s t : State) (r ty : Nat) (ws : List W64) : Prop where
  bytes : ∀ j, memGet t.mem j =
    (let g := s.ring r
     let a := hostBase + g.base.toNat + 64 * (g.tail % 2 ^ g.log2n)
     let last := BitVec.ofNat 64 (ty * 2 ^ 56 + (1 - g.tail / 2 ^ g.log2n % 2))
     if a ≤ j ∧ j < a + 64 then ((ws.take 7 ++ List.replicate (7 - ws.length) 0 ++ [last]).getD ((j - a) / 8) 0).extractLsb'
       (8 * ((j - a) % 8)) 8 else memGet s.mem j)
  tail : (t.ring r).tail = ((s.ring r).tail + 1) % 2 ^ 32
  head : (t.ring r).head = (s.ring r).head ∧ (t.ring r).held = []
  msix : t.host.msix = s.host.msix ++ [(((s.ring r).cfg.extractLsb' 56 7).toNat, ((s.ring r).cfg.extractLsb' 42 6).toNat)]

/-- The preferred core of a worker queue (R58, R409). -/
def Sys2Proof.Machine.queueCore (c : W64) : Nat :=
  ((c.extractLsb' 54 2).toNat * 32 + (c.extractLsb' 49 5).toNat) * 64 + (c.extractLsb' 44 5).toNat

/-- The preferred core of a queue takes every root of its job: not fenced, its job on the package, room in each class. -/
def Sys2Proof.Machine.CoreOpen (s : State) (c : W64) : Prop :=
  c.getLsbD 43 = false ∧ (c.extractLsb' 49 5).toNat < 24 ∧ (s.coreAt (queueCore c)).fenced = false ∧
    s.jobIn (c.setWidth 32) = true ∧ ∀ k, k < 4 → s.hasRoom (queueCore c) k = true

/-- R44, R56 to R58, R409, R410, R412, while no graph waits for a slot: a read of WQ_RSV of an enabled queue reserves its lowest
free slot; a write of the whole slot with a well-formed image fills it and any other write is an ERROR entry; a slot not filled in
100 µs frees with an ERROR. The filled slot whose turn it is begins a launch, and its image enters the queue's preferred core.
WQCFG and HRCFG configure what is disabled; of what is enabled they change EN alone (of a ring, words 0 and 1; HEAD moves up to
TAIL). Before bring-up step 5 the host reaches none of them (R426). -/
def Obligations.HostQueues : Prop :=
  ∀ (s : State) (fn q : Nat), Memory.wf s.mem = true → s.host.graphs = [] →
    let w := s.queue q
    let c := w.cfg
    let ring := (c.extractLsb' 32 10).toNat
    (s.health.step < 5 → exec (.wqRsv fn q) s = .next s ∧ (∀ off words, exec (.wqSlotWrite fn q off words) s = .next s) ∧
      (∀ v, exec (.wqcfg q v) s = .next s) ∧ ∀ r k v, exec (.hrcfg r k v) s = .next s) ∧
    (5 ≤ s.health.step →
    (∀ i, s.wqBound fn q = true → s.wqReady c = true → w.freeSlot = some i → Happens (.wqRsv fn q) s (fun t =>
      (∀ j, j < i → (tfind w.slots j).isSome = true) ∧ tfind (t.queue q).slots i = some (.reserved w.seq (s.gtsOf 0)) ∧
      (t.queue q).seq = (w.seq + 1) % 2 ^ 24 ∧ ∃ v, t.host.replies = s.host.replies ++ [v] ∧ v.getLsbD 63 = true ∧
        v.extractLsb' 32 24 = BitVec.ofNat 24 w.seq ∧ v.extractLsb' 0 6 = BitVec.ofNat 6 i)) ∧
    (s.wqBound fn q = false → Happens (.wqRsv fn q) s (fun t => t.host.queues = s.host.queues ∧
      ∃ v, t.host.replies = s.host.replies ++ [v] ∧ v.getLsbD 63 = false)) ∧
    (∀ slot seq since off words, s.wqBound fn q = true → slot < 64 → tfind w.slots slot = some (.reserved seq since) →
      (off = 0x1000 + 64 * slot → words.length = 8 → imageBad (recWord words 0) = false → Happens (.wqSlotWrite fn q off words) s
        (fun t => tfind (t.queue q).slots slot = some (.filled seq words none) ∧ t.mem = s.mem)) ∧
      (off / 64 = 0x40 + slot → off % 64 ≠ 0 ∨ words.length ≠ 8 → RingReady s ring → Happens (.wqSlotWrite fn q off words) s
        (fun t => (t.queue q).slots = w.slots ∧ RingTakes s t ring 3 [2, BitVec.ofNat 64 q, BitVec.ofNat 64 slot, s.gtsWord])) ∧
      (since + 100000 ≤ s.gtsOf 0 → RingReady s ring → Happens (.wqReservationTimeout q slot) s (fun t =>
        (t.queue q).slots = tdel w.slots slot ∧ RingTakes s t ring 3 [1, BitVec.ofNat 64 q, BitVec.ofNat 64 slot, s.gtsWord]))) ∧
    (∀ slot seq words, w.nextSlot = some (slot, .filled seq words none) → imageBad (recWord words 0) = false → CoreOpen s c →
      1 ≤ s.nextLaunch → s.nextLaunch < 2 ^ 22 → tfind s.launches (s.pkg.toNat * 2 ^ 22 + s.nextLaunch) = none →
      Happens (.rootAdmission q) s (fun t => (t.queue q).slots = tdel w.slots slot ∧
        tfind t.launches (s.pkg.toNat * 2 ^ 22 + s.nextLaunch) = some ⟨c.setWidth 32, 1, 0, false, some ring, none⟩ ∧
        ∃ i : Image, Queued1 s t (queueCore c) i ∧ i.w0 = recWord words 0 ∧ i.w1 = recWord words 1 ∧ i.w2 = recWord words 2 ∧
          i.w3 = recWord words 3 ∧ i.w4 = recWord words 4 ∧
          i.w5 = BitVec.ofNat 64 ((s.pkg.toNat * 2 ^ 22 + s.nextLaunch) * 2 ^ 32) ∧ i.job = c.setWidth 32 ∧
          i.w6.extractLsb' 32 32 = BitVec.ofNat 32 (0xFC000000 + (c.extractLsb' 56 7).toNat))) ∧
    (∀ slot i, w.nextSlot = some (slot, .admitted i) → CoreOpen s c → i.job = c.setWidth 32 →
      (tfind s.launches i.launch.toNat).any (·.cancelled) = false → s.isCancelled (queueCore c) i.launch = false →
      Happens (.rootAdmitRetry q) s (fun t => (t.queue q).slots = tdel w.slots slot ∧ Queued1 s t (queueCore c) i)) ∧
    (∀ v, q < 8192 → wqcfgBad v = false →
      (c.getLsbD 63 = false → Happens (.wqcfg q v) s (fun t => (t.queue q).slots = w.slots ∧
        ∀ k, k < 64 → (t.queue q).cfg.getLsbD k = (v.getLsbD k && decide (k ≠ 42)))) ∧
      (c.getLsbD 63 = true → Happens (.wqcfg q v) s (fun t =>
        (∀ k, k < 63 → (t.queue q).cfg.getLsbD k = c.getLsbD k) ∧ (t.queue q).cfg.getLsbD 63 = v.getLsbD 63 ∧
        (v.getLsbD 63 = true → (t.queue q).slots = w.slots) ∧
        (v.getLsbD 63 = false → ∀ e ∈ (t.queue q).slots, e ∈ w.slots ∧ ∀ n d, e.2 ≠ .reserved n d)))) ∧
    (∀ r v, r < 1024 → (s.ring r).on = true →
      Happens (.hrcfg r 0 v) s (fun t => t.ring r = s.ring r) ∧
      (v.getLsbD 63 = true → Happens (.hrcfg r 1 v) s (fun t => t.ring r = s.ring r)) ∧
      (v.getLsbD 63 = false → (r = 0 ∨ (s.ring r).held = []) → Happens (.hrcfg r 1 v) s (fun t =>
        ∃ c, t.ring r = { s.ring r with cfg := c } ∧ c.getLsbD 63 = false ∧ ∀ k, k < 63 → c.getLsbD k = (s.ring r).cfg.getLsbD k))) ∧
    (∀ r v, r < 1024 → (s.ring r).held = [] →
      ((s.ring r).on = false → Happens (.hrcfg r 0 v) s (fun t => (t.ring r).base = v >>> 12 <<< 12 ∧ (t.ring r).cfg = (s.ring r).cfg)) ∧
      ((s.ring r).on = false → 6 ≤ (v.extractLsb' 51 5).toNat → (v.extractLsb' 51 5).toNat ≤ 16 → v.getLsbD 63 = true →
        Happens (.hrcfg r 1 v) s (fun t => (t.ring r).cfg = v &&& 0xFFF8FC00FFFFFFFF ∧ (t.ring r).tail = 0 ∧ (t.ring r).head = 0)) ∧
      ((v.toNat % 2 ^ 32 + 2 ^ 32 - (s.ring r).head) % 2 ^ 32 ≤ ((s.ring r).tail + 2 ^ 32 - (s.ring r).head) % 2 ^ 32 →
        Happens (.hrcfg r 3 v) s (fun t => (t.ring r).head = v.toNat % 2 ^ 32 ∧ (t.ring r).tail = (s.ring r).tail))))

/-- R47, R311, R408, R414, R415, R425: GRAPHSUB refuses a descriptor with an ERROR entry or submits its graph, the first launch at
once; a phase is announced, and at its end WORKDONE is written; CANCELW cancels a launch of its function's job; PRRESP has every
page requested under its identity walked again or refuses it; ATTREQ reads the nonce and the report is written. The host's writes
act from bring-up step 5 on (R426). -/
def Obligations.HostControl : Prop :=
  ∀ (s : State) (fn : Nat), Memory.wf s.mem = true → 5 ≤ s.health.step →
    (∀ addr code, let ring := ((s.hostWord addr 1).extractLsb' 32 10).toNat
      s.graphFault fn addr = some code → RingReady s ring → Happens (.graphsub fn addr) s (fun t =>
        t.host.graphs = s.host.graphs ∧ RingTakes s t ring 3 [4, addr, BitVec.ofNat 64 code, s.gtsWord])) ∧
    (∀ addr i, let q := (s.hostWord addr 1).toNat % 2 ^ 13
      s.graphFault fn addr = none → s.host.graphs = [] → (s.queue q).freeSlot = some i →
      Happens (.graphsub fn addr) s (fun t =>
        tfind (t.queue q).slots i = some (.filled (s.queue q).seq ((List.range 5).map (fun k => s.hostWord addr (8 + k)))
          (some ((s.hostWord addr 0).extractLsb' 32 32, 0))) ∧ t.mem = s.mem ∧
        ∃ g, t.host.graphs = [g] ∧ g.id = (s.hostWord addr 0).extractLsb' 32 32 ∧ g.queue = q ∧
          g.job = (s.queue q).cfg.setWidth 32 ∧ g.launches.length = (s.hostWord addr 1).toNat / 2 ^ 58 + 1 ∧
          ∀ k l, nth g.launches k = some l → l.words = (List.range 5).map (fun j => s.hostWord addr (8 + 16 * k + j)) ∧
            l.pred = s.hostWord addr (16 + 16 * k) ∧ (k = 0 → l.st = 1) ∧ (l.pred ≠ 0 → l.st = 0))) ∧
    (∀ word, let ring := (word.extractLsb' 48 10).toNat
      let job : W32 := (s.ring ring).cfg.extractLsb' 0 32
      word.extractLsb' 58 5 = 0#5 → (∀ p ∈ s.host.phases, ¬ (p.id = word.setWidth 32 ∧ p.job = job)) →
      Happens (.phasectl fn word) s (fun t => t.host.phases = s.host.phases ++
        [⟨word.setWidth 32, job, ring, (word.extractLsb' 32 16).toNat, word.getLsbD 63, false⟩] ∧ t.mem = s.mem)) ∧
    (∀ phase p, s.host.phases.find? (fun p => p.id == phase && p.left == 0) = some p → p.last = false → RingReady s p.ring →
      Happens (.phaseAllreduceDone phase) s (fun t => p ∉ t.host.phases ∧
        RingTakes s t p.ring 2 [BitVec.ofNat 64 (2 * 2 ^ 62 + p.id.toNat), if p.cancelled then 1 else 0, s.gtsWord])) ∧
    (∀ name v, name.extractLsb' 32 32 = 0#32 → tfind s.launches (name.toNat % 2 ^ 32) = some v → v.work ≠ 0 →
      (∃ q ∈ s.host.queues, q.2.cfg ≠ 0 ∧ (q.2.cfg.extractLsb' 56 7).toNat = fn ∧ q.2.cfg.setWidth 32 = v.job) →
      Happens (.cancelw fn name) s (fun t => tfind t.launches (name.toNat % 2 ^ 32) = some { v with cancelled := true } ∧
        t.mem = s.mem)) ∧
    (∀ word, let mine := fun (r : PageReq) => r.fn.toNat == fn && r.prid == word.toNat % 2 ^ 32 && !r.answered
      let l := s.pageReqs.filter mine
      word.extractLsb' 32 30 = 0#30 →
      (word.extractLsb' 62 2 = 0#2 → Happens (.prresp fn word) s (fun t => (∀ x ∈ t.pageReqs, mine x = false) ∧
        t.pageReqs.length = s.pageReqs.length ∧
        (∃ ws, t.walks = s.walks ++ ws ∧ ws.map (fun w => (w.vpn, w.job)) = l.map (fun r => (r.vpn, r.job)) ∧ ∀ w ∈ ws, w.waiters = []) ∧
        ∃ ms, t.flight = s.flight ++ ms ∧ ms.map (·.img.w1) = l.map (fun r => BitVec.ofNat 64 (r.vpn * 2 ^ 16)))) ∧
      (word.extractLsb' 62 2 = 1#2 → Happens (.prresp fn word) s (fun t =>
        t.pageReqs = s.pageReqs.filter (fun x => !mine x) ∧ t.walks = s.walks))) ∧
    (∀ addr, s.host.attstat ≠ 2 → Happens (.attreq addr) s (fun t => t.host.attstat = 2 ∧ t.host.attBuf = addr ∧
      t.host.attNonce = (List.range 4).map (s.hostWord addr) ∧ t.mem = s.mem)) ∧
    (s.host.attstat = 2 → let a := hostBase + s.host.attBuf.toNat
      Happens .attestationReportDone s (fun t => t.host.attstat = 1 ∧ (∀ j, j < a ∨ a + 2048 ≤ j → memGet t.mem j = memGet s.mem j) ∧
        (∀ k, k < 8 → memGet t.mem (a + k) = (1 : W64).extractLsb' (8 * k) 8) ∧
        ∀ k, k < 32 → memGet t.mem (a + 16 + k) = (s.host.attNonce.getD (k / 8) 0).extractLsb' (8 * (k % 8)) 8))

/-! ### Events: slices, errors, time and health -/

/-- R47, R69 to R72, R324, R331, R332, R394, R401, R419: the running slice ends at its instant: no worker slot holds a task, each
committed one is saved, the queues are empty and a pending table is in force. A slice of the table starts with its record; a
table is installed or refused; a wait of 2^30 cycles traps WATCHDOG, but while the answer to a message of the task is outstanding
(log 80); uncorrectable data traps MCHECK, and a region's block is found bad (R247); IDLE, WFM and SELFT end. -/
def Obligations.SlicesAndErrors : Prop :=
  ∀ (s : State), Memory.wf s.mem = true →
    (∀ v, s.sched.slice = some v → v.stop ≤ s.gtsOf 0 → Happens .sliceEnd s (fun t => t.sched.slice = none ∧
      t.sched.lastStop = v.stop ∧ t.sched.slicetab = s.sched.pending.getD s.sched.slicetab ∧ t.sched.pending = none ∧
      (∀ core, isWorkerCore core = true → (t.coreAt core).deque = [] ∧ ∀ k, subQueue (t.coreAt core) k = []) ∧
      ∀ sid, isWorkerCore (sidCore sid) = true → (t.slotAt sid).task = none ∧
        ((s.slotAt sid).task.isSome = true → (s.slotAt sid).cmtd = true →
          (∀ j, (s.slotAt j).task.isSome = true → (s.slotAt j).tid = (s.slotAt sid).tid → j = sid) →
          (∀ m ∈ (s.coreAt (sidCore sid)).cmds, m.tid ≠ (s.slotAt sid).tid) →
          ∃ u, tfind t.saved (s.slotAt sid).tid = some u ∧ u.st = 1 ∧ u.slot.task = (s.slotAt sid).task ∧
            u.slot.pc = (s.slotAt sid).pc))) ∧
    (∀ i x, s.sched.slice = none → s.sched.pending = none → s.entryAt s.sched.slicetab (s.gtsOf 0) = some (i, x) →
      s.mayStart x.start = true → let r := (List.range 8).map (s.sysWord x.record)
      recordBad r = false → Happens .sliceStart s (fun t =>
        t.sched.slice = some ⟨x.job, r, i, x.start, x.stop, s.cyc, none⟩ ∧ tfind t.sched.records x.job.toNat = some r)) ∧
    (∀ addr, 5 ≤ s.health.step → (s.tableFault addr = none → exec (.slicereq addr) s = .next { s with sched := { s.sched with pending := some addr } }) ∧
      ∀ i, s.tableFault addr = some i → RingReady s 0 → Happens (.slicereq addr) s (fun t => t.sched = s.sched ∧
        RingTakes s t 0 3 [5, BitVec.ofNat 64 i, 1, s.gtsWord])) ∧
    (∀ sid w, sid < 2 ^ 16 → s.slotOfTid (s.slotAt sid).tid = some sid → (s.slotAt sid).wait = some w → 1 ≤ w.kind → w.kind < 13 →
      w.kind ≠ 4 → tfind s.saved (s.slotAt sid).tid = none →
      ((∃ r ∈ s.reqs, r.tid = (s.slotAt sid).tid ∧ r.num = 0 ∧ r.st = .sent) → exec (.watchdog sid) s = .next s) ∧
      ((∀ r ∈ s.reqs, r.tid = (s.slotAt sid).tid → r.num ≠ 0) → w.since + 2 ^ 30 ≤ s.cyc →
        exec (.watchdog sid) s = .next (s.takeTrap sid .watchdog (BitVec.ofNat 64 w.kind))) ∧
      (s.cyc < w.since + 2 ^ 30 → exec (.watchdog sid) s = .next s)) ∧
    (∀ sid addr unit, (∀ r ∈ s.regions, r.has addr = false) → (s.slotAt sid).task ≠ none →
      exec (.errorDetect sid addr unit) s =
        .next (({ s with health := { s.health with todo := s.health.todo ++ [unit] } } : State).takeTrap sid .mcheck addr)) ∧
    (∀ sid addr unit, (∃ r ∈ s.regions, r.has addr = true) → exec (.errorDetect sid addr unit) s =
      .next { s with health := { s.health with todo := s.health.todo ++ [unit] }, poison := s.poison ++ [(whirlBase + addr.toNat) / 64] }) ∧
    (∀ sid, let t0 := s.slotAt sid
      let ends := fun (i : Instr) (x : BitVec 5 → W64) => Happens i s (fun t => (t.slotAt sid).view = { t0.view with x := x } ∧
        (t.slotAt sid).pc = t0.pc + 4 ∧ (t.slotAt sid).pend = none ∧ (∀ k, k ≠ sid → t.slotAt k = s.slotAt k) ∧ t.mem = s.mem)
      (∀ d, t0.pend = some (.idle d) → d.toNat ≤ s.gtsOf (coreDie (sidCore sid)) → ends (.idleWfmTimeout sid) t0.view.x) ∧
      (∀ d a, t0.pend = some (.wfm d a) → a.toNat ≤ s.gtsOf (coreDie (sidCore sid)) →
        ends (.idleWfmTimeout sid) (updX t0.view.x d 0)) ∧
      (∀ d u n, t0.pend = some (.selft d u) → n < 2 → ends (.selftResult sid n) (updX t0.view.x d (BitVec.ofNat 64 n))))

/-- R347, R354, R408, R412, R416, R417, R421 to R424, R426: a test of a unit that had an error writes a HEALTH entry, and one that
fails fences a core, marks a die-to-die link or retires a lane; a unit that SELFT does not test, of class TRANSIENT (log 68); the
16th correctable error of a unit in 24 hours has it tested; end of life is predicted once an hour and reported once below 8,760
hours. Bring-up goes on when HBM and the firmware pass, whose key digest, version and signature are checked (log 82), then when
the dies are linked, then when the host link is trained (the last two by inputs of no row, log 81); the control page reads. The
grandmaster is the lowest package with a locked source; a package out of sync ends its slice; sync messages come over a port that
is UP. Page-ring and link registers are written. -/
def Obligations.TimeAndHealth : Prop :=
  ∀ (s : State), Memory.wf s.mem = true →
    (∀ unit pass n, unit ∈ s.health.todo → s.unitResult unit = some n → RingReady s 0 → Happens (.healthSelftest unit pass) s (fun t =>
        t.health.todo = s.health.todo.erase unit ∧
        t.health.hlthst.extractLsb' 0 24 = BitVec.ofNat 24 ((n + 1) * 2 ^ 16 + unit.toNat % 2 ^ 16) ∧
        RingTakes s t 0 5 [unit, 0, s.health.eolhrs.setWidth 64, s.gtsWord])) ∧
    (∀ unit, unit ∈ s.health.todo → s.unitResult unit = none → RingReady s 0 → Happens (.healthSelftest unit true) s (fun t =>
        t.health.todo = s.health.todo.erase unit ∧
        t.health.hlthst.extractLsb' 0 24 = BitVec.ofNat 24 (2 ^ 16 + unit.toNat % 2 ^ 16) ∧
        RingTakes s t 0 5 [unit, 0, s.health.eolhrs.setWidth 64, s.gtsWord])) ∧
    (∀ unit, unit ∈ s.health.todo → s.unitResult unit = none → unit.toNat / 2 ^ 56 = 1 → Happens (.healthSelftest unit false) s
      (fun t => (t.coreAt (unit.toNat % 2 ^ 16 / 8)).fenced = true ∧
        t.health.hlthst.extractLsb' 0 24 = BitVec.ofNat 24 (2 * 2 ^ 16 + unit.toNat % 2 ^ 16))) ∧
    (∀ unit k, unit ∈ s.health.todo → unit = BitVec.ofNat 64 (5 * 2 ^ 56 + k) → k < 6 → s.unitResult unit = none → Happens (.healthSelftest unit false) s
      (fun t => t.fabric.d2dFailed.getLsbD k = true ∧ t.health.hlthst.getLsbD (34 + k) = true)) ∧
    (∀ unit, unit ∈ s.health.todo → s.unitResult unit = none → unit.toNat / 2 ^ 56 = 4 → Happens (.healthSelftest unit false) s
      (fun t => (t.port (unit.toNat % 2 ^ 32 / 8)).bad.getLsbD (unit.toNat % 8) = true)) ∧
    (∀ unit, let n := (s.health.corr.filter (fun e => decide (e.1 = unit) && decide (s.gtsOf 0 < e.2 + 86400 * 10 ^ 9))).length
      (15 ≤ n → Happens (.correctableError unit) s (fun t => t.health.todo = s.health.todo ++ [unit] ∧ t.mem = s.mem)) ∧
      (n < 15 → Happens (.correctableError unit) s (fun t => t.health.todo = s.health.todo ∧ (unit, s.gtsOf 0) ∈ t.health.corr))) ∧
    (s.health.step = 9 → let hour := s.gtsOf 0 / (3600 * 10 ^ 9)
      let n := Config.eolPrediction hour
      (hour ≤ s.health.eolHour → exec .eolUpdate s = .next s) ∧
      (s.health.eolHour < hour → 8760 ≤ n.toNat → exec .eolUpdate s =
        .next { s with health := { s.health with eolhrs := n, eolHour := hour } }) ∧
      (s.health.eolHour < hour → n.toNat < 8760 → s.health.eolBelow = false → RingReady s 0 → Happens .eolUpdate s (fun t =>
        t.health.eolhrs = n ∧ t.health.eolHour = hour ∧ t.health.eolBelow = true ∧ RingTakes s t 0 5 [0, 3, n.setWidth 64, s.gtsWord]))) ∧
    (s.health.step ≤ 3 → ∀ image e, e ≤ 8 →
      let h : Health := if firmwareCode image ≠ 0 then { s.health with step := 2, errCode := firmwareCode image }
        else { s.health with firmware := firmwareWords image, step := if e = 0 then 4 else 3, errCode := e }
      exec (.powerGood image e) s = .next { s with health := h }) ∧
    (firmwareCode none = 1 ∧ ∀ f : FwImage,
      (Config.sha512 (bytesOf 512 f.key.toNat) ≠ Config.fusedDigest → firmwareCode (some f) = 2) ∧
      (Config.sha512 (bytesOf 512 f.key.toNat) = Config.fusedDigest → f.version < Config.rollbackFloor → firmwareCode (some f) = 3) ∧
      (firmwareCode (some f) = 0 ↔ Config.sha512 (bytesOf 512 f.key.toNat) = Config.fusedDigest ∧ Config.rollbackFloor ≤ f.version ∧
        pssOk f.key.toNat f.signature.toNat (f.header ++ sha f.body) = true)) ∧
    (∀ failed, s.health.step = 4 → (s.input (.diesUp failed)).health.step = 5 ∧
      (s.input (.diesUp failed)).fabric.d2dFailed = s.fabric.d2dFailed ||| failed ∧
      (s.input (.diesUp failed)).health.hlthst.extractLsb' 34 6 = s.health.hlthst.extractLsb' 34 6 ||| failed) ∧
    (s.health.step = 5 → (s.input .hostUp).health.step = 6 ∧ ∀ n, n < 18 → ((s.input .hostUp).port n).st = .training) ∧
    (∀ fn, 5 ≤ s.health.step → fn < 64 ∨ fn = 127 →
      (s.input (.pageRead fn 0x000)).host.replies =
        s.host.replies ++ [BitVec.ofNat 64 (s.health.step * 2 ^ 56 + s.health.errCode * 2 ^ 48 + fn)] ∧
      (s.input (.pageRead fn 0x040)).host.replies = s.host.replies ++ [BitVec.ofNat 64 (s.fnAt fn).prtail] ∧
      (s.input (.pageRead fn 0x048)).host.replies = s.host.replies ++ [s.gtsWord] ∧
      (s.input (.pageRead fn 0x050)).host.replies = s.host.replies ++ [s.health.eolhrs.setWidth 64]) ∧
    exec .smbusStatusRead s = .next
      { s with health := { s.health with smbus := s.health.smbus ++ [(s.health.step, s.health.errCode)] } } ∧
    (∀ pkg locked, Happens (.externalSourceLock pkg locked) s (fun t =>
      (∀ p, p ∈ t.health.locked ↔ (p ≠ pkg ∧ p ∈ s.health.locked) ∨ (p = pkg ∧ locked = true)) ∧
      (t.health.locked = [] → t.health.grandmaster = 0) ∧
      (t.health.locked ≠ [] → t.health.grandmaster ∈ t.health.locked ∧ ∀ p ∈ t.health.locked, t.health.grandmaster.toNat ≤ p.toNat))) ∧
    (∀ early ticks, (∀ n, n < 18 → (s.port n).st ≠ .up) → exec (.syncMessage early ticks) s = .next s) ∧
    (∀ early ticks, (∃ n, n < 18 ∧ (s.port n).st = .up) → (s.health.inSync = false → ticks < 50 → 7 ≤ s.health.step → Happens (.syncMessage early ticks) s (fun t =>
        t.health.inSync = true ∧ t.sched = s.sched ∧ t.health.offset = if early then -(ticks : Int) else ticks)) ∧
      (s.health.inSync = true → 80 < ticks → Happens (.syncMessage early ticks) s (fun t => t.health.inSync = false ∧
        t.sched.slice = none))) ∧
    (s.health.inSync = true → s.health.offset = 0 →
      (s.isMaster = false → s.health.lastSync + 250000000 ≤ s.gtsOf 0 → Happens .syncTimeout s (fun t =>
        t.health.inSync = false ∧ t.sched.slice = none)) ∧
      (s.gtsOf 0 < s.health.lastSync + 250000000 → exec .syncTimeout s = .next s)) ∧
    (∀ unit v, (5 ≤ s.health.step → unit < 64 ∨ unit = 127 →
        Happens (.registerWrite true unit 0x028 v) s (fun t => (t.fnAt unit).prbase = v >>> 12 <<< 12 ∧ t.mem = s.mem) ∧
        Happens (.registerWrite true unit 0x038 v) s (fun t => (t.fnAt unit).prhead = v ∧ t.mem = s.mem)) ∧
      (unit < 18 → v.getLsbD 0 = true → Happens (.registerWrite false unit 0x010 v) s (fun t => (t.port unit).werr = false ∧
        t.port unit = { s.port unit with werr := false } ∧ t.mem = s.mem)))

/-! ### Events: the memory side -/

/-- R204, R210, R223, R224, R249, R406, R428: an access of the host to a line outside the regions' rows reads or writes the line
at its slice, which the host then holds until its back-invalidation ends; a line reaches a cluster's cache, or is written
back; the next element of a stream joins its buffer. -/
def Obligations.MemorySide : Prop :=
  ∀ (s : State), Memory.wf s.mem = true →
    (∀ pa mask line, 5 ≤ s.health.step → pa < s.heldFrom → pa < 2 ^ 39 → Happens (.hostMemoryAccess true pa mask line) s (fun t =>
      pa / 64 ∈ t.hostHeld ∧ (∀ l ∈ s.hostHeld, l ∈ t.hostHeld) ∧ ∀ a, memGet t.mem a =
        if a / 64 = pa / 64 ∧ mask.getLsbD (a % 64) = true then line.extractLsb' (8 * (a % 64)) 8 else memGet s.mem a)) ∧
    (∀ pa mask line, 5 ≤ s.health.step → pa < s.heldFrom → pa < 2 ^ 39 → s.poison.contains (pa / 64) = false →
      Happens (.hostMemoryAccess false pa mask line) s (fun t => t.mem = s.mem ∧ pa / 64 ∈ t.hostHeld ∧
        ∃ l, t.host.replies = s.host.replies ++ 0 :: l ∧ l.length = 8 ∧
          ∀ k, k < 64 → (l.getD (k / 8) 0).extractLsb' (8 * (k % 8)) 8 = memGet s.mem (pa / 64 * 64 + k))) ∧
    (∀ pa, Happens (.backInvalidateComplete pa) s (fun t => t.mem = s.mem ∧
      ∀ l, l ∈ t.hostHeld ↔ l ∈ s.hostHeld ∧ l ≠ pa / 64)) ∧
    (∀ cl pa, pa < 2 ^ 39 → pa / 64 ∉ s.hostHeld →
      Happens (.localAccessCompletion cl pa false) s (fun t => ∀ a, (a / 64 = pa / 64 → t.dirtyByte cl a = none ∧
        memGet t.mem a = s.seenByte cl a) ∧ (a / 64 ≠ pa / 64 → t.dirtyByte cl a = s.dirtyByte cl a ∧ memGet t.mem a = memGet s.mem a)) ∧
      Happens (.localAccessCompletion cl pa true) s (fun t => (tfind (t.clusterAt cl).lines (pa / 64)).isSome = true ∧
        ∀ a, t.seenByte cl a = s.seenByte cl a)) ∧
    (∀ sid k c i va p, (RegFile.read (s.slotAt sid).z k).nextFetch = some (c, i) → s.streamAsked sid k = false →
      c.addr i.1 i.2.1 i.2.2 = va.toNat → addrFault va 64 = false → va.toNat % 64 = 0 →
      s.deviceTr (sidCore sid) (streamUnit (s.slotAt sid).tid k) (s.slotAt sid).job .read va 64 = .ok p → p.here = true → s.hostHolds p 64 = false →
      s.poison.contains (p.flat / 64) = false →
      let u : State := { s with cur := sid }
      Happens (.streamFetchArrival sid k) s (fun t => ∃ line,
        RegFile.read (t.slotAt sid).z k = { RegFile.read (s.slotAt sid).z k with
          buf := (RegFile.read (s.slotAt sid).z k).buf ++ [⟨line, none⟩] } ∧
        (∀ j, j ≠ k → RegFile.read (t.slotAt sid).z j = RegFile.read (s.slotAt sid).z j) ∧ (t.slotAt sid).x = (s.slotAt sid).x ∧
        (∀ n, n < 64 → laneOf 8 line n = if c.hint = 2 then u.byteAt p n else u.loadByte p n) ∧
        ∀ a, memGet t.mem a = memGet s.mem a ∨ s.dirtyByte (coreCluster (sidCore sid)) a = some (memGet t.mem a)))

/-! ### Events: requests and gateways -/

/-- R114, R313, R337, R339 to R344: the answer to a request of a waiting task: DATA ends a load with the value of its bytes, ACCEPT
ends a store, NAK traps REMOTE_PERM, and RNR backs off, to be sent again when due, or traps REMOTE_TIMEOUT at RNRLIM. At its
slice a load of another package is answered DATA and a store is performed and answered ACCEPT. The answer to an acquiring access
acquires, and what the task's streams had fetched ahead is dropped (R211). -/
def Obligations.RemoteAnswers : Prop :=
  ∀ (s : State), Memory.wf s.mem = true →
    (∀ rid r sid len g done skip, rid < 2 ^ 32 → s.reqs.find? (fun r => r.host.isNone && r.st == .sent && r.net == rid) = some r →
      s.slotOfTid r.tid = some sid → (s.slotAt sid).pend = some (.remote len g [r.rid] none done skip) →
      let t0 := s.slotAt sid
      let u := if r.acq then (s.dropReq r.rid).dropAhead sid else s.dropReq r.rid
      let retires := fun (i : Instr) (x : BitVec 5 → W64) => Happens i s (fun t => t.reqs = u.reqs ∧
        (r.acq = true → (t.coreAt (sidCore sid)).stale = s.tick) ∧ (t.slotAt sid).view = { (u.slotAt sid).view with x := x } ∧ (t.slotAt sid).pc = t0.pc + BitVec.ofNat 64 len ∧
        (t.slotAt sid).pend = none ∧ (∀ k, k ≠ sid → t.slotAt k = s.slotAt k) ∧ t.mem = s.mem)
      (∀ d n sgn payload, r.cont = .load d (2 ^ n) sgn → n < 4 → r.mask = lineMask r.va (2 ^ n) → r.va.toNat % 2 ^ n = 0 →
        payload.length = 8 → let x := BitVec.ofNat (8 * 2 ^ n) (ofWords payload / 2 ^ (8 * (r.va.toNat % 64)))
        retires (.remoteAnswer rid 0 payload 0) (updX t0.view.x d (if sgn then x.signExtend 64 else x.setWidth 64))) ∧
      (r.cont = .store → retires (.remoteAnswer rid 1 [] 0) t0.view.x ∧
        exec (.remoteAnswer rid 3 [] 0) s = .next ((s.dropReq r.rid).takeTrap sid .remotePerm r.va) ∧
        (r.num ≠ 0 → r.limit ≤ r.rnr + 1 →
          exec (.remoteAnswer rid 2 [] 0) s = .next ((s.dropReq r.rid).takeTrap sid .remoteTimeout r.va)) ∧
        (r.num ≠ 0 → r.rnr + 1 < r.limit → exec (.remoteAnswer rid 2 [] 0) s = .next (s.putReq { r with
          rnr := r.rnr + 1, st := .backoff, since := s.gtsOf (coreDie (sidCore r.sid)) + 1000 * 2 ^ r.rnr })))) ∧
    (∀ rid, Happens (.rnrResend rid) s (fun t => t = { s with reqs := t.reqs } ∧ t.reqs.length = s.reqs.length ∧
      ∀ k r, nth s.reqs k = some r → ∃ u, nth t.reqs k = some u ∧ u = { r with st := u.st, since := u.since } ∧
        (r.rid = rid → r.st = .backoff → r.since ≤ s.gtsOf (coreDie (sidCore r.sid)) → u.st ≠ .backoff) ∧
        (r.rid ≠ rid ∨ r.st ≠ .backoff ∨ s.gtsOf (coreDie (sidCore r.sid)) < r.since → u = r))) ∧
    (∀ idx d req pa tso s1, nth s.fabric.agent idx = some (d :: req) → s.agentBefore idx d.toNat req = false →
      let rest := { s with fabric := { s.fabric with agent := delAt s.fabric.agent idx } }
      let answers := fun (t : State) (status : Nat) (pay : List W64) => t.fabric.agent = delAt s.fabric.agent idx ∧
        ∃ o, t.fabric.out = s.fabric.out ++ [o] ∧ pkType o.pkt = 2 ∧ pkStatus o.pkt = status ∧ pkRid o.pkt = pkRid req ∧
          pkDpkg o.pkt = pkSpkg req ∧ pkPay o.pkt = pay
      s1.hostHolds (.hbm pa false) 64 = false → pa < s.heldFrom →
      (pkNum req = 2 → rest.destTr d.toNat req .read true (pkAddr req) = (.ok pa tso, s1) →
        Happens (.remoteAgentRequest idx) s (fun t => t.mem = s.mem ∧ ∃ pay, answers t 0 pay ∧ pay.length = 8 ∧
          ∀ k, k < 64 → (pay.getD (k / 8) 0).extractLsb' (8 * (k % 8)) 8 =
            if (pkAux req).getLsbD k then memGet s.mem (pa / 64 * 64 + k) else 0)) ∧
      (pkNum req = 3 → pkLen req ≠ 0 → rest.destTr d.toNat req .write true (pkAddr req) = (.ok pa tso, s1) →
        Happens (.remoteAgentRequest idx) s (fun t => answers t 1 [] ∧ ∀ a, memGet t.mem a =
          if a / 64 = pa / 64 ∧ (pkAux req).getLsbD (a % 64) = true then ((pkPay req).getD (a % 64 / 8) 0).extractLsb' (8 * (a % 8)) 8
          else memGet s.mem a)))

/-- R314, R335 to R343: a request leaves, after those of its source and class that came to the gateway before it, with a new RID
in a packet of its fields, on a port or to wait for one; a packet that found no port in 10 µs ends as RNR or FULL. Of the packets
that arrive a malformed one is dropped, one of a job without a record is answered NAK, an image in no order goes on to its core,
and an access that translates goes to its agent; one to a range that has migrated is answered MOVED with where it went. A
die-to-die link that fails is marked. -/
def Obligations.Gateways : Prop :=
  ∀ (s : State),
    (∀ idx r, nth s.reqs idx = some r → r.st = .queued → r.host = none → r.img = none → s.orphan r = false → s.gatewayBefore idx r = false →
      r.pkg < 2 ^ 10 → r.num < 64 → let rid := (s.fabric.nextRid + 1) % 2 ^ 32
      let die := coreDie (sidCore r.sid)
      let right := fun (p : List W64) => pkDpkg p = r.pkg ∧ pkSpkg p = s.pkg.toNat ∧ pkType p = 1 ∧ pkNum p = r.num ∧ pkAddr p = r.va ∧
        pkJob p = r.job ∧ pkRid p = rid ∧ pkAux p = (if r.num = 2 ∨ r.num = 3 then r.mask else 0) ∧ pkSrc p = s.srcNum r.sid ∧ pkFn p = r.fn
      let sent := fun (t : State) => t.reqs = s.reqs.map (fun q => if q.rid = r.rid then { r with net := rid, st := .sent, seq := none } else q)
      (s.pickPort die r.pkg = none → Happens (.gatewayOutgoing idx) s (fun t => sent t ∧ ∃ o, t.fabric.out = s.fabric.out ++ [o] ∧
        o.die = die ∧ right o.pkt)) ∧
      (∀ n, s.pickPort die r.pkg = some n → (s.port n).usable = true ∧ Happens (.gatewayOutgoing idx) s (fun t => sent t ∧
        t.fabric.out = s.fabric.out ∧ ∃ p, right p ∧ (t.port n).sent = (s.port n).sent ++ [p] ∧
          (t.port n).queue = (s.port n).queue ++ packetFlits p))) ∧
    (∀ idx o, nth s.fabric.out idx = some o → o.since + 10000 ≤ s.gtsOf o.die →
      let rest := { s with fabric := { s.fabric with out := delAt s.fabric.out idx } }
      (∀ r, pkType o.pkt = 1 → pkNum o.pkt < 68 → s.reqs.find? (fun r => r.host.isNone && r.st == .sent && r.net == pkRid o.pkt) = some r →
        exec (.portHoldTimeout idx) s = .next (rest.answered r 2 0 0 0)) ∧
      (∀ r, pkType o.pkt = 0 → s.reqs.find? (fun r => r.host.isNone && r.st == .sent && r.net == pkRid o.pkt) = some r →
        exec (.portHoldTimeout idx) s = .next (rest.answered r 6 0 0 0))) ∧
    (∀ die idx p, nth (s.dieAt die).arrived idx = some p → (∀ d ∈ s.fabric.performed, sameReq p d = false) →
      s.fabric.performed.length < 4096 →
      let taken := fun (t : State) => (t.dieAt die).arrived = delAt (s.dieAt die).arrived idx
      let known := (tfind s.sched.records (pkJob p).toNat).isSome
      (pkBad p = true → Happens (.gatewayArrival die idx) s (fun t => taken t ∧ t.flight = s.flight ∧ t.fabric.out = s.fabric.out ∧
        t.health.hlthst = s.health.hlthst ||| 0x100000000)) ∧
      (pkBad p = false → pkType p < 2 → pkNum p < 68 → known = false → Happens (.gatewayArrival die idx) s (fun t => taken t ∧
        t.flight = s.flight ∧ ∃ o, t.fabric.out = s.fabric.out ++ [o] ∧ pkType o.pkt = 2 ∧ pkStatus o.pkt = 3 ∧ pkRid o.pkt = pkRid p)) ∧
      (pkBad p = false → pkType p = 0 → known = true → pkAux p = 0 → targetKind (pkAddr p) = 0 → s.msgTargetOk p = true →
        pkOrdf p = false → Happens (.gatewayArrival die idx) s (fun t => taken t ∧ t.fabric.out = s.fabric.out ∧
          ∃ m, t.flight = s.flight ++ [m] ∧ m.img = pkImage p ∧ m.dest = s.liveCore (targetCore (pkAddr p)) ∧ m.ans = some p)) ∧
      (∀ pa tso s2, pkBad p = false → pkType p = 1 → known = true → pkNum p = 2 →
        ((s.modDie die (fun v => { v with arrived := delAt v.arrived idx })).forget die).destTr die p .read true (pkAddr p) =
          (.ok pa tso, s2) → Happens (.gatewayArrival die idx) s (fun t => taken t ∧ t.fabric.out = s.fabric.out ∧
          t.flight = s.flight ∧ t.fabric.agent = s.fabric.agent ++ [BitVec.ofNat 64 die :: p])) ∧
      (∀ f, pkBad p = false → pkType p = 1 → known = true → pkNum p = 2 → addrFault (pkAddr p) 1 = false →
        inReserved (pkAddr p) = false → inLink (pkAddr p) = false → s.regionOf (pkJob p) (pkAddr p) = none → supervisorHalf (pkAddr p) = false →
        tlbLookup (s.dieAt die).tlb (s.asid (pkJob p)) (pkAddr p) = none → s.forwardOf (pkJob p) (pkAddr p) = some f →
        Happens (.gatewayArrival die idx) s (fun t => taken t ∧ t.fabric.agent = s.fabric.agent ∧
          ∃ o, t.fabric.out = s.fabric.out ++ [o] ∧ pkType o.pkt = 2 ∧ pkStatus o.pkt = 4 ∧ pkRid o.pkt = pkRid p ∧
            pkAux o.pkt = BitVec.ofNat 64 (f.pkg * 2 ^ 16 + f.size)))) ∧
    (∀ link, link < 6 → Happens (.dieLinkFailure link) s (fun t => (t.fabric.d2dFailed).getLsbD link = true ∧
      t.health.hlthst = s.health.hlthst ||| BitVec.ofNat 64 (2 ^ (34 + link)) ∧
      t.health.todo = s.health.todo ++ [BitVec.ofNat 64 (5 * 2 ^ 56 + link)] ∧ t.mem = s.mem))

/-! ### Events: the Tchirrix ports -/

/-- R345: a new flit of a port: its header fields, counter and payload. -/
structure Sys2Proof.Machine.FlitOf (p : Port) (f : Flit) (type : Nat) (sop eop : Bool) (pay : List W64) : Prop where
  type : fltType f.hdr = type
  slot : fltSlot f.hdr = p.txB
  seq : fltSeq f.hdr = p.fseq
  ack : fltAck f.hdr = p.rxseq
  nak : fltNak f.hdr = p.naks
  sop : fltSop f.hdr = sop
  eop : fltEop f.hdr = eop
  ctr : f.ctr = p.tx.txcnt
  pay : f.payload = pay

/-- R345 to R357, R386, R387: a port that is UP sends its next DATA flit, or an idle one, under the counter of the slot in force;
it accepts the flit expected and refuses others, of the reserved types too, by NAK; it replays after 2 µs. A port that trains is
NOKEY or UP with a right partner, on the lanes that are good and not retired (R422), and DOWN after 1 s; DOWN it trains again
after 1 s. SWITCH, RETRAIN, CLRERR, DISABLE and the key controls act as the register says. -/
def Obligations.Ports : Prop :=
  ∀ (s : State) (n : Nat), n < 18 →
    let p := s.port n
    let now := s.gtsOf (portDie n)
    (∀ sop eop w r, p.open = true → p.markerDue = false → p.atLimit = false → p.queue = (sop, eop, w) :: r →
      Happens (.flitTransmit n) s (fun t => let q := t.port n
        q.queue = r ∧ q.fseq = p.fseq + 1 ∧ q.naks = false ∧ q.tx.txcnt = p.tx.txcnt + 1 ∧
        ∃ f, q.replay = p.replay ++ [f] ∧ FlitOf p f 1 sop eop w)) ∧
    (p.open = true → p.markerDue = true → Happens (.flitTransmit n) s (fun t => (t.port n).txB = !p.txB ∧ (t.port n).swpend = false ∧
      (t.port n).queue = p.queue ∧ ∃ f pay, (t.port n).replay = p.replay ++ [f] ∧ FlitOf p f 2 false false pay ∧
        pay.head? = some (if p.txB then 0 else 1))) ∧
    (p.open = true → p.markerDue = false → p.atLimit = false → p.queue = [] → p.naks = true ∨ p.lastNew + 1000 ≤ now →
      Happens (.idleFlit n) s (fun t => ∃ f, (t.port n).replay = p.replay ++ [f] ∧ FlitOf p f 0 false false (List.replicate 29 0))) ∧
    (∀ hdr pay, p.st = .up → fltNak hdr = false →
      (fltSeq hdr ≠ p.rxseq → Happens (.flitReceive n hdr pay true) s (fun t => t.port n = { p with naks := true })) ∧
      (fltSeq hdr = p.rxseq → fltSlot hdr = p.rxB → p.rxTries < 7 → p.authfail ≠ BitVec.allOnes 16 →
        Happens (.flitReceive n hdr pay false) s (fun t =>
          t.port n = { p with authfail := p.authfail + 1, rxTries := p.rxTries + 1, naks := true })) ∧
      (fltSeq hdr = p.rxseq → fltSlot hdr = p.rxB → p.rxTries < 7 → 3 ≤ fltType hdr → Happens (.flitReceive n hdr pay true) s (fun t =>
        t.port n = { p with rxTries := p.rxTries + 1, naks := true })) ∧
      (fltSeq hdr = p.rxseq → fltSlot hdr = p.rxB → fltType hdr < 2 → Happens (.flitReceive n hdr pay true) s (fun t =>
        (t.port n).rxseq = p.rxseq + 1 ∧ (t.port n).rx.rxcnt = p.rx.rxcnt + 1 ∧ (t.port n).rxTries = 0 ∧
        (fltType hdr = 0 → t.dies = s.dies) ∧
        (fltType hdr = 1 → fltSop hdr = true → fltEop hdr = true → pay.length = 29 → pkType pay = 1 →
          (t.dieAt (portDie n)).arrived = (s.dieAt (portDie n)).arrived ++ [pay.take (12 + 8 * (pkXreg pay).toNat + 8 * pkLen pay)])))) ∧
    (∀ t0, p.replayAt = some t0 → p.st = .up → t0 + 2000 ≤ now → p.replay ≠ [] →
      (p.attempts < 7 → p.replays.toNat + p.replay.length < 2 ^ 32 → Happens (.replayRetry n) s (fun t =>
        (t.port n).attempts = p.attempts + 1 ∧ (t.port n).replayAt = some now ∧ (t.port n).replay = p.replay ∧
        (t.port n).replays.toNat = p.replays.toNat + p.replay.length)) ∧
      (7 ≤ p.attempts → Happens (.replayRetry n) s (fun t => (t.port n).st = .down))) ∧
    (∀ good, p.st = .training → let g := good &&& ~~~p.bad
      g = 0xFF#8 ∨ g = 0x0F#8 ∨ g = 0xF0#8 →
      Happens (.trainingComplete n good (n / 3) (n % 3) s.pkg) s (fun t =>
        (t.port n).st = (if p.tx.ready && p.rx.ready then .up else .nokey) ∧ (t.port n).lanes = (if g = 0xFF then 8 else 4) ∧
        (t.port n).fseq = 0 ∧ (t.port n).rxseq = 0)) ∧
    (p.st = .training → p.entered + 1000000000 ≤ s.gtsOf 0 → Happens (.trainingTimeout n) s (fun t => (t.port n).st = .down)) ∧
    (p.st = .down → 6 ≤ s.health.step → p.entered + 1000000000 ≤ s.gtsOf 0 → Happens (.portRetry n) s (fun t =>
      (t.port n).st = .training ∧ (t.port n).entered = s.gtsOf 0)) ∧
    (p.swpend = false → p.autoAt ≠ some s.cyc → p.open = true → (p.slot (!p.txB)).ready = true → Happens (.switch n) s (fun t => (t.port n).txB = !p.txB ∧
      (t.port n).swpend = false ∧ (t.port n).replay.length = p.replay.length + 1)) ∧
    ((p.slot (!p.txB)).ready = false → p.swpend = true → exec (.switch n) s = .next s) ∧
    ((p.slot (!p.txB)).ready = false → p.swpend = false → p.autoAt ≠ some s.cyc → Happens (.switch n) s (fun t => (t.port n).werr = true ∧ (t.port n).txB = p.txB)) ∧
    (p.st ≠ .disabled → Happens (.retrain n) s (fun t => (t.port n).st = .training ∧ (t.port n).sent = [])) ∧
    Happens (.clrerr n) s (fun t => t.port n = { p with replays := 0, authfail := 0, downs := 0 }) ∧
    Happens (.disable n true) s (fun t => (t.port n).st = .disabled) ∧
    (p.st = .disabled → Happens (.disable n false) s (fun t => (t.port n).st = .down)) ∧
    (∀ k, k < 2 → let b := k == 1
      ((p.slot b).ready = false → p.limstall = false → Happens (.ksCtlReady n k) s (fun t =>
        (t.port n).slot b = { p.slot b with ready := true, txcnt := 0, rxcnt := 0 } ∧
        (t.port n).slot (!b) = p.slot (!b) ∧
        (p.st = .nokey → p.txB = b → p.rxB = b → (t.port n).st = .up))) ∧
      (¬ (p.st = .up ∧ (p.txB = b ∨ p.rxB = b)) → Happens (.ksCtlEmpty n k) s (fun t => ((t.port n).slot b).ready = false ∧
        ((t.port n).slot b).key = 0 ∧ (t.port n).st = p.st)) ∧
      (p.st = .up → p.txB = b ∨ p.rxB = b → Happens (.ksCtlEmpty n k) s (fun t => (t.port n).werr = true ∧
        (t.port n).slot b = p.slot b))) ∧
    Happens (.werrClear n) s (fun t => t.port n = { p with werr := false })

/-! ### Events: the units of a cluster -/

/-- R158, R159, R164 to R170, R176: the waiting lookup that reached the unit first, of the lowest source number in one cycle, is
admitted or ends BADDESC in a later cycle, its places kept; a selection whose tables can be read ends
PKSCORE and sends another lookup on to its gather; the round robin fetches the next row; the last row of a lookup ends it,
COMPLETE, or PARTIAL with cause MCHECK when its data is bad. Each end posts the status word to the task. -/
def Obligations.LookupEvents : Prop :=
  ∀ (s : State) (cl : Nat) (l : Lookup), s.isCancelled (sidCore l.sid) l.launch = false → s.lookHeld l = false →
    let u := s.pklu cl
    let core := sidCore l.sid
    let one := lookUnit l.id 0
    let read := fun (va n : Nat) (s : State) => State.unitRead core one l.job 0 [] (pieces va n) s
    let ends := fun (t : State) (word : Nat) => t.compls = s.compls ++ [⟨l.sid, l.tid, l.tag, BitVec.ofNat 64 word⟩] ∧
      ∀ x ∈ (t.pklu cl).look, x.id ≠ l.id
    (u.first = some l → l.arrived < s.cyc → l.member < 3 →
      ∀ d s0, State.placeRead core 0 (l.descAt.lines 128) s = .ok (d, s0) → let w := (List.range 16).map (word64 d)
      (pkDescBad l.member w = true → Happens (.pkluAdmission cl) s (fun t => ends t (l.member * 2 ^ 18 + 4))) ∧
      (l.member < 2 → pkDescBad l.member w = false →
        ∀ q o s1 s2 rp qp op, State.blockWord core l 0 true s0 = .ok (q, s1) → State.blockWord core l 1 (l.member == 0) s1 = .ok (o, s2) →
        s2.unitRange core one l.job .write (l.req.toNat + 24) (8 * pkK w) = .ok rp →
        s2.ownRange core one l.job .read (BitVec.ofNat 64 q) (4 * pkHdim w) = .ok qp →
        (l.member = 0 → s2.ownRange core one l.job .write (BitVec.ofNat 64 o) (4 * pkRowlen w) = .ok op) →
        Happens (.pkluAdmission cl) s (fun t => t.compls = s.compls ∧ ∃ x, t.lookOf cl l.id = some x ∧ x.stage = .scoring ∧
          x.words = w ∧ x.query = BitVec.ofNat 64 q ∧ x.output = BitVec.ofNat 64 o ∧ x.member = l.member ∧ x.admitted = s.tick ∧
          x.rankPl = rp ∧ x.queryPl = qp ∧ (l.member = 0 → x.outPl = op)))) ∧
    (u.first = some l → s.cyc ≤ l.arrived → exec (.pkluAdmission cl) s = .next s) ∧
    (s.lookOf cl l.id = some l → l.stage = .scoring → l.need = 0 → l.fault = none → l.lines = [] → l.missing = [] → l.mix = false →
      (∀ va ∈ keyLines l.words, ∃ p, s.unitPlace core one l.job .read va 64 = .here p) → pkK l.words ≠ 0 →
      (∀ f ∈ u.fetch, ∀ r, (l.id, r) ∉ f.users) →
      ∀ q a b s1 s2 s3, let tb := pkNkeys l.words * 2 * pkHdim l.words
      State.placeRead core 0 l.queryPl s = .ok (q, s1) → read (recWord l.words 0).toNat tb s1 = .ok (a, s2) →
      read (recWord l.words 1).toNat tb s2 = .ok (b, s3) →
      (l.member = 1 → Happens (.pkluSelectionDone cl l.id) s (fun t => ends t (2 ^ 18))) ∧
      (l.member = 0 → Happens (.pkluSelectionDone cl l.id) s (fun t => t.compls = s.compls ∧ (t.pklu cl).rr = u.rr ++ [l.id] ∧
        ∃ x, t.lookOf cl l.id = some x ∧ x.stage = .gather ∧ x.ranks = pkRanks l.words q a b ∧
          x.todo = List.range (pkK l.words) ∧ x.left = List.range (pkK l.words) ∧
          x.out = List.replicate (pkRowlen l.words) 0))) ∧
    (∀ r todo rest, let segs := pkSegs l.words (l.ranks.getD r (0, 0)).1.toNat
      u.rr = l.id :: rest → s.lookOf cl l.id = some l → l.again = [] → l.todo = r :: todo → pkWhirl l.words = false →
      u.visited = false → pkCost l.words ≤ l.deficit + pkQuantum l.words → (u.fetch.filter (fun f => !f.arrived)).length < 1024 →
      (∀ x ∈ u.look, x.walking = []) → badPiece (segPieces segs) = none →
      (∀ q ∈ segPieces segs, ∃ p, s.unitPlace core (lookUnit l.id (r + 1)) l.job .read q.1 q.2.1 = .here p) →
      (∀ f ∈ u.fetch, mergesInto l (rowKey ((segPieces segs).map (fun q => (q, s.rowPlace core l r q)))) f = false) →
      Happens (.pkluFetchIssue cl) s (fun t => t.mem = s.mem ∧ (∃ x, t.lookOf cl l.id = some x ∧ x.todo = todo ∧
          (todo ≠ [] → x.deficit = l.deficit + pkQuantum l.words - pkCost l.words) ∧ (todo = [] → x.deficit = 0)) ∧
        ∃ f, (t.pklu cl).fetch = u.fetch ++ [f] ∧ f.users = [(l.id, r)] ∧ f.segs = segs ∧ f.tag = l.lapTag ∧ f.need = 0 ∧ f.arrived = false)) ∧
    (∀ r f, u.fetch = [f] → f.users = [(l.id, r)] → f.arrived = false → f.need = 0 → f.cause = none → s.lookOf cl l.id = some l →
      l.left = [r] → l.missing = [] → l.mix = false → l.laps = [] → f.laps = [] → pkWhirl l.words = false → f.job = l.job →
      Happens (.pkluRowArrival cl f.id true) s (fun t => ends t (2 ^ r * 2 ^ 32 + 6 * 2 ^ 24 + l.member * 2 ^ 18 + 1) ∧
        (t.pklu cl).fetch = []) ∧
      ((∀ q ∈ f.places, s.poison.contains (q.2.2.flat / 64) = false) →
        Happens (.pkluRowArrival cl f.id false) s (fun t => ends t (l.member * 2 ^ 18) ∧
          ∃ g, (t.pklu cl).fetch = [g] ∧ g.arrived = true ∧ g.users = [])))

/-- R228 to R231, R382: an engine takes a walk into its commands, merges one that asks the same of it (not past an earlier command
of its core on the buffer, log 83), or refuses it with status 3; a PERMIT defines a buffer or adds credits; a tile of one line of
a walk stands in the next slot, its credit spent and FILL counted, and the last one ends the walk. A step of a ready ring adds
each position's product to the accumulator of the step and moves the B tiles on; after step 7 the gang whose RMMAs they were
dissolves; those of one dissolved before leave the gang that stands. -/
def Obligations.EngineAndRing : Prop :=
  ∀ (s : State) (cl e : Nat), Memory.wf s.mem = true →
    let g := s.engine cl e
    (∀ c, firstTaken (fun _ c => c.kind != 3) [] g.cmds = some c → c.ended = [] →
      let parts := engParts c
      let c1 := { c with accepted := true, parts := parts, arrived := s.cyc }
      (engBad c = false → firstWalk (fun d later => c.kind == 0 && mergesWalk s.cyc c1 d && !later.any (fun x => x.accepted && engShares x c1)) g.cmds = none →
        Happens (.engineCommandAccept cl e) s (fun t => (t.engine cl e).cmds = g.cmds.map (fun x => if x.id = c.id then c1 else x))) ∧
      (∀ d, engBad c = false → firstWalk (fun d later => c.kind == 0 && mergesWalk s.cyc c1 d && !later.any (fun x => x.accepted && engShares x c1)) g.cmds = some d → d.id ≠ c.id →
        Happens (.engineCommandAccept cl e) s (fun t => (∀ x ∈ (t.engine cl e).cmds, x.id ≠ c.id) ∧
          { d with parts := d.parts ++ parts } ∈ (t.engine cl e).cmds)) ∧
      (engBad c = true → c.w4.toNat / 2 ^ 8 = 1 → s.isCancelled (sidCore c.sid) c.launch = false →
        Happens (.engineCommandAccept cl e) s (fun t => (t.engine cl e).cmds = g.cmds.filter (fun x => x.id != c.id) ∧
          t.compls = s.compls ++ [⟨c.sid, c.tid, c.w3.setWidth 16, BitVec.ofNat 64 (c.next * 2 ^ 32 + 3)⟩]))) ∧
    (∀ c, firstTaken permitReady [] g.cmds = some c → let core := coreNum (sidCore c.sid)
      let count := (c.w1.extractLsb' 48 8).toNat
      let b := (c.w1.extractLsb' 56 3).toNat
      (c.w1.getLsbD 63 = true → let base := 64 * (c.w1.extractLsb' 6 13).toNat
        let n := (c.w1.extractLsb' 40 8).toNat + 1
        Happens (.permitMessage cl e) s (fun t =>
          (t.engine cl e).buf core b = ⟨base, n, 64 * ((c.w1.extractLsb' 28 12).toNat + 1), min count n, 0, 0⟩ ∧
          (t.engine cl e).cmds = g.cmds.filter (fun x => x.id != c.id) ∧
          ∀ j, memGet t.mem j = (let f := scratchBase (cl * 64 + core) + base - 64
            if f ≤ j ∧ j < f + 8 then 0 else memGet s.mem j))) ∧
      (c.w1.getLsbD 63 = false → Happens (.permitMessage cl e) s (fun t =>
        (t.engine cl e).buf core b = { g.buf core b with credits := min ((g.buf core b).credits + count) (g.buf core b).nslot } ∧
        t.mem = s.mem))) ∧
    (∀ c rest p (va : Nat) pl, g.cmds = c :: rest → c.accepted = true → c.kind = 0 → c.live = [p] → tfind c.tiles c.next = none →
      c.fault = none → c.leaving = [] → coreCluster (sidCore c.sid) = cl →
      engTlen c = 1 → engAddr c c.next = va → s.engPlace c .read va = .here pl → pl.here = true → s.hostHolds pl 64 = false →
      let b := g.buf p.core (engBufNo p.w3)
      64 ≤ b.slot → b.credits ≠ 0 → 64 ≤ b.base → b.base + b.nslot * b.slot ≤ 2 ^ 19 → b.ptr < b.nslot →
      let u : State := { s with cur := c.sid }
      let slot := scratchBase (cl * 64 + p.core) + b.base + b.ptr * b.slot
      Happens (.engineTileWrite cl e) s (fun t => (∀ k, k < 64 → memGet t.mem (slot + k) = u.loadByte pl k) ∧
        (∀ k, k < 8 → memGet t.mem (scratchBase (cl * 64 + p.core) + b.base - 64 + k) = (BitVec.ofNat 64 (b.fill + 1)).extractLsb' (8 * k) 8) ∧
        (t.engine cl e).buf p.core (engBufNo p.w3) =
          { b with credits := b.credits - 1, ptr := (b.ptr + 1) % b.nslot, fill := b.fill + 1 } ∧
        (c.next + 1 < engTiles c → ∃ tiles, (t.engine cl e).cmds.head? =
            some { c with begun := true, next := c.next + 1, tiles := tiles, page := none, busy := false } ∧
          ∀ n, tfind tiles n = if n = c.next then none else tfind c.tiles n) ∧
        (engTiles c ≤ c.next + 1 → p.w4.toNat / 2 ^ 8 = 1 → s.isCancelled (sidCore p.sid) p.launch = false →
          t.compls = s.compls ++ [⟨p.sid, p.tid, p.w3.setWidth 16, BitVec.ofNat 64 ((c.next + 1) * 2 ^ 32)⟩]))) ∧
    (∀ tr, s.ringReady tr = true → (s.standing tr).length ≠ 8 → let gang := s.gangAt tr
      Happens (.rmmaRingStep tr) s (fun t =>
        (gang.step = 7 → gang.formed = true →
          (∀ e ∈ gang.seats, (headRmma (s.coreAt (tr * 8 + e.1 % 8))).any (fun h => h.2.2.2 == e.2) = true) → t.gangAt tr = Gang.reset) ∧
        (gang.step = 7 → gang.formed = false → t.gangAt tr = { gang with step := 0, running := false }) ∧
        (gang.step ≠ 7 → t.gangAt tr = { gang with step := gang.step + 1, running := true }) ∧
        ∀ p, p < 8 → let q := (p + gang.step) % 8
          let c := s.coreAt (tr * 8 + p)
          let d := t.coreAt (tr * 8 + p)
          let n := s.coreAt (tr * 8 + (p + 1) % 8)
          d.latchB = n.latchB ∧ d.latchBhi = n.latchBhi ∧ d.cmds = (if gang.step = 7 then c.cmds.tail else c.cmds) ∧
          ∀ A pr ea ea' pr' eb eb' tid tid', c.latchA = some A → A.bad = none → (∀ l ∈ c.latchB, l.bad = none) →
            (∀ l ∈ c.latchBhi, l.bad = none) → headRmma c = some (pr, ea, ea', tid) → pr ≠ 8 →
            headRmma (s.coreAt (tr * 8 + q)) = some (pr', eb', eb, tid') →
            (∀ x : BitVec 3, x.toNat ≠ q → RegFile.read d.acc x = RegFile.read c.acc x) ∧ ∀ r k, r < 32 → k < 32 →
            accElem (RegFile.read d.acc (BitVec.ofNat 3 q)) r k = BitVec.ofNat 32
              (let x := (accElem (RegFile.read c.acc (BitVec.ofNat 3 q)) r k).toNat
               if pr = 9 then accI8 A c.latchB c.latchBhi r k x
               else accF32 pr A c.latchB c.latchBhi (pairScale pr ea eb) r k x)))

/-! ### Events: whirligig regions -/

/-- R238 to R243, R247, R402: a holder slice passes the next boundary and its sweep begins, an overrun marked; at a row's visit
the update is applied and a read of its lap answered from the updated block; an arriving request, in the order of its source
(R335), is admitted, LATE or PERM; the agent sends a LATE one again with the next tag, three times at most. -/
def Obligations.RegionSweeps : Prop :=
  ∀ (s : State), Memory.wf s.mem = true →
    (∀ k slice r v, nth s.regions k = some r → tfind r.slices slice = some v → v.closed < r.lap (s.gtsOf (slice / 16)) →
      Happens (.lapBoundary k slice) s (fun t => t.mem = s.mem ∧
        (∃ q w, nth t.regions k = some q ∧ tfind q.slices slice = some w ∧ w.closed = v.closed + 1 ∧
          (v.sweeping = true → w.sweeping = true ∧ w.sweep = v.sweep ∧ w.cursor = v.cursor) ∧
          (v.sweeping = false → v.sweep ≤ v.closed → w.sweeping = true ∧ w.sweep = v.sweep + 1 ∧ w.cursor = 0)) ∧
        t.health.hlthst = if v.sweeping then s.health.hlthst ||| 0x200000000 else s.health.hlthst)) ∧
    (∀ k slice r v u rd, nth s.regions k = some r → tfind r.slices slice = some v → v.sweeping = true →
      v.cursor + 1 < r.rowsPerPair / 2 →
      let here := fun (w : WReq) => w.st == 1 && w.tag == v.sweep && w.va.toNat / 512 == r.rowAt s.pkg.toNat slice v.cursor / 512 &&
        w.holder == s.pkg.toNat
      (s.wreqs.filter here).filter (fun w => w.num != 64) = [u] → (s.wreqs.filter here).filter (fun w => w.num == 64) = [rd] →
      s.foreign u = false → s.foreign rd = false → rd.va = u.va → whirlPoisoned s u.va.toNat = false → u.num ∈ [65, 66, 67] →
      let a := whirlBase + u.va.toNat
      Happens (.sweepRowVisit k slice) s (fun t => ∃ line : Vec,
        (∀ i, i < 512 / (if r.bf16 then 16 else 32) →
          let old := (laneOf (if r.bf16 then 16 else 32) (whirlLine s u.va.toNat) i).toNat
          let x := (laneOf (if r.bf16 then 16 else 32) u.line i).toNat
          let f := if r.bf16 then bf16 else fp32
          laneOf (if r.bf16 then 16 else 32) line i = BitVec.ofNat _ (if u.num = 65 then (faddR f .rne old x).1
            else if u.num = 66 then x else (fminmaxR f true old x).1)) ∧
        (∀ j, memGet t.mem j = if a ≤ j ∧ j < a + 64 then line.extractLsb' (8 * (j - a)) 8 else memGet s.mem j) ∧
        (∃ w ∈ t.wreqs, w = { u with st := 3, lap := u.tag, status := 0 }) ∧
        (∃ w ∈ t.wreqs, w = { rd with st := 3, lap := rd.tag, status := 0, line := line }) ∧
        ∃ q, nth t.regions k = some q ∧ tfind q.slices slice = some { v with cursor := v.cursor + 1 })) ∧
    (∀ idx w, nth s.wreqs idx = some w → w.st = 0 → w.holder = s.pkg.toNat → s.foreign w = false → s.whirlBefore w idx = false →
      let becomes := fun (x : WReq) => Happens (.whirligigRequestArrival idx) s (fun t => t.wreqs = delAt s.wreqs idx ++ [x] ∧
        t.mem = s.mem ∧ t.regions = s.regions)
      (s.regionOf w.job w.va = none → becomes { w with st := 3, status := 4 }) ∧
      ∀ r, s.regionOf w.job w.va = some r → r.zap = none →
        let sl := r.slice w.va.toNat
        (w.tag ≤ r.lap (s.gtsOf (sl / 16)) → becomes { w with st := 2, status := 1 }) ∧
        (r.lap (s.gtsOf (sl / 16)) < w.tag → (tget SliceSt.none r.slices sl).closed < w.tag → s.wreqs.length < 65536 →
          becomes { w with st := 1 })) ∧
    (∀ idx w, nth s.wreqs idx = some w → w.st = 2 →
      (w.retags < 3 → w.holder = s.pkg.toNat → Happens (.whirligigRetag idx) s (fun t => t.wreqs = delAt s.wreqs idx ++
        [{ w with tag := w.tag + 1, retags := w.retags + 1, st := 0, status := 0 }] ∧ t.mem = s.mem)) ∧
      (∀ sid d b, 3 ≤ w.retags → w.num = 64 → w.fetch = none → s.slotOfTid w.tid = some sid →
        (s.slotAt sid).pend = some (.wread d b w.va) →
        exec (.whirligigRetag idx) s = .next (({ s with wreqs := delAt s.wreqs idx } : State).takeTrap sid .remoteTimeout w.va)))

/-- R234, R235, R240, R242, R250, R273, R274, R312, R403: the answer of a WREAD writes the block to V[d] and the lap to X[b] and the
thread goes on; an acknowledged update leaves nothing behind, a failed one its mark. CREATE_REGION makes the region or says
why not, DESTROY_REGION sets its end at least 256 laps ahead, and the destination TSC of a die is chosen; the reply of
steward 34 of die 0 is an entry of the ring, or an image for the core, that the target word names. -/
def Obligations.RegionAnswers : Prop :=
  ∀ (s : State), Memory.wf s.mem = true →
    (∀ idx w sid d b, nth s.wreqs idx = some w → w.st = 3 → w.num = 64 → s.foreign w = false → w.fetch = none → w.status = 0 →
      s.slotOfTid w.tid = some sid → (s.slotAt sid).pend = some (.wread d b w.va) →
      Happens (.readReply idx) s (fun t => t.wreqs = delAt s.wreqs idx ∧ (t.slotAt sid).pc = (s.slotAt sid).pc + 4 ∧
        (t.slotAt sid).view = { (s.slotAt sid).view with
          v := upd (s.slotAt sid).view.v d w.line, x := updX (s.slotAt sid).view.x b (BitVec.ofNat 64 w.lap) } ∧
        (t.slotAt sid).pend = none ∧ (∀ k, k ≠ sid → t.slotAt k = s.slotAt k) ∧ t.mem = s.mem)) ∧
    (∀ idx w, nth s.wreqs idx = some w → w.st = 3 → w.num ≠ 64 → s.foreign w = false →
      (w.status = 0 → exec (.updateAcknowledgement idx) s = .next { s with wreqs := delAt s.wreqs idx }) ∧
      (∀ sid, w.status = 3 → w.fetch = none → s.slotOfTid w.tid = some sid → (s.slotAt sid).failCause = 0 →
        Happens (.updateAcknowledgement idx) s (fun t => t.wreqs = delAt s.wreqs idx ∧
          t.slotAt sid = { s.slotAt sid with failCause := 11, failAddr := w.va } ∧
          ∃ m, t.flight = s.flight ++ [m] ∧ m.img.w3 = w.va))) ∧
    (∀ creator target, let ring := target.toNat % 1024
      target.toNat / 2 ^ 62 < 2 → (target.extractLsb' 16 10).toNat = s.pkg.toNat → (target.toNat / 2 ^ 62 = 1 → RingReady s ring) →
      mayAsk creator = true →
      let src := s.srcNum (34 * 8)
      let replies := fun (t : State) (code result : Nat) =>
        (target.toNat / 2 ^ 62 = 1 → RingTakes s t ring 1 [0, BitVec.ofNat 64 code, BitVec.ofNat 64 result, 0, 0, 0, src ++ 0#32]) ∧
        (target.toNat / 2 ^ 62 = 0 → t.mem = s.mem ∧ ∃ m, t.flight = s.flight ++ [m] ∧ m.dest = s.liveCore (targetCore target) ∧
          m.img.w1 = BitVec.ofNat 64 code ∧ m.img.w2 = BitVec.ofNat 64 result ∧ m.img.w6.extractLsb' 32 32 = src)
      (∀ desc, let c := s.createResult desc
        (c = 0 → Happens (.createRegion creator desc target) s (fun t => replies t 1 0 ∧ ∃ q, t.regions = s.regions ++ [q] ∧
          q = { descRegion desc with slices := q.slices } ∧ (s.isHolder (descRegion desc) = true → ∀ sl ∈ (descRegion desc).sliceList,
            tfind q.slices sl = some (let l := (descRegion desc).lap (s.gtsOf (sl / 16)); SliceSt.mk l l 0 false)))) ∧
        (c ≠ 0 → Happens (.createRegion creator desc target) s (fun t => t.regions = s.regions ∧ replies t 1 c)) ∧
        (descBad desc = true → c = 1)) ∧
      (∀ base z k r, nth s.regions k = some r → r.base = base.toNat → (∀ j q, j < k → nth s.regions j = some q → q.base ≠ base.toNat) →
        (r.lap (s.gtsOf 0) + 256 ≤ z.toNat → Happens (.destroyRegion creator base z target) s (fun t => replies t 2 0 ∧
          nth t.regions k = some { r with zap := some z.toNat })) ∧
        (z.toNat < r.lap (s.gtsOf 0) + 256 → Happens (.destroyRegion creator base z target) s (fun t => t.regions = s.regions ∧
          replies t 2 8))) ∧
      (∀ sel, let die := sel.toNat % 4
        let c := (sel.extractLsb' 8 5).toNat
        (c < 24 → (s.coreAt ((die * 32 + c) * 64 + 32)).fenced = false → Happens (.chooseDestinationTsc creator sel target) s
          (fun t => (t.dieAt die).destTsc = c ∧ replies t 3 0)) ∧
        (24 ≤ c → Happens (.chooseDestinationTsc creator sel target) s (fun t => t.dies = s.dies ∧ replies t 3 10))))

/-! ### The step, decoding, reset and the invariant -/

/-- R62, R79, R86: an issue turn is for the core of `cur`, and its choice issues (R62, as ISSUE_SELECT states it); with none the
turn passes. When no trap waits for the slot and the word or words at its PC decode to an instruction, the step is that
instruction's `exec`, at the state with the turn taken off the agenda, the step counted, the slot noted as the one that issues, a
stream's freed engine taken again, the TLB entries of the fetch most recently used (R302), the words noted and the slot's issue
noted for those that yield to it (R132). Where the words decode to none, it traps ILLEGAL with the word as TRAPVAL (R86 step 1);
where the fetch faults, misses or waits, or no engine is free, that is the slot's turn, and a trap that waits for the task is
taken. An event at the head of the agenda is its `exec`, and an input is its own effect. A word is fetched little-endian from the
place its aligned address translates to (R8, R79), and a long form has a second word, fetched before either is decoded (log 84).
The agenda, and what stands in it, are the model's (logs 1 and 81). -/
def Obligations.StepRunsDecoded : Prop :=
  (∀ (s : State) (r : List Turn), (s.agenda = .issue :: r ∨ (s.agenda = [] ∧ r = [])) →
    let u : State := { s with tick := s.tick + 1, agenda := r }
    (u.choice s.core = none → step s = .next { u with idle := u.idle + 1 }) ∧
    ∀ sid, u.choice s.core = some sid →
      let a := u.issueFrom sid
      (∀ c v, (s.slotAt sid).forced = some (c, v) → step s = .next (a.takeTrap sid c v)) ∧
      ((s.slotAt sid).forced = none →
        (∀ e, a.regainEngines = .error e → step s = .next ((a.modCore a.core CoreSt.unissue).stop e)) ∧
        ∀ u1, a.regainEngines = .ok u1 →
          (∀ e, u1.fetchWords = .error e → step s = .next (u1.stop e)) ∧
          ∀ w v u2, u1.fetchWords = .ok (w, v, u2) →
            let t : State := ({ u2.fetchTouch w with ir := w, ir2 := v } : State).issued
            (∀ i, decode w v = some i → step s = exec i t) ∧
            (decode w v = none → step s = .next (t.takeTrap sid .illegal (w.setWidth 64))))) ∧
  (∀ (s : State) (r : List Turn) (i : Instr), s.agenda = .event i :: r → i.isEvent = true →
    step s = exec i { s with tick := s.tick + 1, agenda := r }) ∧
  (∀ (s : State) (r : List Turn) (x : Input), s.agenda = .input x :: r →
    step s = .next (({ s with tick := s.tick + 1, agenda := r } : State).input x)) ∧
  (∀ (s : State) (va : W64) (p : Place), Memory.wf s.mem = true → addrFault va 4 = false → va.toNat % 4 = 0 →
    s.translate s.core s.slot.job .fetch va 4 = .ok p → vpnOf va ∉ s.slot.deny → s.hostHolds p 4 = false →
    s.spoiled p 4 = false → p.here = true →
    s.fetchWord va = .ok (BitVec.ofNat 32 (packDigits 8 (s.loadByte p) 4), s)) ∧
  (∀ (s u : State) (w : W32), s.fetchWord s.pc = .ok (w, u) →
    s.fetchWords = if w.toNat / 2 ^ 26 = 0x3F then (u.fetchWord (s.pc + 4)).bind (fun v => .ok (w, v.1, v.2)) else .ok (w, 0, u)) ∧
  (∀ (s : State) (va : W64) (e : Stop), addrFault va 4 = false → s.place .fetch va 4 = .error e →
    s.fetchWord va = .error e)

/-- R79 to R93: words the spec's programs and entries write out, of each family, decode to the instructions they stand for;
a long form takes its second word. The all-zero word (R86) and a long form with an unassigned sub-op (R93) decode to none. -/
def Obligations.DecodeWords : Prop :=
  decode 0x0EC00007 0 = some (.addi 22 0 0 7) ∧ decode 0x1A0E0B87 0 = some (.extf 16 14 0 1 56 7) ∧
  decode 0x20360E47 0 = some (.cmp 1 22 1 3 0 2 7) ∧ decode 0x28200187 0 = some (.pnot 1 0 7) ∧
  decode 0x2C2B0407 0 = some (.fcmp 0 1 11 0 0 7) ∧ decode 0xFC0B8007 0x00007F01 = some (.liw 23 7 0x7F01) ∧
  decode 0x43380637 0 = some (.ld 25 24 24 3 7) ∧ decode 0x48A30237 0 = some (.st 5 3 8 3 7) ∧
  decode 0x54461C87 0 = some (.vgather 2 6 3 0 2 7) ∧ decode 0xFC60CC07 0x48000000 = some (.stvLong 1 19 7 2 2 0 0) ∧
  decode 0x6B37AE67 0 = some (.aaddf 25 23 21 3 1 7) ∧ decode 0x70328807 0 = some (.wread 1 18 17 7) ∧
  decode 0x78A10007 0 = some (.wlap 5 1 7) ∧ decode 0x80221807 0 = some (.vadd 1 2 3 0 7) ∧
  decode 0x94211027 0 = some (.vcmp 1 1 2 0 2 7) ∧ decode 0xA8A60007 0 = some (.vred 5 6 0 0 0 7) ∧
  decode 0xB0980007 0 = some (.voptu 4 24 7) ∧ decode 0xB440C907 0 = some (.sbind 2 25 7) ∧
  decode 0xC8000807 0 = some (.rmmaE4e4 0 1 7) ∧ decode 0xD0A10207 0 = some (.qpop 5 1 7) ∧
  decode 0xD86F00F7 0 = some (.send 3 15 0 7 1 7) ∧ decode 0xE0000087 0 = some (.done 7) ∧
  decode 0xE8090407 0 = some (.bar 9 7) ∧ decode 0xEC070017 0 = some (.twalk 7 1 7) ∧
  decode 0xF0A00087 0 = some (.srd 5 0 8 7) ∧ decode 0 0 = none ∧ decode 0xFFFFFFFF 0xFFFFFFFF = none

/-- R79 to R93, and the instructions' encodings: every well-formed instruction, each operand at every value its encoding
admits, has one word, or two for a long form, and they decode to that instruction. -/
def Obligations.RoundTrip : Prop :=
  ∀ i : Instr, i.wf = true → i.isEvent = false →
    (∃ w, encode i = [w] ∧ isLong w.toNat = false ∧ decode w 0 = some i) ∨
    (∃ w v, encode i = [w, v] ∧ isLong w.toNat = true ∧ decode w v = some i)

/-- R44, R75, R77, R347, R350, R354, R394, R423 and the numbering rules that say where their counts start: the values the spec
gives for the package right after reset. Every core's queues are empty, its accumulators zero and unclaimed and its matrix command
queue empty; the cycle count is 0; SLICETAB, LINKSEL and HLTHST are 0 and PWRLIM is 2,000 W and EOLHRS is all ones; every port is
DOWN with both key slots EMPTY, their limits all ones, and slot A named for both directions; launch sequences start at 1, the
issue sequence of every slot and every work queue's reservations at 0; no thread runs. Memory is in its canonical form. -/
def Obligations.ResetState : Prop :=
  let s := State.reset
  (∀ c r, RegFile.read (s.coreAt c).q r = [] ∧ (s.coreAt c).cmds = []) ∧
  (∀ c r, RegFile.read (s.coreAt c).acc r = 0 ∧ RegFile.read (s.coreAt c).claim r = none) ∧
  s.cyc = 0 ∧ s.sched.slicetab = 0 ∧ s.health.pwrlim = 2000 ∧ s.health.linksel = 0 ∧ s.health.hlthst = 0 ∧
  s.health.eolhrs = 0xFFFFFFFF ∧
  (∀ n, (s.port n).st = .down ∧ (s.port n).txB = false ∧ (s.port n).rxB = false ∧
    s.linkRead n 0x040 = 0 ∧ s.linkRead n 0x080 = 0 ∧
    s.linkRead n 0x058 = 0xFFFFFFFFFFFFFFFF ∧ s.linkRead n 0x098 = 0xFFFFFFFFFFFFFFFF) ∧
  s.nextLaunch = 1 ∧ (∀ sid, tget 0 s.issueSeq sid = 0) ∧ (∀ q, (s.queue q).seq = 0) ∧
  (∀ sid, (s.slotAt sid).ready = false) ∧ Memory.wf s.mem = true

/-- Every instruction and every event of the agenda keeps memory in its canonical form: addresses strictly rising, no entry
equal to what an unlisted address reads as. So equal memories are equal data.
The canonical form is the model's representation of memory (log 3). -/
def Obligations.MemoryInvariant : Prop :=
  ∀ s t : State, Memory.wf s.mem = true → step s = .next t → Memory.wf t.mem = true

/-! ### Completion of requests, special registers and region requests -/

/-- R77, R394: the special registers the issuing slot reads, with their values. -/
def Sys2Proof.Machine.srValues (s : State) : List (Nat × W64) :=
  let t := s.slot
  let es := isEsc s.core || isSteward s.core
  [(0, (s.srcNum s.cur).setWidth 64), (1, (t.image.w5.extractLsb' 0 32).setWidth 64), (2, t.image.w5), (3, BitVec.ofNat 64 s.gtsNow),
    (4, BitVec.ofNat 64 s.cyc), (5, t.fsr.setWidth 64), (6, t.fen.setWidth 64), (7, t.prio.setWidth 64), (8, t.rnrlim.setWidth 64),
    (9, if t.cmtd then 1 else 0), (10, BitVec.ofNat 64 (s.issueClass s.cur)), (11, s.health.eolhrs.setWidth 64)] ++
  (if es then [(0x100, t.sys.cause.setWidth 64), (0x102, t.sys.pc), (0x104, t.sys.frm)] else []) ++
  (if isTsc s.core then [(0x105, t.sys.base1), (0x106, t.sys.base2)] else []) ++
  (if es || isTsc s.core then [(0x101, t.sys.src.setWidth 64), (0x103, t.sys.val), (0x107, t.sys.vf.setWidth 64),
    (0x108, s.sched.pending.getD s.sched.slicetab), (0x109, s.health.pwrlim.setWidth 64), (0x10B, s.health.hlthst)] else []) ++
  (if isSteward s.core then [(0x10A, s.health.linksel.setWidth 64)] else [])

/-- R238, R240, R241, R272 to R275: of a worker's row block in a region of its job, with a tag at most 255 laps ahead, a WREAD
sends its request, and the READ_REPLY of whatever block and lap the holder answers ends it with V[d] and X[b] written; WADD, WSET
and WMAX of a task that is committed or has a frame to commit with, and has its elements, send theirs and go on, and an
UPDATE_ACKNOWLEDGEMENT leaves nothing behind; WLAP gives the lap. R77, R78, R394, R402: SRD of a register the slot reads, and SWR
of one it writes, each complete with that register's value or effect. R234, R235, R250, R312, R403: CREATE_REGION, DESTROY_REGION
and CHOOSE_DESTINATION_TSC that pass their checks do what they ask and reply 0 to the ring named. -/
def Obligations.RequestsAndRegistersComplete : Prop :=
  (∀ (s : State) (d a b : BitVec 5) (g : BitVec 4) (r : Region), s.runs g = true → RowOk s (s.x a) r →
    (s.Unbound [d] → tagOf s r (s.x b) ≤ lapNow s r + 255 → s.cur < 2 ^ 16 → s.slotOfTid s.slot.tid = some s.cur →
      ∃ t w, exec (.wread d a b g) s = .next t ∧ t.wreqs = s.wreqs ++ [w] ∧ RowRequest s r w 64 (s.x a) (s.x b) 0 ∧
        t.view = s.view ∧ t.mem = s.mem ∧ ∀ (line : Vec) (lap : Nat),
          ∃ u, exec (.readReply s.wreqs.length)
              { t with wreqs := s.wreqs ++ [{ w with st := 3, status := 0, line := line, lap := lap }] } = .next u ∧
            u.pc = s.pc + 4 ∧ u.slot.pend = none ∧ u.wreqs = s.wreqs ∧ u.mem = s.mem ∧
            u.view = { s.view with v := upd s.view.v d line, x := updX s.x b (BitVec.ofNat 64 lap) } ∧
            ∀ k, k ≠ s.cur → u.slotAt k = s.slotAt k) ∧
    (∀ (i : Instr) (num : Nat), i = .wadd d a b g ∧ num = 65 ∨ i = .wset d a b g ∧ num = 66 ∨ i = .wmax d a b g ∧ num = 67 →
      tagOf s r (s.x d) ≤ lapNow s r + 255 → s.ElemsReady [b] →
      s.slot.cmtd = true ∨ s.slot.frame ≠ 0 ∨ s.freeFrame s.slot.job ≠ 0 →
      ∃ t w, exec i s = .next t ∧ t.wreqs = s.wreqs ++ [w] ∧ RowRequest s r w num (s.x a) (s.x d) (s.vin b) ∧
        t.pc = s.pc + 4 ∧ t.view = { s.view with z := s.zAfter [b] } ∧ t.slot.cmtd = true ∧ t.mem = s.mem ∧
        ∀ k, k ≠ s.cur → t.slotAt k = s.slotAt k)) ∧
  (∀ (s : State) (d a : BitVec 5) (g : BitVec 4) (r : Region), s.runs g = true → s.worker = true → canonical (s.x a) = true →
    s.regionOf s.slot.job (s.x a) = some r → ∃ t, exec (.wlap d a g) s = .next t ∧
      Retired s t 4 { s.view with x := updX s.x d (BitVec.ofNat 64 (lapNow s r)) }) ∧
  (∀ (s : State) (idx : Nat) (w : WReq), nth s.wreqs idx = some w → w.st = 3 → w.num ≠ 64 → s.foreign w = false → w.status = 0 →
    ∃ t, exec (.updateAcknowledgement idx) s = .next t ∧ t = { s with wreqs := delAt s.wreqs idx }) ∧
  (∀ (s : State) (a d n : BitVec 5) (m g : BitVec 4), s.runs g = true →
    let num := 32 * m.toNat + n.toNat
    let x := s.x a
    (∀ v, (num, v) ∈ srValues s → ∃ t, exec (.srd d n m g) s = .next t ∧ Retired s t 4 { s.view with x := updX s.x d v }) ∧
    (num = 5 → ∃ t, exec (.swr a n m g) s = .next t ∧ Retired s t 4 { s.view with fsr := x.setWidth 32 &&& 0x33F }) ∧
    (num = 6 → ∃ t, exec (.swr a n m g) s = .next t ∧ Retired s t 4 { s.view with fen := x.setWidth 32 &&& 0x3F }) ∧
    (num = 8 → ∃ t, exec (.swr a n m g) s = .next t ∧
      Retired s t 4 { s.view with rnrlim := if x.toNat % 16 = 0 then 1 else x.setWidth 4 }) ∧
    (isSteward s.core = true →
      (num = 0x108 → ∃ t, exec (.swr a n m g) s = .next t ∧ Retired { s with sched := { s.sched with pending := some x } } t 4 s.view) ∧
      (num = 0x109 → 500 ≤ x.toNat % 4096 → x.toNat % 4096 ≤ 2000 → ∃ t, exec (.swr a n m g) s = .next t ∧
        Retired { s with health := { s.health with pwrlim := x.setWidth 12 } } t 4 s.view) ∧
      (num = 0x10A → x.toNat % 32 < 18 → ∃ t, exec (.swr a n m g) s = .next t ∧
        Retired { s with health := { s.health with linksel := x.setWidth 5 } } t 4 s.view) ∧
      (num = 0x10B → ∃ t, exec (.swr a n m g) s = .next t ∧
        Retired { s with health := { s.health with hlthst := s.health.hlthst &&& ~~~(x &&& 0xFFFFC0FF00000000) } } t 4 s.view))) ∧
  (∀ (s : State) (creator : W32) (target : W64), Memory.wf s.mem = true → mayAsk creator = true →
    let ring := target.toNat % 1024
    target.toNat / 2 ^ 62 = 1 → (target.extractLsb' 16 10).toNat = s.pkg.toNat → RingReady s ring →
    let ok := fun (t : State) (code : Nat) => RingTakes s t ring 1 [0, BitVec.ofNat 64 code, 0, 0, 0, 0, s.srcNum (34 * 8) ++ 0#32]
    (∀ desc, s.createResult desc = 0 → ∃ t q, exec (.createRegion creator desc target) s = .next t ∧ ok t 1 ∧
      t.regions = s.regions ++ [q] ∧ q = { descRegion desc with slices := q.slices }) ∧
    (∀ base z k r, nth s.regions k = some r → r.base = base.toNat → (∀ j q, j < k → nth s.regions j = some q → q.base ≠ base.toNat) →
      r.lap (s.gtsOf 0) + 256 ≤ z.toNat → ∃ t, exec (.destroyRegion creator base z target) s = .next t ∧ ok t 2 ∧
        nth t.regions k = some { r with zap := some z.toNat }) ∧
    (∀ sel, let die := sel.toNat % 4
      let c := (sel.extractLsb' 8 5).toNat
      c < 24 → (s.coreAt ((die * 32 + c) * 64 + 32)).fenced = false →
        ∃ t, exec (.chooseDestinationTsc creator sel target) s = .next t ∧ ok t 3 ∧ (t.dieAt die).destTsc = c))
end

