-- ==== Sys2Proof/Laws/Bits.lean ====
section
/-! SUPPORT. Laws of bit fields, lanes and predicates. -/

namespace Sys2Proof.Machine

/-- A number of `w`-bit digits stays below its width. -/
theorem packDigits_lt (w : Nat) (f : Nat → BitVec w) (n : Nat) : packDigits w f n < 2 ^ (w * n) := by
  induction n with
  | zero => simp [packDigits]
  | succ n ih =>
    have hf := (f n).isLt
    have : (f n).toNat * 2 ^ (w * n) ≤ (2 ^ w - 1) * 2 ^ (w * n) := Nat.mul_le_mul_right _ (by omega)
    have e : 2 ^ (w * (n + 1)) = 2 ^ w * 2 ^ (w * n) := by rw [Nat.mul_succ, Nat.pow_add, Nat.mul_comm]
    have e2 : (2 ^ w - 1) * 2 ^ (w * n) = 2 ^ w * 2 ^ (w * n) - 2 ^ (w * n) := by rw [Nat.sub_mul, Nat.one_mul]
    have p1 : 0 < 2 ^ (w * n) := Nat.pow_pos (by omega)
    have p2 : 2 ^ (w * n) ≤ 2 ^ w * 2 ^ (w * n) := Nat.le_mul_of_pos_left _ (Nat.pow_pos (by omega))
    simp only [packDigits, e]
    omega

/-- The digit at place `i`. -/
theorem packDigits_digit (w : Nat) (f : Nat → BitVec w) (n i : Nat) (h : i < n) :
    packDigits w f n / 2 ^ (w * i) % 2 ^ w = (f i).toNat := by
  induction n with
  | zero => omega
  | succ n ih =>
    simp only [packDigits]
    by_cases hi : i = n
    · subst hi
      rw [Nat.add_mul_div_right _ _ (Nat.pow_pos (by omega)), Nat.div_eq_of_lt (packDigits_lt w f i), Nat.zero_add,
        Nat.mod_eq_of_lt (f i).isLt]
    · have hlt : i < n := by omega
      have e : 2 ^ (w * n) = 2 ^ w * 2 ^ (w * (n - i - 1)) * 2 ^ (w * i) := by
        rw [← Nat.pow_add, ← Nat.pow_add]
        congr 1
        have : n = (1 + (n - i - 1)) + i := by omega
        conv => lhs; rw [this]
        rw [Nat.mul_add, Nat.mul_add, Nat.mul_one]
      rw [e, ← Nat.mul_assoc, Nat.add_mul_div_right _ _ (Nat.pow_pos (by omega)), ← Nat.mul_assoc, Nat.mul_comm ((f n).toNat) (2 ^ w),
        Nat.mul_assoc, Nat.add_mul_mod_self_left]
      exact ih hlt

theorem packDigits_testBit (w : Nat) (f : Nat → BitVec w) (n i k : Nat) (h : i < n) (hk : k < w) :
    (packDigits w f n).testBit (w * i + k) = (f i).getLsbD k := by
  have := congrArg (fun x => x.testBit k) (packDigits_digit w f n i h)
  simp only [Nat.testBit_mod_two_pow, hk, decide_true, Bool.true_and, Nat.testBit_div_two_pow] at this
  rw [BitVec.getLsbD, ← this, Nat.add_comm]

/-- Lane `i` of the register made from lanes is the lane given. -/
theorem laneOf_ofLanes (w : Nat) (f : Nat → BitVec w) (i : Nat) (h : w * (i + 1) ≤ 512) (hw : 0 < w) :
    laneOf w (ofLanes w f) i = f i := by
  have hi : i < 512 / w := by
    rw [Nat.lt_div_iff_mul_lt hw, Nat.mul_comm]
    rw [Nat.mul_succ] at h
    omega
  apply BitVec.eq_of_toNat_eq
  have hlt : packDigits w f (512 / w) < 2 ^ 512 :=
    Nat.lt_of_lt_of_le (packDigits_lt w f _) (Nat.pow_le_pow_right (by omega) (Nat.mul_div_le 512 w))
  simp only [laneOf, ofLanes, BitVec.extractLsb'_toNat, BitVec.toNat_ofNat, Nat.mod_eq_of_lt hlt, Nat.shiftRight_eq_div_pow]
  exact packDigits_digit w f _ i hi

/-- Enabled lanes take the new value, the others keep the old one (R83, R181). -/
theorem laneOf_guardedLanes (w : Nat) (g : BitVec 16) (old : Vec) (f : Nat → BitVec w) (i : Nat) (h : w * (i + 1) ≤ 512)
    (hw : 0 < w) : laneOf w (guardedLanes w g old f) i = if g.getLsbD i then f i else laneOf w old i := by
  unfold guardedLanes
  rw [laneOf_ofLanes w _ i h hw]

theorem getLsbD_ofBits16 (f : Nat → Bool) (k : Nat) (h : k < 16) : (ofBits16 f).getLsbD k = f k := by
  have hlt := packDigits_lt 1 (fun i => BitVec.ofBool (f i)) 16
  have := packDigits_testBit 1 (fun i => BitVec.ofBool (f i)) 16 k 0 h (by omega)
  simp only [Nat.one_mul, Nat.add_zero] at this
  simp only [ofBits16, BitVec.getLsbD, BitVec.toNat_ofNat]
  rw [Nat.mod_eq_of_lt (by simpa using hlt), this]
  cases f k <;> rfl

theorem getLsbD_guardedBits (n : Nat) (g old : BitVec 16) (f : Nat → Bool) (k : Nat) (h : k < 16) :
    (guardedBits n g old f).getLsbD k = if k < n ∧ g.getLsbD k = true then f k else old.getLsbD k := by
  unfold guardedBits
  rw [getLsbD_ofBits16 _ k h]

theorem popBelow_eq (x n : Nat) : popBelow x n = ((List.range n).filter (fun i => x.testBit i)).length := by
  induction n with
  | zero => rfl
  | succ n ih =>
    rw [List.range_succ, List.filter_append]
    simp only [popBelow, ih, List.length_append]
    congr 1
    cases h : x.testBit n <;> simp [List.filter, h]

theorem trailingZeros_spec (n x : Nat) : trailingZeros x n ≤ n ∧ (∀ i, i < trailingZeros x n → x.testBit i = false) ∧
    (trailingZeros x n < n → x.testBit (trailingZeros x n) = true) := by
  induction n generalizing x with
  | zero => simp [trailingZeros]
  | succ n ih =>
    unfold trailingZeros
    split
    · simp_all
    · have := ih (x / 2)
      refine ⟨by omega, ?_, ?_⟩
      · intro i hi
        cases i with
        | zero => simp_all
        | succ i => rw [Nat.testBit_succ]; exact this.2.1 i (by omega)
      · intro hlt
        rw [Nat.add_comm, Nat.testBit_succ]
        exact this.2.2 (by omega)

/-- Byte `k` of a value whose bytes are reversed. -/
theorem byteSwap_byte (W : Nat) (s : BitVec W) (k : Nat) (h : k < W / 8) :
    (byteSwap W s).extractLsb' (8 * k) 8 = s.extractLsb' (W - 8 - 8 * k) 8 := by
  apply BitVec.eq_of_toNat_eq
  have hlt := packDigits_lt 8 (fun i => s.extractLsb' (W - 8 - 8 * i) 8) (W / 8)
  have hle : 2 ^ (8 * (W / 8)) ≤ 2 ^ W := Nat.pow_le_pow_right (by omega) (Nat.mul_div_le W 8)
  have hd := packDigits_digit 8 (fun i => s.extractLsb' (W - 8 - 8 * i) 8) (W / 8) k h
  simp only [byteSwap, BitVec.extractLsb'_toNat, BitVec.toNat_ofNat, Nat.shiftRight_eq_div_pow] at hd ⊢
  rw [Nat.mod_eq_of_lt (Nat.lt_of_lt_of_le hlt hle), hd]

end Sys2Proof.Machine
end

