-- ==== Sys2Proof/Laws/Table.lean ====
section
/-! SUPPORT. Laws of tables, register files and the one memory. -/

namespace Sys2Proof.Machine

/-! ### Register files -/

@[simp] theorem RegFile.read_write_same {n : Nat} {α : Type} (f : RegFile n α) (i : BitVec n) (v : α) :
    RegFile.read (RegFile.write f i v) i = v := by
  simp [RegFile.read, RegFile.write]

theorem RegFile.read_write_ne {n : Nat} {α : Type} (f : RegFile n α) (i j : BitVec n) (v : α) (h : i ≠ j) :
    RegFile.read (RegFile.write f i v) j = RegFile.read f j := by
  have h' : i.toNat ≠ j.toNat := fun e => h (BitVec.eq_of_toNat_eq e)
  simp [RegFile.read, RegFile.write, h']

theorem RegFile.read_write {n : Nat} {α : Type} (f : RegFile n α) (i j : BitVec n) (v : α) :
    RegFile.read (RegFile.write f i v) j = if j = i then v else RegFile.read f j := by
  by_cases h : j = i
  · subst h; simp
  · rw [RegFile.read_write_ne f i j v (Ne.symm h), if_neg h]

/-! ### Tables -/

@[simp] theorem tget_nil {α : Type} (d : α) (k : Nat) : tget d [] k = d := rfl

@[simp] theorem tget_tset_same {α : Type} (d : α) (t : Tbl α) (k : Nat) (v : α) : tget d (tset t k v) k = v := by
  induction t with
  | nil => simp [tset, tget]
  | cons e r ih =>
    obtain ⟨j, u⟩ := e
    simp only [tset]
    split
    · simp [tget]
    · split
      · simp [tget]
      · simp [tget, *]

theorem tget_tset_ne {α : Type} (d : α) (t : Tbl α) (k j : Nat) (v : α) (h : j ≠ k) :
    tget d (tset t k v) j = tget d t j := by
  induction t with
  | nil => simp [tset, tget, Ne.symm h]
  | cons e r ih =>
    obtain ⟨i, u⟩ := e
    simp only [tset]
    split
    · simp [tget, Ne.symm h]
    · split
      · subst i; simp [tget, Ne.symm h]
      · simp only [tget, ih]

theorem tget_tset {α : Type} (d : α) (t : Tbl α) (k j : Nat) (v : α) :
    tget d (tset t k v) j = if j = k then v else tget d t j := by
  by_cases h : j = k
  · subst h; simp
  · rw [tget_tset_ne d t k j v h, if_neg h]

@[simp] theorem tfind_nil {α : Type} (k : Nat) : tfind ([] : Tbl α) k = none := rfl

theorem tfind_cons {α : Type} (e : Nat × α) (t : Tbl α) (k : Nat) :
    tfind (e :: t) k = if e.1 = k then some e.2 else tfind t k := by
  unfold tfind
  by_cases h : e.1 = k <;> simp [h]

/-- What is found is in the table. -/
theorem tfind_mem {α : Type} {t : Tbl α} {k : Nat} {v : α} (h : tfind t k = some v) : (k, v) ∈ t := by
  induction t with
  | nil => cases h
  | cons e t ih =>
    rw [tfind_cons] at h
    split at h
    · rename_i he
      cases h; subst he; exact List.mem_cons_self
    · exact List.mem_cons_of_mem _ (ih h)

theorem tfind_tset {α : Type} (t : Tbl α) (k j : Nat) (v : α) :
    tfind (tset t k v) j = if j = k then some v else tfind t j := by
  induction t with
  | nil =>
    by_cases h : j = k
    · simp [tset, tfind_cons, h]
    · simp [tset, tfind_cons, h, Ne.symm h]
  | cons e r ih =>
    obtain ⟨i, u⟩ := e
    simp only [tset]
    split
    · rw [tfind_cons]
      by_cases h : j = k
      · simp [h]
      · simp [h, Ne.symm h]
    · split
      · subst i
        rw [tfind_cons, tfind_cons]
        by_cases h : j = k
        · subst h; simp
        · simp [h, Ne.symm h]
      · rw [tfind_cons, tfind_cons, ih]
        by_cases h : j = k
        · subst h; simp [*]
        · simp [h]

theorem tfind_tdel {α : Type} (t : Tbl α) (k j : Nat) : tfind (tdel t k) j = if j = k then none else tfind t j := by
  induction t with
  | nil => simp [tdel]
  | cons e r ih =>
    obtain ⟨i, u⟩ := e
    unfold tdel at ih ⊢
    rw [List.filter_cons]
    by_cases hi : i = k
    · subst hi
      rw [if_neg (by simp), ih, tfind_cons]
      by_cases h : j = i
      · simp [h]
      · simp [h, Ne.symm h]
    · rw [if_pos (by simp [hi]), tfind_cons, tfind_cons, ih]
      by_cases h : i = j
      · subst h; simp [hi]
      · simp [h]

/-! ### Memory: reads after writes -/

theorem memGet_memPut (m : List Host.Cell) (k j : Nat) (v : Byte) :
    memGet (memPut m k v) j = if j = k then v else memGet m j := by
  induction m with
  | nil =>
    simp only [memPut, memGet]
    by_cases h : k = j <;> simp [h, eq_comm]
  | cons e r ih =>
    obtain ⟨a, b⟩ := e
    simp only [memPut]
    split
    · simp only [memGet]
      by_cases h : k = j
      · simp [h]
      · simp only [h, if_false, Ne.symm h]
        split
        · have : a ≠ j := by omega
          have : j < a := by omega
          simp [*]
        · rfl
    · split
      · subst a
        simp only [memGet]
        by_cases h : k = j <;> simp [h, eq_comm]
      · simp only [memGet, ih]
        by_cases h : j = k
        · subst h
          have : ¬ j < a := by omega
          simp [*]
        · simp [h]

/-- What the canonical form gives: below its start a memory lists nothing. -/
theorem memGet_below {lo : Nat} {m : List Host.Cell} (h : wfFrom lo m = true) {j : Nat} (hj : j < lo) :
    memGet m j = unlisted := by
  cases m with
  | nil => rfl
  | cons e r =>
    obtain ⟨a, b⟩ := e
    simp only [wfFrom, Bool.and_eq_true, decide_eq_true_eq] at h
    have : a ≠ j := by omega
    have : j < a := by omega
    simp [memGet, *]

theorem wfFrom_mono {lo hi : Nat} (hlh : lo ≤ hi) {m : List Host.Cell} (h : wfFrom hi m = true) : wfFrom lo m = true := by
  cases m with
  | nil => rfl
  | cons e r =>
    obtain ⟨a, b⟩ := e
    simp only [wfFrom, Bool.and_eq_true, decide_eq_true_eq] at h ⊢
    exact ⟨⟨by omega, h.1.2⟩, h.2⟩

theorem memGet_memDrop {m : List Host.Cell} {lo : Nat} (h : wfFrom lo m = true) (k j : Nat) :
    memGet (memDrop m k) j = if j = k then unlisted else memGet m j := by
  induction m generalizing lo with
  | nil => simp [memDrop, memGet]
  | cons e r ih =>
    obtain ⟨a, b⟩ := e
    simp only [wfFrom, Bool.and_eq_true, decide_eq_true_eq] at h
    simp only [memDrop]
    split
    · subst a
      by_cases hj : j = k
      · subst hj; simp [memGet_below h.2 (Nat.lt_succ_self _)]
      · simp only [memGet, if_neg hj, Ne.symm hj, if_false]
        split
        · exact memGet_below h.2 (by omega)
        · rfl
    · split
      · by_cases hj : j = k
        · subst hj; simp [memGet, *]
        · simp [hj]
      · simp only [memGet, ih h.2]
        by_cases hj : j = k
        · subst hj; simp [*]
        · simp [hj]

theorem wfFrom_memPut {m : List Host.Cell} {lo : Nat} (h : wfFrom lo m = true) {k : Nat} (hk : lo ≤ k) {v : Byte}
    (hv : v ≠ unlisted) : wfFrom lo (memPut m k v) = true := by
  induction m generalizing lo with
  | nil => simp [memPut, wfFrom, hk, hv]
  | cons e r ih =>
    obtain ⟨a, b⟩ := e
    have h' := h
    simp only [wfFrom, Bool.and_eq_true, decide_eq_true_eq] at h
    simp only [memPut]
    split
    · simp only [wfFrom, Bool.and_eq_true, decide_eq_true_eq, bne_iff_ne]
      exact ⟨⟨hk, hv⟩, ⟨by omega, by simpa using h.1.2⟩, h.2⟩
    · split
      · subst a
        simp only [wfFrom, Bool.and_eq_true, decide_eq_true_eq, bne_iff_ne]
        exact ⟨⟨hk, hv⟩, h.2⟩
      · simp only [wfFrom, Bool.and_eq_true, decide_eq_true_eq]
        exact ⟨h.1, ih h.2 (by omega)⟩

theorem wfFrom_memDrop {m : List Host.Cell} {lo : Nat} (h : wfFrom lo m = true) (k : Nat) :
    wfFrom lo (memDrop m k) = true := by
  induction m generalizing lo with
  | nil => simp [memDrop, wfFrom]
  | cons e r ih =>
    obtain ⟨a, b⟩ := e
    have h' := h
    simp only [wfFrom, Bool.and_eq_true, decide_eq_true_eq] at h
    simp only [memDrop]
    split
    · exact wfFrom_mono (by omega) h.2
    · split
      · exact h'
      · simp only [wfFrom, Bool.and_eq_true, decide_eq_true_eq]
        exact ⟨h.1, ih h.2⟩

/-- A write keeps the canonical form. -/
theorem memSet_wf {m : List Host.Cell} (h : Memory.wf m = true) (k : Nat) (v : Byte) : Memory.wf (memSet m k v) = true := by
  unfold memSet
  split
  · exact wfFrom_memDrop h k
  · exact wfFrom_memPut h (Nat.zero_le _) (by assumption)

theorem memGet_memSet {m : List Host.Cell} (h : Memory.wf m = true) (k j : Nat) (v : Byte) :
    memGet (memSet m k v) j = if j = k then v else memGet m j := by
  unfold memSet
  split
  · rename_i hv; rw [memGet_memDrop h, hv]
  · exact memGet_memPut m k j v

/-- Every wider write keeps the canonical form. -/
theorem memWrite_wf {m : List Host.Cell} (h : Memory.wf m = true) (a n mask x : Nat) :
    Memory.wf (memWrite m a n mask x) = true := by
  induction n generalizing m a mask x with
  | zero => exact h
  | succ n ih =>
    simp only [memWrite]
    split
    · exact ih (memSet_wf h _ _) _ _ _
    · exact ih h _ _ _

/-- A write of `n` bytes leaves every byte but its own, and its own take their part of the value where the mask is set. -/
theorem memGet_memWrite {m : List Host.Cell} (h : Memory.wf m = true) (a n mask x j : Nat) :
    memGet (memWrite m a n mask x) j =
      if a ≤ j ∧ j < a + n ∧ mask.testBit (j - a) = true then BitVec.ofNat 8 (x / 256 ^ (j - a)) else memGet m j := by
  induction n generalizing m a mask x with
  | zero =>
    simp only [memWrite]
    rw [if_neg (by omega)]
  | succ n ih =>
    have hwf : Memory.wf (if mask % 2 = 1 then memSet m a (BitVec.ofNat 8 x) else m) = true := by
      split
      · exact memSet_wf h _ _
      · exact h
    simp only [memWrite]
    rw [ih hwf]
    by_cases hj : a = j
    · subst hj
      rw [if_neg (by omega)]
      simp only [Nat.le_refl, Nat.sub_self, Nat.testBit_zero, decide_eq_true_eq, Nat.pow_zero, Nat.div_one, true_and]
      by_cases hm : mask % 2 = 1
      · rw [if_pos hm, if_pos ⟨by omega, hm⟩, memGet_memSet h, if_pos rfl]
      · rw [if_neg hm, if_neg (fun hc => hm hc.2)]
    · have hget : memGet (if mask % 2 = 1 then memSet m a (BitVec.ofNat 8 x) else m) j = memGet m j := by
        split
        · rw [memGet_memSet h, if_neg (Ne.symm hj)]
        · rfl
      rw [hget]
      by_cases hlt : a + 1 ≤ j
      · have e : j - a = (j - (a + 1)) + 1 := by omega
        have e2 : x / 256 / 256 ^ (j - (a + 1)) = x / 256 ^ (j - a) := by
          rw [e, Nat.div_div_eq_div_mul, Nat.pow_succ, Nat.mul_comm]
        have e3 : mask.testBit (j - a) = (mask / 2).testBit (j - (a + 1)) := by
          rw [e, Nat.testBit_succ]
        rw [e2, e3]
        by_cases hc : j < a + 1 + n ∧ (mask / 2).testBit (j - (a + 1)) = true
        · rw [if_pos ⟨hlt, hc⟩, if_pos ⟨by omega, by omega, hc.2⟩]
        · rw [if_neg (fun q => hc q.2), if_neg (fun q => hc ⟨by omega, q.2.2⟩)]
      · rw [if_neg (fun q => hlt q.1), if_neg (fun q => by omega)]

theorem memRead_congr {m m' : List Host.Cell} (a n : Nat) (h : ∀ j, a ≤ j → j < a + n → memGet m j = memGet m' j) :
    memRead m a n = memRead m' a n := by
  induction n generalizing a with
  | zero => rfl
  | succ n ih =>
    simp only [memRead]
    rw [h a (Nat.le_refl _) (by omega), ih (a + 1) (fun j h1 h2 => h j (by omega) (by omega))]

theorem memRead_lt (m : List Host.Cell) (a n : Nat) : memRead m a n < 256 ^ n := by
  induction n generalizing a with
  | zero => simp [memRead]
  | succ n ih =>
    have := ih (a + 1)
    have hb := (memGet m a).isLt
    simp only [memRead, Nat.pow_succ]
    omega

theorem ones_testBit (n i : Nat) : (ones n).testBit i = decide (i < n) := by
  simp [ones, Nat.testBit_two_pow_sub_one]

/-- What is written whole is read back. -/
theorem memRead_memWrite_same {m : List Host.Cell} (h : Memory.wf m = true) (a n x : Nat) :
    memRead (memWrite m a n (ones n) x) a n = x % 256 ^ n := by
  have key : ∀ (l : Nat) (m' : List Host.Cell) (b y : Nat),
      (∀ j, b ≤ j → j < b + l → memGet m' j = BitVec.ofNat 8 (y / 256 ^ (j - b))) → memRead m' b l = y % 256 ^ l := by
    intro l
    induction l with
    | zero => intro m' b y _; simp [memRead, Nat.mod_one]
    | succ l ih =>
      intro m' b y hy
      simp only [memRead]
      have h0 := hy b (Nat.le_refl _) (by omega)
      simp only [Nat.sub_self, Nat.pow_zero, Nat.div_one] at h0
      have h1 := ih m' (b + 1) (y / 256) (fun j h1 h2 => by
        rw [hy j (by omega) (by omega)]
        have e : j - b = (j - (b + 1)) + 1 := by omega
        rw [e, Nat.div_div_eq_div_mul, Nat.pow_succ, Nat.mul_comm])
      rw [h0, h1, BitVec.toNat_ofNat]
      have e : 256 ^ (l + 1) = 256 * 256 ^ l := by rw [Nat.pow_succ, Nat.mul_comm]
      rw [e, Nat.mod_mul]
  apply key
  intro j h1 h2
  rw [memGet_memWrite h, if_pos ⟨h1, h2, by rw [ones_testBit]; simp; omega⟩]

/-- A write elsewhere is not seen. -/
theorem memRead_memWrite_apart {m : List Host.Cell} (h : Memory.wf m = true) (a n mask x b k : Nat)
    (hd : b + k ≤ a ∨ a + n ≤ b) : memRead (memWrite m a n mask x) b k = memRead m b k := by
  apply memRead_congr
  intro j h1 h2
  rw [memGet_memWrite h, if_neg (by omega)]

theorem reset_memory_wf : Memory.wf State.reset.mem = true := rfl

end Sys2Proof.Machine
end

