-- ==== Sys2Proof/Laws/State.lean ====
section
/-! SUPPORT. What each named update of the state leaves alone, field by field, and what it writes. -/

namespace Sys2Proof.Machine

/-! ### setSlot -/

@[simp] theorem State.setSlot_agenda (s : State) (k : Nat) (t : Slot) : (s.setSlot k t).agenda = s.agenda := rfl
@[simp] theorem State.setSlot_cur (s : State) (k : Nat) (t : Slot) : (s.setSlot k t).cur = s.cur := rfl
@[simp] theorem State.setSlot_ir (s : State) (k : Nat) (t : Slot) : (s.setSlot k t).ir = s.ir := rfl
@[simp] theorem State.setSlot_ir2 (s : State) (k : Nat) (t : Slot) : (s.setSlot k t).ir2 = s.ir2 := rfl
@[simp] theorem State.setSlot_tick (s : State) (k : Nat) (t : Slot) : (s.setSlot k t).tick = s.tick := rfl
@[simp] theorem State.setSlot_idle (s : State) (k : Nat) (t : Slot) : (s.setSlot k t).idle = s.idle := rfl
@[simp] theorem State.setSlot_free (s : State) (k : Nat) (t : Slot) : (s.setSlot k t).free = s.free := rfl
@[simp] theorem State.setSlot_nextTid (s : State) (k : Nat) (t : Slot) : (s.setSlot k t).nextTid = s.nextTid := rfl
@[simp] theorem State.setSlot_cyc (s : State) (k : Nat) (t : Slot) : (s.setSlot k t).cyc = s.cyc := rfl
@[simp] theorem State.setSlot_gts (s : State) (k : Nat) (t : Slot) : (s.setSlot k t).gts = s.gts := rfl
@[simp] theorem State.setSlot_pkg (s : State) (k : Nat) (t : Slot) : (s.setSlot k t).pkg = s.pkg := rfl
@[simp] theorem State.setSlot_outside (s : State) (k : Nat) (t : Slot) : (s.setSlot k t).outside = s.outside := rfl
@[simp] theorem State.setSlot_mem (s : State) (k : Nat) (t : Slot) : (s.setSlot k t).mem = s.mem := rfl
@[simp] theorem State.setSlot_poison (s : State) (k : Nat) (t : Slot) : (s.setSlot k t).poison = s.poison := rfl
@[simp] theorem State.setSlot_hostHeld (s : State) (k : Nat) (t : Slot) : (s.setSlot k t).hostHeld = s.hostHeld := rfl
@[simp] theorem State.setSlot_tables (s : State) (k : Nat) (t : Slot) : (s.setSlot k t).tables = s.tables := rfl
@[simp] theorem State.setSlot_gone (s : State) (k : Nat) (t : Slot) : (s.setSlot k t).gone = s.gone := rfl
@[simp] theorem State.setSlot_cores (s : State) (k : Nat) (t : Slot) : (s.setSlot k t).cores = s.cores := rfl
@[simp] theorem State.setSlot_clusters (s : State) (k : Nat) (t : Slot) : (s.setSlot k t).clusters = s.clusters := rfl
@[simp] theorem State.setSlot_gangs (s : State) (k : Nat) (t : Slot) : (s.setSlot k t).gangs = s.gangs := rfl
@[simp] theorem State.setSlot_dies (s : State) (k : Nat) (t : Slot) : (s.setSlot k t).dies = s.dies := rfl
@[simp] theorem State.setSlot_flight (s : State) (k : Nat) (t : Slot) : (s.setSlot k t).flight = s.flight := rfl
@[simp] theorem State.setSlot_held (s : State) (k : Nat) (t : Slot) : (s.setSlot k t).held = s.held := rfl
@[simp] theorem State.setSlot_compls (s : State) (k : Nat) (t : Slot) : (s.setSlot k t).compls = s.compls := rfl
@[simp] theorem State.setSlot_reqs (s : State) (k : Nat) (t : Slot) : (s.setSlot k t).reqs = s.reqs := rfl
@[simp] theorem State.setSlot_nextReq (s : State) (k : Nat) (t : Slot) : (s.setSlot k t).nextReq = s.nextReq := rfl
@[simp] theorem State.setSlot_saved (s : State) (k : Nat) (t : Slot) : (s.setSlot k t).saved = s.saved := rfl
@[simp] theorem State.setSlot_launches (s : State) (k : Nat) (t : Slot) : (s.setSlot k t).launches = s.launches := rfl
@[simp] theorem State.setSlot_nextLaunch (s : State) (k : Nat) (t : Slot) : (s.setSlot k t).nextLaunch = s.nextLaunch := rfl
@[simp] theorem State.setSlot_walks (s : State) (k : Nat) (t : Slot) : (s.setSlot k t).walks = s.walks := rfl
@[simp] theorem State.setSlot_pageReqs (s : State) (k : Nat) (t : Slot) : (s.setSlot k t).pageReqs = s.pageReqs := rfl
@[simp] theorem State.setSlot_relSeq (s : State) (k : Nat) (t : Slot) : (s.setSlot k t).relSeq = s.relSeq := rfl
@[simp] theorem State.setSlot_issueSeq (s : State) (k : Nat) (t : Slot) : (s.setSlot k t).issueSeq = s.issueSeq := rfl
@[simp] theorem State.setSlot_regions (s : State) (k : Nat) (t : Slot) : (s.setSlot k t).regions = s.regions := rfl
@[simp] theorem State.setSlot_wreqs (s : State) (k : Nat) (t : Slot) : (s.setSlot k t).wreqs = s.wreqs := rfl
@[simp] theorem State.setSlot_host (s : State) (k : Nat) (t : Slot) : (s.setSlot k t).host = s.host := rfl
@[simp] theorem State.setSlot_fabric (s : State) (k : Nat) (t : Slot) : (s.setSlot k t).fabric = s.fabric := rfl
@[simp] theorem State.setSlot_sched (s : State) (k : Nat) (t : Slot) : (s.setSlot k t).sched = s.sched := rfl
@[simp] theorem State.setSlot_health (s : State) (k : Nat) (t : Slot) : (s.setSlot k t).health = s.health := rfl

/-! ### modSlot -/

@[simp] theorem State.modSlot_agenda (s : State) (k : Nat) (f : Slot → Slot) : (s.modSlot k f).agenda = s.agenda := rfl
@[simp] theorem State.modSlot_cur (s : State) (k : Nat) (f : Slot → Slot) : (s.modSlot k f).cur = s.cur := rfl
@[simp] theorem State.modSlot_ir (s : State) (k : Nat) (f : Slot → Slot) : (s.modSlot k f).ir = s.ir := rfl
@[simp] theorem State.modSlot_ir2 (s : State) (k : Nat) (f : Slot → Slot) : (s.modSlot k f).ir2 = s.ir2 := rfl
@[simp] theorem State.modSlot_tick (s : State) (k : Nat) (f : Slot → Slot) : (s.modSlot k f).tick = s.tick := rfl
@[simp] theorem State.modSlot_idle (s : State) (k : Nat) (f : Slot → Slot) : (s.modSlot k f).idle = s.idle := rfl
@[simp] theorem State.modSlot_free (s : State) (k : Nat) (f : Slot → Slot) : (s.modSlot k f).free = s.free := rfl
@[simp] theorem State.modSlot_nextTid (s : State) (k : Nat) (f : Slot → Slot) : (s.modSlot k f).nextTid = s.nextTid := rfl
@[simp] theorem State.modSlot_cyc (s : State) (k : Nat) (f : Slot → Slot) : (s.modSlot k f).cyc = s.cyc := rfl
@[simp] theorem State.modSlot_gts (s : State) (k : Nat) (f : Slot → Slot) : (s.modSlot k f).gts = s.gts := rfl
@[simp] theorem State.modSlot_pkg (s : State) (k : Nat) (f : Slot → Slot) : (s.modSlot k f).pkg = s.pkg := rfl
@[simp] theorem State.modSlot_outside (s : State) (k : Nat) (f : Slot → Slot) : (s.modSlot k f).outside = s.outside := rfl
@[simp] theorem State.modSlot_mem (s : State) (k : Nat) (f : Slot → Slot) : (s.modSlot k f).mem = s.mem := rfl
@[simp] theorem State.modSlot_poison (s : State) (k : Nat) (f : Slot → Slot) : (s.modSlot k f).poison = s.poison := rfl
@[simp] theorem State.modSlot_hostHeld (s : State) (k : Nat) (f : Slot → Slot) : (s.modSlot k f).hostHeld = s.hostHeld := rfl
@[simp] theorem State.modSlot_tables (s : State) (k : Nat) (f : Slot → Slot) : (s.modSlot k f).tables = s.tables := rfl
@[simp] theorem State.modSlot_gone (s : State) (k : Nat) (f : Slot → Slot) : (s.modSlot k f).gone = s.gone := rfl
@[simp] theorem State.modSlot_cores (s : State) (k : Nat) (f : Slot → Slot) : (s.modSlot k f).cores = s.cores := rfl
@[simp] theorem State.modSlot_clusters (s : State) (k : Nat) (f : Slot → Slot) : (s.modSlot k f).clusters = s.clusters := rfl
@[simp] theorem State.modSlot_gangs (s : State) (k : Nat) (f : Slot → Slot) : (s.modSlot k f).gangs = s.gangs := rfl
@[simp] theorem State.modSlot_dies (s : State) (k : Nat) (f : Slot → Slot) : (s.modSlot k f).dies = s.dies := rfl
@[simp] theorem State.modSlot_flight (s : State) (k : Nat) (f : Slot → Slot) : (s.modSlot k f).flight = s.flight := rfl
@[simp] theorem State.modSlot_held (s : State) (k : Nat) (f : Slot → Slot) : (s.modSlot k f).held = s.held := rfl
@[simp] theorem State.modSlot_compls (s : State) (k : Nat) (f : Slot → Slot) : (s.modSlot k f).compls = s.compls := rfl
@[simp] theorem State.modSlot_reqs (s : State) (k : Nat) (f : Slot → Slot) : (s.modSlot k f).reqs = s.reqs := rfl
@[simp] theorem State.modSlot_nextReq (s : State) (k : Nat) (f : Slot → Slot) : (s.modSlot k f).nextReq = s.nextReq := rfl
@[simp] theorem State.modSlot_saved (s : State) (k : Nat) (f : Slot → Slot) : (s.modSlot k f).saved = s.saved := rfl
@[simp] theorem State.modSlot_launches (s : State) (k : Nat) (f : Slot → Slot) : (s.modSlot k f).launches = s.launches := rfl
@[simp] theorem State.modSlot_nextLaunch (s : State) (k : Nat) (f : Slot → Slot) : (s.modSlot k f).nextLaunch = s.nextLaunch := rfl
@[simp] theorem State.modSlot_walks (s : State) (k : Nat) (f : Slot → Slot) : (s.modSlot k f).walks = s.walks := rfl
@[simp] theorem State.modSlot_pageReqs (s : State) (k : Nat) (f : Slot → Slot) : (s.modSlot k f).pageReqs = s.pageReqs := rfl
@[simp] theorem State.modSlot_relSeq (s : State) (k : Nat) (f : Slot → Slot) : (s.modSlot k f).relSeq = s.relSeq := rfl
@[simp] theorem State.modSlot_issueSeq (s : State) (k : Nat) (f : Slot → Slot) : (s.modSlot k f).issueSeq = s.issueSeq := rfl
@[simp] theorem State.modSlot_regions (s : State) (k : Nat) (f : Slot → Slot) : (s.modSlot k f).regions = s.regions := rfl
@[simp] theorem State.modSlot_wreqs (s : State) (k : Nat) (f : Slot → Slot) : (s.modSlot k f).wreqs = s.wreqs := rfl
@[simp] theorem State.modSlot_host (s : State) (k : Nat) (f : Slot → Slot) : (s.modSlot k f).host = s.host := rfl
@[simp] theorem State.modSlot_fabric (s : State) (k : Nat) (f : Slot → Slot) : (s.modSlot k f).fabric = s.fabric := rfl
@[simp] theorem State.modSlot_sched (s : State) (k : Nat) (f : Slot → Slot) : (s.modSlot k f).sched = s.sched := rfl
@[simp] theorem State.modSlot_health (s : State) (k : Nat) (f : Slot → Slot) : (s.modSlot k f).health = s.health := rfl

/-! ### mod -/

@[simp] theorem State.mod_agenda (s : State) (f : Slot → Slot) : (s.mod f).agenda = s.agenda := rfl
@[simp] theorem State.mod_cur (s : State) (f : Slot → Slot) : (s.mod f).cur = s.cur := rfl
@[simp] theorem State.mod_ir (s : State) (f : Slot → Slot) : (s.mod f).ir = s.ir := rfl
@[simp] theorem State.mod_ir2 (s : State) (f : Slot → Slot) : (s.mod f).ir2 = s.ir2 := rfl
@[simp] theorem State.mod_tick (s : State) (f : Slot → Slot) : (s.mod f).tick = s.tick := rfl
@[simp] theorem State.mod_idle (s : State) (f : Slot → Slot) : (s.mod f).idle = s.idle := rfl
@[simp] theorem State.mod_free (s : State) (f : Slot → Slot) : (s.mod f).free = s.free := rfl
@[simp] theorem State.mod_nextTid (s : State) (f : Slot → Slot) : (s.mod f).nextTid = s.nextTid := rfl
@[simp] theorem State.mod_cyc (s : State) (f : Slot → Slot) : (s.mod f).cyc = s.cyc := rfl
@[simp] theorem State.mod_gts (s : State) (f : Slot → Slot) : (s.mod f).gts = s.gts := rfl
@[simp] theorem State.mod_pkg (s : State) (f : Slot → Slot) : (s.mod f).pkg = s.pkg := rfl
@[simp] theorem State.mod_outside (s : State) (f : Slot → Slot) : (s.mod f).outside = s.outside := rfl
@[simp] theorem State.mod_mem (s : State) (f : Slot → Slot) : (s.mod f).mem = s.mem := rfl
@[simp] theorem State.mod_poison (s : State) (f : Slot → Slot) : (s.mod f).poison = s.poison := rfl
@[simp] theorem State.mod_hostHeld (s : State) (f : Slot → Slot) : (s.mod f).hostHeld = s.hostHeld := rfl
@[simp] theorem State.mod_tables (s : State) (f : Slot → Slot) : (s.mod f).tables = s.tables := rfl
@[simp] theorem State.mod_gone (s : State) (f : Slot → Slot) : (s.mod f).gone = s.gone := rfl
@[simp] theorem State.mod_cores (s : State) (f : Slot → Slot) : (s.mod f).cores = s.cores := rfl
@[simp] theorem State.mod_clusters (s : State) (f : Slot → Slot) : (s.mod f).clusters = s.clusters := rfl
@[simp] theorem State.mod_gangs (s : State) (f : Slot → Slot) : (s.mod f).gangs = s.gangs := rfl
@[simp] theorem State.mod_dies (s : State) (f : Slot → Slot) : (s.mod f).dies = s.dies := rfl
@[simp] theorem State.mod_flight (s : State) (f : Slot → Slot) : (s.mod f).flight = s.flight := rfl
@[simp] theorem State.mod_held (s : State) (f : Slot → Slot) : (s.mod f).held = s.held := rfl
@[simp] theorem State.mod_compls (s : State) (f : Slot → Slot) : (s.mod f).compls = s.compls := rfl
@[simp] theorem State.mod_reqs (s : State) (f : Slot → Slot) : (s.mod f).reqs = s.reqs := rfl
@[simp] theorem State.mod_nextReq (s : State) (f : Slot → Slot) : (s.mod f).nextReq = s.nextReq := rfl
@[simp] theorem State.mod_saved (s : State) (f : Slot → Slot) : (s.mod f).saved = s.saved := rfl
@[simp] theorem State.mod_launches (s : State) (f : Slot → Slot) : (s.mod f).launches = s.launches := rfl
@[simp] theorem State.mod_nextLaunch (s : State) (f : Slot → Slot) : (s.mod f).nextLaunch = s.nextLaunch := rfl
@[simp] theorem State.mod_walks (s : State) (f : Slot → Slot) : (s.mod f).walks = s.walks := rfl
@[simp] theorem State.mod_pageReqs (s : State) (f : Slot → Slot) : (s.mod f).pageReqs = s.pageReqs := rfl
@[simp] theorem State.mod_relSeq (s : State) (f : Slot → Slot) : (s.mod f).relSeq = s.relSeq := rfl
@[simp] theorem State.mod_issueSeq (s : State) (f : Slot → Slot) : (s.mod f).issueSeq = s.issueSeq := rfl
@[simp] theorem State.mod_regions (s : State) (f : Slot → Slot) : (s.mod f).regions = s.regions := rfl
@[simp] theorem State.mod_wreqs (s : State) (f : Slot → Slot) : (s.mod f).wreqs = s.wreqs := rfl
@[simp] theorem State.mod_host (s : State) (f : Slot → Slot) : (s.mod f).host = s.host := rfl
@[simp] theorem State.mod_fabric (s : State) (f : Slot → Slot) : (s.mod f).fabric = s.fabric := rfl
@[simp] theorem State.mod_sched (s : State) (f : Slot → Slot) : (s.mod f).sched = s.sched := rfl
@[simp] theorem State.mod_health (s : State) (f : Slot → Slot) : (s.mod f).health = s.health := rfl

/-! ### setX -/

@[simp] theorem State.setX_agenda (s : State) (r : BitVec 5) (v : W64) : (s.setX r v).agenda = s.agenda := rfl
@[simp] theorem State.setX_cur (s : State) (r : BitVec 5) (v : W64) : (s.setX r v).cur = s.cur := rfl
@[simp] theorem State.setX_ir (s : State) (r : BitVec 5) (v : W64) : (s.setX r v).ir = s.ir := rfl
@[simp] theorem State.setX_ir2 (s : State) (r : BitVec 5) (v : W64) : (s.setX r v).ir2 = s.ir2 := rfl
@[simp] theorem State.setX_tick (s : State) (r : BitVec 5) (v : W64) : (s.setX r v).tick = s.tick := rfl
@[simp] theorem State.setX_idle (s : State) (r : BitVec 5) (v : W64) : (s.setX r v).idle = s.idle := rfl
@[simp] theorem State.setX_free (s : State) (r : BitVec 5) (v : W64) : (s.setX r v).free = s.free := rfl
@[simp] theorem State.setX_nextTid (s : State) (r : BitVec 5) (v : W64) : (s.setX r v).nextTid = s.nextTid := rfl
@[simp] theorem State.setX_cyc (s : State) (r : BitVec 5) (v : W64) : (s.setX r v).cyc = s.cyc := rfl
@[simp] theorem State.setX_gts (s : State) (r : BitVec 5) (v : W64) : (s.setX r v).gts = s.gts := rfl
@[simp] theorem State.setX_pkg (s : State) (r : BitVec 5) (v : W64) : (s.setX r v).pkg = s.pkg := rfl
@[simp] theorem State.setX_outside (s : State) (r : BitVec 5) (v : W64) : (s.setX r v).outside = s.outside := rfl
@[simp] theorem State.setX_mem (s : State) (r : BitVec 5) (v : W64) : (s.setX r v).mem = s.mem := rfl
@[simp] theorem State.setX_poison (s : State) (r : BitVec 5) (v : W64) : (s.setX r v).poison = s.poison := rfl
@[simp] theorem State.setX_hostHeld (s : State) (r : BitVec 5) (v : W64) : (s.setX r v).hostHeld = s.hostHeld := rfl
@[simp] theorem State.setX_tables (s : State) (r : BitVec 5) (v : W64) : (s.setX r v).tables = s.tables := rfl
@[simp] theorem State.setX_gone (s : State) (r : BitVec 5) (v : W64) : (s.setX r v).gone = s.gone := rfl
@[simp] theorem State.setX_cores (s : State) (r : BitVec 5) (v : W64) : (s.setX r v).cores = s.cores := rfl
@[simp] theorem State.setX_clusters (s : State) (r : BitVec 5) (v : W64) : (s.setX r v).clusters = s.clusters := rfl
@[simp] theorem State.setX_gangs (s : State) (r : BitVec 5) (v : W64) : (s.setX r v).gangs = s.gangs := rfl
@[simp] theorem State.setX_dies (s : State) (r : BitVec 5) (v : W64) : (s.setX r v).dies = s.dies := rfl
@[simp] theorem State.setX_flight (s : State) (r : BitVec 5) (v : W64) : (s.setX r v).flight = s.flight := rfl
@[simp] theorem State.setX_held (s : State) (r : BitVec 5) (v : W64) : (s.setX r v).held = s.held := rfl
@[simp] theorem State.setX_compls (s : State) (r : BitVec 5) (v : W64) : (s.setX r v).compls = s.compls := rfl
@[simp] theorem State.setX_reqs (s : State) (r : BitVec 5) (v : W64) : (s.setX r v).reqs = s.reqs := rfl
@[simp] theorem State.setX_nextReq (s : State) (r : BitVec 5) (v : W64) : (s.setX r v).nextReq = s.nextReq := rfl
@[simp] theorem State.setX_saved (s : State) (r : BitVec 5) (v : W64) : (s.setX r v).saved = s.saved := rfl
@[simp] theorem State.setX_launches (s : State) (r : BitVec 5) (v : W64) : (s.setX r v).launches = s.launches := rfl
@[simp] theorem State.setX_nextLaunch (s : State) (r : BitVec 5) (v : W64) : (s.setX r v).nextLaunch = s.nextLaunch := rfl
@[simp] theorem State.setX_walks (s : State) (r : BitVec 5) (v : W64) : (s.setX r v).walks = s.walks := rfl
@[simp] theorem State.setX_pageReqs (s : State) (r : BitVec 5) (v : W64) : (s.setX r v).pageReqs = s.pageReqs := rfl
@[simp] theorem State.setX_relSeq (s : State) (r : BitVec 5) (v : W64) : (s.setX r v).relSeq = s.relSeq := rfl
@[simp] theorem State.setX_issueSeq (s : State) (r : BitVec 5) (v : W64) : (s.setX r v).issueSeq = s.issueSeq := rfl
@[simp] theorem State.setX_regions (s : State) (r : BitVec 5) (v : W64) : (s.setX r v).regions = s.regions := rfl
@[simp] theorem State.setX_wreqs (s : State) (r : BitVec 5) (v : W64) : (s.setX r v).wreqs = s.wreqs := rfl
@[simp] theorem State.setX_host (s : State) (r : BitVec 5) (v : W64) : (s.setX r v).host = s.host := rfl
@[simp] theorem State.setX_fabric (s : State) (r : BitVec 5) (v : W64) : (s.setX r v).fabric = s.fabric := rfl
@[simp] theorem State.setX_sched (s : State) (r : BitVec 5) (v : W64) : (s.setX r v).sched = s.sched := rfl
@[simp] theorem State.setX_health (s : State) (r : BitVec 5) (v : W64) : (s.setX r v).health = s.health := rfl

/-! ### setP -/

@[simp] theorem State.setP_agenda (s : State) (r : BitVec 3) (v : BitVec 16) : (s.setP r v).agenda = s.agenda := rfl
@[simp] theorem State.setP_cur (s : State) (r : BitVec 3) (v : BitVec 16) : (s.setP r v).cur = s.cur := rfl
@[simp] theorem State.setP_ir (s : State) (r : BitVec 3) (v : BitVec 16) : (s.setP r v).ir = s.ir := rfl
@[simp] theorem State.setP_ir2 (s : State) (r : BitVec 3) (v : BitVec 16) : (s.setP r v).ir2 = s.ir2 := rfl
@[simp] theorem State.setP_tick (s : State) (r : BitVec 3) (v : BitVec 16) : (s.setP r v).tick = s.tick := rfl
@[simp] theorem State.setP_idle (s : State) (r : BitVec 3) (v : BitVec 16) : (s.setP r v).idle = s.idle := rfl
@[simp] theorem State.setP_free (s : State) (r : BitVec 3) (v : BitVec 16) : (s.setP r v).free = s.free := rfl
@[simp] theorem State.setP_nextTid (s : State) (r : BitVec 3) (v : BitVec 16) : (s.setP r v).nextTid = s.nextTid := rfl
@[simp] theorem State.setP_cyc (s : State) (r : BitVec 3) (v : BitVec 16) : (s.setP r v).cyc = s.cyc := rfl
@[simp] theorem State.setP_gts (s : State) (r : BitVec 3) (v : BitVec 16) : (s.setP r v).gts = s.gts := rfl
@[simp] theorem State.setP_pkg (s : State) (r : BitVec 3) (v : BitVec 16) : (s.setP r v).pkg = s.pkg := rfl
@[simp] theorem State.setP_outside (s : State) (r : BitVec 3) (v : BitVec 16) : (s.setP r v).outside = s.outside := rfl
@[simp] theorem State.setP_mem (s : State) (r : BitVec 3) (v : BitVec 16) : (s.setP r v).mem = s.mem := rfl
@[simp] theorem State.setP_poison (s : State) (r : BitVec 3) (v : BitVec 16) : (s.setP r v).poison = s.poison := rfl
@[simp] theorem State.setP_hostHeld (s : State) (r : BitVec 3) (v : BitVec 16) : (s.setP r v).hostHeld = s.hostHeld := rfl
@[simp] theorem State.setP_tables (s : State) (r : BitVec 3) (v : BitVec 16) : (s.setP r v).tables = s.tables := rfl
@[simp] theorem State.setP_gone (s : State) (r : BitVec 3) (v : BitVec 16) : (s.setP r v).gone = s.gone := rfl
@[simp] theorem State.setP_cores (s : State) (r : BitVec 3) (v : BitVec 16) : (s.setP r v).cores = s.cores := rfl
@[simp] theorem State.setP_clusters (s : State) (r : BitVec 3) (v : BitVec 16) : (s.setP r v).clusters = s.clusters := rfl
@[simp] theorem State.setP_gangs (s : State) (r : BitVec 3) (v : BitVec 16) : (s.setP r v).gangs = s.gangs := rfl
@[simp] theorem State.setP_dies (s : State) (r : BitVec 3) (v : BitVec 16) : (s.setP r v).dies = s.dies := rfl
@[simp] theorem State.setP_flight (s : State) (r : BitVec 3) (v : BitVec 16) : (s.setP r v).flight = s.flight := rfl
@[simp] theorem State.setP_held (s : State) (r : BitVec 3) (v : BitVec 16) : (s.setP r v).held = s.held := rfl
@[simp] theorem State.setP_compls (s : State) (r : BitVec 3) (v : BitVec 16) : (s.setP r v).compls = s.compls := rfl
@[simp] theorem State.setP_reqs (s : State) (r : BitVec 3) (v : BitVec 16) : (s.setP r v).reqs = s.reqs := rfl
@[simp] theorem State.setP_nextReq (s : State) (r : BitVec 3) (v : BitVec 16) : (s.setP r v).nextReq = s.nextReq := rfl
@[simp] theorem State.setP_saved (s : State) (r : BitVec 3) (v : BitVec 16) : (s.setP r v).saved = s.saved := rfl
@[simp] theorem State.setP_launches (s : State) (r : BitVec 3) (v : BitVec 16) : (s.setP r v).launches = s.launches := rfl
@[simp] theorem State.setP_nextLaunch (s : State) (r : BitVec 3) (v : BitVec 16) : (s.setP r v).nextLaunch = s.nextLaunch := rfl
@[simp] theorem State.setP_walks (s : State) (r : BitVec 3) (v : BitVec 16) : (s.setP r v).walks = s.walks := rfl
@[simp] theorem State.setP_pageReqs (s : State) (r : BitVec 3) (v : BitVec 16) : (s.setP r v).pageReqs = s.pageReqs := rfl
@[simp] theorem State.setP_relSeq (s : State) (r : BitVec 3) (v : BitVec 16) : (s.setP r v).relSeq = s.relSeq := rfl
@[simp] theorem State.setP_issueSeq (s : State) (r : BitVec 3) (v : BitVec 16) : (s.setP r v).issueSeq = s.issueSeq := rfl
@[simp] theorem State.setP_regions (s : State) (r : BitVec 3) (v : BitVec 16) : (s.setP r v).regions = s.regions := rfl
@[simp] theorem State.setP_wreqs (s : State) (r : BitVec 3) (v : BitVec 16) : (s.setP r v).wreqs = s.wreqs := rfl
@[simp] theorem State.setP_host (s : State) (r : BitVec 3) (v : BitVec 16) : (s.setP r v).host = s.host := rfl
@[simp] theorem State.setP_fabric (s : State) (r : BitVec 3) (v : BitVec 16) : (s.setP r v).fabric = s.fabric := rfl
@[simp] theorem State.setP_sched (s : State) (r : BitVec 3) (v : BitVec 16) : (s.setP r v).sched = s.sched := rfl
@[simp] theorem State.setP_health (s : State) (r : BitVec 3) (v : BitVec 16) : (s.setP r v).health = s.health := rfl

/-! ### setV -/

@[simp] theorem State.setV_agenda (s : State) (r : BitVec 5) (v : Vec) : (s.setV r v).agenda = s.agenda := rfl
@[simp] theorem State.setV_cur (s : State) (r : BitVec 5) (v : Vec) : (s.setV r v).cur = s.cur := rfl
@[simp] theorem State.setV_ir (s : State) (r : BitVec 5) (v : Vec) : (s.setV r v).ir = s.ir := rfl
@[simp] theorem State.setV_ir2 (s : State) (r : BitVec 5) (v : Vec) : (s.setV r v).ir2 = s.ir2 := rfl
@[simp] theorem State.setV_tick (s : State) (r : BitVec 5) (v : Vec) : (s.setV r v).tick = s.tick := rfl
@[simp] theorem State.setV_idle (s : State) (r : BitVec 5) (v : Vec) : (s.setV r v).idle = s.idle := rfl
@[simp] theorem State.setV_free (s : State) (r : BitVec 5) (v : Vec) : (s.setV r v).free = s.free := rfl
@[simp] theorem State.setV_nextTid (s : State) (r : BitVec 5) (v : Vec) : (s.setV r v).nextTid = s.nextTid := rfl
@[simp] theorem State.setV_cyc (s : State) (r : BitVec 5) (v : Vec) : (s.setV r v).cyc = s.cyc := rfl
@[simp] theorem State.setV_gts (s : State) (r : BitVec 5) (v : Vec) : (s.setV r v).gts = s.gts := rfl
@[simp] theorem State.setV_pkg (s : State) (r : BitVec 5) (v : Vec) : (s.setV r v).pkg = s.pkg := rfl
@[simp] theorem State.setV_outside (s : State) (r : BitVec 5) (v : Vec) : (s.setV r v).outside = s.outside := rfl
@[simp] theorem State.setV_mem (s : State) (r : BitVec 5) (v : Vec) : (s.setV r v).mem = s.mem := rfl
@[simp] theorem State.setV_poison (s : State) (r : BitVec 5) (v : Vec) : (s.setV r v).poison = s.poison := rfl
@[simp] theorem State.setV_hostHeld (s : State) (r : BitVec 5) (v : Vec) : (s.setV r v).hostHeld = s.hostHeld := rfl
@[simp] theorem State.setV_tables (s : State) (r : BitVec 5) (v : Vec) : (s.setV r v).tables = s.tables := rfl
@[simp] theorem State.setV_gone (s : State) (r : BitVec 5) (v : Vec) : (s.setV r v).gone = s.gone := rfl
@[simp] theorem State.setV_cores (s : State) (r : BitVec 5) (v : Vec) : (s.setV r v).cores = s.cores := rfl
@[simp] theorem State.setV_clusters (s : State) (r : BitVec 5) (v : Vec) : (s.setV r v).clusters = s.clusters := rfl
@[simp] theorem State.setV_gangs (s : State) (r : BitVec 5) (v : Vec) : (s.setV r v).gangs = s.gangs := rfl
@[simp] theorem State.setV_dies (s : State) (r : BitVec 5) (v : Vec) : (s.setV r v).dies = s.dies := rfl
@[simp] theorem State.setV_flight (s : State) (r : BitVec 5) (v : Vec) : (s.setV r v).flight = s.flight := rfl
@[simp] theorem State.setV_held (s : State) (r : BitVec 5) (v : Vec) : (s.setV r v).held = s.held := rfl
@[simp] theorem State.setV_compls (s : State) (r : BitVec 5) (v : Vec) : (s.setV r v).compls = s.compls := rfl
@[simp] theorem State.setV_reqs (s : State) (r : BitVec 5) (v : Vec) : (s.setV r v).reqs = s.reqs := rfl
@[simp] theorem State.setV_nextReq (s : State) (r : BitVec 5) (v : Vec) : (s.setV r v).nextReq = s.nextReq := rfl
@[simp] theorem State.setV_saved (s : State) (r : BitVec 5) (v : Vec) : (s.setV r v).saved = s.saved := rfl
@[simp] theorem State.setV_launches (s : State) (r : BitVec 5) (v : Vec) : (s.setV r v).launches = s.launches := rfl
@[simp] theorem State.setV_nextLaunch (s : State) (r : BitVec 5) (v : Vec) : (s.setV r v).nextLaunch = s.nextLaunch := rfl
@[simp] theorem State.setV_walks (s : State) (r : BitVec 5) (v : Vec) : (s.setV r v).walks = s.walks := rfl
@[simp] theorem State.setV_pageReqs (s : State) (r : BitVec 5) (v : Vec) : (s.setV r v).pageReqs = s.pageReqs := rfl
@[simp] theorem State.setV_relSeq (s : State) (r : BitVec 5) (v : Vec) : (s.setV r v).relSeq = s.relSeq := rfl
@[simp] theorem State.setV_issueSeq (s : State) (r : BitVec 5) (v : Vec) : (s.setV r v).issueSeq = s.issueSeq := rfl
@[simp] theorem State.setV_regions (s : State) (r : BitVec 5) (v : Vec) : (s.setV r v).regions = s.regions := rfl
@[simp] theorem State.setV_wreqs (s : State) (r : BitVec 5) (v : Vec) : (s.setV r v).wreqs = s.wreqs := rfl
@[simp] theorem State.setV_host (s : State) (r : BitVec 5) (v : Vec) : (s.setV r v).host = s.host := rfl
@[simp] theorem State.setV_fabric (s : State) (r : BitVec 5) (v : Vec) : (s.setV r v).fabric = s.fabric := rfl
@[simp] theorem State.setV_sched (s : State) (r : BitVec 5) (v : Vec) : (s.setV r v).sched = s.sched := rfl
@[simp] theorem State.setV_health (s : State) (r : BitVec 5) (v : Vec) : (s.setV r v).health = s.health := rfl

/-! ### setE -/

@[simp] theorem State.setE_agenda (s : State) (r : BitVec 3) (v : W32) : (s.setE r v).agenda = s.agenda := rfl
@[simp] theorem State.setE_cur (s : State) (r : BitVec 3) (v : W32) : (s.setE r v).cur = s.cur := rfl
@[simp] theorem State.setE_ir (s : State) (r : BitVec 3) (v : W32) : (s.setE r v).ir = s.ir := rfl
@[simp] theorem State.setE_ir2 (s : State) (r : BitVec 3) (v : W32) : (s.setE r v).ir2 = s.ir2 := rfl
@[simp] theorem State.setE_tick (s : State) (r : BitVec 3) (v : W32) : (s.setE r v).tick = s.tick := rfl
@[simp] theorem State.setE_idle (s : State) (r : BitVec 3) (v : W32) : (s.setE r v).idle = s.idle := rfl
@[simp] theorem State.setE_free (s : State) (r : BitVec 3) (v : W32) : (s.setE r v).free = s.free := rfl
@[simp] theorem State.setE_nextTid (s : State) (r : BitVec 3) (v : W32) : (s.setE r v).nextTid = s.nextTid := rfl
@[simp] theorem State.setE_cyc (s : State) (r : BitVec 3) (v : W32) : (s.setE r v).cyc = s.cyc := rfl
@[simp] theorem State.setE_gts (s : State) (r : BitVec 3) (v : W32) : (s.setE r v).gts = s.gts := rfl
@[simp] theorem State.setE_pkg (s : State) (r : BitVec 3) (v : W32) : (s.setE r v).pkg = s.pkg := rfl
@[simp] theorem State.setE_outside (s : State) (r : BitVec 3) (v : W32) : (s.setE r v).outside = s.outside := rfl
@[simp] theorem State.setE_mem (s : State) (r : BitVec 3) (v : W32) : (s.setE r v).mem = s.mem := rfl
@[simp] theorem State.setE_poison (s : State) (r : BitVec 3) (v : W32) : (s.setE r v).poison = s.poison := rfl
@[simp] theorem State.setE_hostHeld (s : State) (r : BitVec 3) (v : W32) : (s.setE r v).hostHeld = s.hostHeld := rfl
@[simp] theorem State.setE_tables (s : State) (r : BitVec 3) (v : W32) : (s.setE r v).tables = s.tables := rfl
@[simp] theorem State.setE_gone (s : State) (r : BitVec 3) (v : W32) : (s.setE r v).gone = s.gone := rfl
@[simp] theorem State.setE_cores (s : State) (r : BitVec 3) (v : W32) : (s.setE r v).cores = s.cores := rfl
@[simp] theorem State.setE_clusters (s : State) (r : BitVec 3) (v : W32) : (s.setE r v).clusters = s.clusters := rfl
@[simp] theorem State.setE_gangs (s : State) (r : BitVec 3) (v : W32) : (s.setE r v).gangs = s.gangs := rfl
@[simp] theorem State.setE_dies (s : State) (r : BitVec 3) (v : W32) : (s.setE r v).dies = s.dies := rfl
@[simp] theorem State.setE_flight (s : State) (r : BitVec 3) (v : W32) : (s.setE r v).flight = s.flight := rfl
@[simp] theorem State.setE_held (s : State) (r : BitVec 3) (v : W32) : (s.setE r v).held = s.held := rfl
@[simp] theorem State.setE_compls (s : State) (r : BitVec 3) (v : W32) : (s.setE r v).compls = s.compls := rfl
@[simp] theorem State.setE_reqs (s : State) (r : BitVec 3) (v : W32) : (s.setE r v).reqs = s.reqs := rfl
@[simp] theorem State.setE_nextReq (s : State) (r : BitVec 3) (v : W32) : (s.setE r v).nextReq = s.nextReq := rfl
@[simp] theorem State.setE_saved (s : State) (r : BitVec 3) (v : W32) : (s.setE r v).saved = s.saved := rfl
@[simp] theorem State.setE_launches (s : State) (r : BitVec 3) (v : W32) : (s.setE r v).launches = s.launches := rfl
@[simp] theorem State.setE_nextLaunch (s : State) (r : BitVec 3) (v : W32) : (s.setE r v).nextLaunch = s.nextLaunch := rfl
@[simp] theorem State.setE_walks (s : State) (r : BitVec 3) (v : W32) : (s.setE r v).walks = s.walks := rfl
@[simp] theorem State.setE_pageReqs (s : State) (r : BitVec 3) (v : W32) : (s.setE r v).pageReqs = s.pageReqs := rfl
@[simp] theorem State.setE_relSeq (s : State) (r : BitVec 3) (v : W32) : (s.setE r v).relSeq = s.relSeq := rfl
@[simp] theorem State.setE_issueSeq (s : State) (r : BitVec 3) (v : W32) : (s.setE r v).issueSeq = s.issueSeq := rfl
@[simp] theorem State.setE_regions (s : State) (r : BitVec 3) (v : W32) : (s.setE r v).regions = s.regions := rfl
@[simp] theorem State.setE_wreqs (s : State) (r : BitVec 3) (v : W32) : (s.setE r v).wreqs = s.wreqs := rfl
@[simp] theorem State.setE_host (s : State) (r : BitVec 3) (v : W32) : (s.setE r v).host = s.host := rfl
@[simp] theorem State.setE_fabric (s : State) (r : BitVec 3) (v : W32) : (s.setE r v).fabric = s.fabric := rfl
@[simp] theorem State.setE_sched (s : State) (r : BitVec 3) (v : W32) : (s.setE r v).sched = s.sched := rfl
@[simp] theorem State.setE_health (s : State) (r : BitVec 3) (v : W32) : (s.setE r v).health = s.health := rfl

/-! ### modCore -/

@[simp] theorem State.modCore_agenda (s : State) (k : Nat) (f : CoreSt → CoreSt) : (s.modCore k f).agenda = s.agenda := rfl
@[simp] theorem State.modCore_cur (s : State) (k : Nat) (f : CoreSt → CoreSt) : (s.modCore k f).cur = s.cur := rfl
@[simp] theorem State.modCore_ir (s : State) (k : Nat) (f : CoreSt → CoreSt) : (s.modCore k f).ir = s.ir := rfl
@[simp] theorem State.modCore_ir2 (s : State) (k : Nat) (f : CoreSt → CoreSt) : (s.modCore k f).ir2 = s.ir2 := rfl
@[simp] theorem State.modCore_tick (s : State) (k : Nat) (f : CoreSt → CoreSt) : (s.modCore k f).tick = s.tick := rfl
@[simp] theorem State.modCore_idle (s : State) (k : Nat) (f : CoreSt → CoreSt) : (s.modCore k f).idle = s.idle := rfl
@[simp] theorem State.modCore_free (s : State) (k : Nat) (f : CoreSt → CoreSt) : (s.modCore k f).free = s.free := rfl
@[simp] theorem State.modCore_nextTid (s : State) (k : Nat) (f : CoreSt → CoreSt) : (s.modCore k f).nextTid = s.nextTid := rfl
@[simp] theorem State.modCore_cyc (s : State) (k : Nat) (f : CoreSt → CoreSt) : (s.modCore k f).cyc = s.cyc := rfl
@[simp] theorem State.modCore_gts (s : State) (k : Nat) (f : CoreSt → CoreSt) : (s.modCore k f).gts = s.gts := rfl
@[simp] theorem State.modCore_pkg (s : State) (k : Nat) (f : CoreSt → CoreSt) : (s.modCore k f).pkg = s.pkg := rfl
@[simp] theorem State.modCore_outside (s : State) (k : Nat) (f : CoreSt → CoreSt) : (s.modCore k f).outside = s.outside := rfl
@[simp] theorem State.modCore_mem (s : State) (k : Nat) (f : CoreSt → CoreSt) : (s.modCore k f).mem = s.mem := rfl
@[simp] theorem State.modCore_poison (s : State) (k : Nat) (f : CoreSt → CoreSt) : (s.modCore k f).poison = s.poison := rfl
@[simp] theorem State.modCore_hostHeld (s : State) (k : Nat) (f : CoreSt → CoreSt) : (s.modCore k f).hostHeld = s.hostHeld := rfl
@[simp] theorem State.modCore_tables (s : State) (k : Nat) (f : CoreSt → CoreSt) : (s.modCore k f).tables = s.tables := rfl
@[simp] theorem State.modCore_gone (s : State) (k : Nat) (f : CoreSt → CoreSt) : (s.modCore k f).gone = s.gone := rfl
@[simp] theorem State.modCore_slots (s : State) (k : Nat) (f : CoreSt → CoreSt) : (s.modCore k f).slots = s.slots := rfl
@[simp] theorem State.modCore_clusters (s : State) (k : Nat) (f : CoreSt → CoreSt) : (s.modCore k f).clusters = s.clusters := rfl
@[simp] theorem State.modCore_gangs (s : State) (k : Nat) (f : CoreSt → CoreSt) : (s.modCore k f).gangs = s.gangs := rfl
@[simp] theorem State.modCore_dies (s : State) (k : Nat) (f : CoreSt → CoreSt) : (s.modCore k f).dies = s.dies := rfl
@[simp] theorem State.modCore_flight (s : State) (k : Nat) (f : CoreSt → CoreSt) : (s.modCore k f).flight = s.flight := rfl
@[simp] theorem State.modCore_held (s : State) (k : Nat) (f : CoreSt → CoreSt) : (s.modCore k f).held = s.held := rfl
@[simp] theorem State.modCore_compls (s : State) (k : Nat) (f : CoreSt → CoreSt) : (s.modCore k f).compls = s.compls := rfl
@[simp] theorem State.modCore_reqs (s : State) (k : Nat) (f : CoreSt → CoreSt) : (s.modCore k f).reqs = s.reqs := rfl
@[simp] theorem State.modCore_nextReq (s : State) (k : Nat) (f : CoreSt → CoreSt) : (s.modCore k f).nextReq = s.nextReq := rfl
@[simp] theorem State.modCore_saved (s : State) (k : Nat) (f : CoreSt → CoreSt) : (s.modCore k f).saved = s.saved := rfl
@[simp] theorem State.modCore_launches (s : State) (k : Nat) (f : CoreSt → CoreSt) : (s.modCore k f).launches = s.launches := rfl
@[simp] theorem State.modCore_nextLaunch (s : State) (k : Nat) (f : CoreSt → CoreSt) : (s.modCore k f).nextLaunch = s.nextLaunch := rfl
@[simp] theorem State.modCore_walks (s : State) (k : Nat) (f : CoreSt → CoreSt) : (s.modCore k f).walks = s.walks := rfl
@[simp] theorem State.modCore_pageReqs (s : State) (k : Nat) (f : CoreSt → CoreSt) : (s.modCore k f).pageReqs = s.pageReqs := rfl
@[simp] theorem State.modCore_relSeq (s : State) (k : Nat) (f : CoreSt → CoreSt) : (s.modCore k f).relSeq = s.relSeq := rfl
@[simp] theorem State.modCore_issueSeq (s : State) (k : Nat) (f : CoreSt → CoreSt) : (s.modCore k f).issueSeq = s.issueSeq := rfl
@[simp] theorem State.modCore_regions (s : State) (k : Nat) (f : CoreSt → CoreSt) : (s.modCore k f).regions = s.regions := rfl
@[simp] theorem State.modCore_wreqs (s : State) (k : Nat) (f : CoreSt → CoreSt) : (s.modCore k f).wreqs = s.wreqs := rfl
@[simp] theorem State.modCore_host (s : State) (k : Nat) (f : CoreSt → CoreSt) : (s.modCore k f).host = s.host := rfl
@[simp] theorem State.modCore_fabric (s : State) (k : Nat) (f : CoreSt → CoreSt) : (s.modCore k f).fabric = s.fabric := rfl
@[simp] theorem State.modCore_sched (s : State) (k : Nat) (f : CoreSt → CoreSt) : (s.modCore k f).sched = s.sched := rfl
@[simp] theorem State.modCore_health (s : State) (k : Nat) (f : CoreSt → CoreSt) : (s.modCore k f).health = s.health := rfl

/-! ### modCluster -/

@[simp] theorem State.modCluster_agenda (s : State) (k : Nat) (f : Cluster → Cluster) : (s.modCluster k f).agenda = s.agenda := rfl
@[simp] theorem State.modCluster_cur (s : State) (k : Nat) (f : Cluster → Cluster) : (s.modCluster k f).cur = s.cur := rfl
@[simp] theorem State.modCluster_ir (s : State) (k : Nat) (f : Cluster → Cluster) : (s.modCluster k f).ir = s.ir := rfl
@[simp] theorem State.modCluster_ir2 (s : State) (k : Nat) (f : Cluster → Cluster) : (s.modCluster k f).ir2 = s.ir2 := rfl
@[simp] theorem State.modCluster_tick (s : State) (k : Nat) (f : Cluster → Cluster) : (s.modCluster k f).tick = s.tick := rfl
@[simp] theorem State.modCluster_idle (s : State) (k : Nat) (f : Cluster → Cluster) : (s.modCluster k f).idle = s.idle := rfl
@[simp] theorem State.modCluster_free (s : State) (k : Nat) (f : Cluster → Cluster) : (s.modCluster k f).free = s.free := rfl
@[simp] theorem State.modCluster_nextTid (s : State) (k : Nat) (f : Cluster → Cluster) : (s.modCluster k f).nextTid = s.nextTid := rfl
@[simp] theorem State.modCluster_cyc (s : State) (k : Nat) (f : Cluster → Cluster) : (s.modCluster k f).cyc = s.cyc := rfl
@[simp] theorem State.modCluster_gts (s : State) (k : Nat) (f : Cluster → Cluster) : (s.modCluster k f).gts = s.gts := rfl
@[simp] theorem State.modCluster_pkg (s : State) (k : Nat) (f : Cluster → Cluster) : (s.modCluster k f).pkg = s.pkg := rfl
@[simp] theorem State.modCluster_outside (s : State) (k : Nat) (f : Cluster → Cluster) : (s.modCluster k f).outside = s.outside := rfl
@[simp] theorem State.modCluster_mem (s : State) (k : Nat) (f : Cluster → Cluster) : (s.modCluster k f).mem = s.mem := rfl
@[simp] theorem State.modCluster_poison (s : State) (k : Nat) (f : Cluster → Cluster) : (s.modCluster k f).poison = s.poison := rfl
@[simp] theorem State.modCluster_hostHeld (s : State) (k : Nat) (f : Cluster → Cluster) : (s.modCluster k f).hostHeld = s.hostHeld := rfl
@[simp] theorem State.modCluster_tables (s : State) (k : Nat) (f : Cluster → Cluster) : (s.modCluster k f).tables = s.tables := rfl
@[simp] theorem State.modCluster_gone (s : State) (k : Nat) (f : Cluster → Cluster) : (s.modCluster k f).gone = s.gone := rfl
@[simp] theorem State.modCluster_slots (s : State) (k : Nat) (f : Cluster → Cluster) : (s.modCluster k f).slots = s.slots := rfl
@[simp] theorem State.modCluster_cores (s : State) (k : Nat) (f : Cluster → Cluster) : (s.modCluster k f).cores = s.cores := rfl
@[simp] theorem State.modCluster_gangs (s : State) (k : Nat) (f : Cluster → Cluster) : (s.modCluster k f).gangs = s.gangs := rfl
@[simp] theorem State.modCluster_dies (s : State) (k : Nat) (f : Cluster → Cluster) : (s.modCluster k f).dies = s.dies := rfl
@[simp] theorem State.modCluster_flight (s : State) (k : Nat) (f : Cluster → Cluster) : (s.modCluster k f).flight = s.flight := rfl
@[simp] theorem State.modCluster_held (s : State) (k : Nat) (f : Cluster → Cluster) : (s.modCluster k f).held = s.held := rfl
@[simp] theorem State.modCluster_compls (s : State) (k : Nat) (f : Cluster → Cluster) : (s.modCluster k f).compls = s.compls := rfl
@[simp] theorem State.modCluster_reqs (s : State) (k : Nat) (f : Cluster → Cluster) : (s.modCluster k f).reqs = s.reqs := rfl
@[simp] theorem State.modCluster_nextReq (s : State) (k : Nat) (f : Cluster → Cluster) : (s.modCluster k f).nextReq = s.nextReq := rfl
@[simp] theorem State.modCluster_saved (s : State) (k : Nat) (f : Cluster → Cluster) : (s.modCluster k f).saved = s.saved := rfl
@[simp] theorem State.modCluster_launches (s : State) (k : Nat) (f : Cluster → Cluster) : (s.modCluster k f).launches = s.launches := rfl
@[simp] theorem State.modCluster_nextLaunch (s : State) (k : Nat) (f : Cluster → Cluster) : (s.modCluster k f).nextLaunch = s.nextLaunch := rfl
@[simp] theorem State.modCluster_walks (s : State) (k : Nat) (f : Cluster → Cluster) : (s.modCluster k f).walks = s.walks := rfl
@[simp] theorem State.modCluster_pageReqs (s : State) (k : Nat) (f : Cluster → Cluster) : (s.modCluster k f).pageReqs = s.pageReqs := rfl
@[simp] theorem State.modCluster_relSeq (s : State) (k : Nat) (f : Cluster → Cluster) : (s.modCluster k f).relSeq = s.relSeq := rfl
@[simp] theorem State.modCluster_issueSeq (s : State) (k : Nat) (f : Cluster → Cluster) : (s.modCluster k f).issueSeq = s.issueSeq := rfl
@[simp] theorem State.modCluster_regions (s : State) (k : Nat) (f : Cluster → Cluster) : (s.modCluster k f).regions = s.regions := rfl
@[simp] theorem State.modCluster_wreqs (s : State) (k : Nat) (f : Cluster → Cluster) : (s.modCluster k f).wreqs = s.wreqs := rfl
@[simp] theorem State.modCluster_host (s : State) (k : Nat) (f : Cluster → Cluster) : (s.modCluster k f).host = s.host := rfl
@[simp] theorem State.modCluster_fabric (s : State) (k : Nat) (f : Cluster → Cluster) : (s.modCluster k f).fabric = s.fabric := rfl
@[simp] theorem State.modCluster_sched (s : State) (k : Nat) (f : Cluster → Cluster) : (s.modCluster k f).sched = s.sched := rfl
@[simp] theorem State.modCluster_health (s : State) (k : Nat) (f : Cluster → Cluster) : (s.modCluster k f).health = s.health := rfl

/-! ### setGang -/

@[simp] theorem State.setGang_agenda (s : State) (k : Nat) (g : Gang) : (s.setGang k g).agenda = s.agenda := rfl
@[simp] theorem State.setGang_cur (s : State) (k : Nat) (g : Gang) : (s.setGang k g).cur = s.cur := rfl
@[simp] theorem State.setGang_ir (s : State) (k : Nat) (g : Gang) : (s.setGang k g).ir = s.ir := rfl
@[simp] theorem State.setGang_ir2 (s : State) (k : Nat) (g : Gang) : (s.setGang k g).ir2 = s.ir2 := rfl
@[simp] theorem State.setGang_tick (s : State) (k : Nat) (g : Gang) : (s.setGang k g).tick = s.tick := rfl
@[simp] theorem State.setGang_idle (s : State) (k : Nat) (g : Gang) : (s.setGang k g).idle = s.idle := rfl
@[simp] theorem State.setGang_free (s : State) (k : Nat) (g : Gang) : (s.setGang k g).free = s.free := rfl
@[simp] theorem State.setGang_nextTid (s : State) (k : Nat) (g : Gang) : (s.setGang k g).nextTid = s.nextTid := rfl
@[simp] theorem State.setGang_cyc (s : State) (k : Nat) (g : Gang) : (s.setGang k g).cyc = s.cyc := rfl
@[simp] theorem State.setGang_gts (s : State) (k : Nat) (g : Gang) : (s.setGang k g).gts = s.gts := rfl
@[simp] theorem State.setGang_pkg (s : State) (k : Nat) (g : Gang) : (s.setGang k g).pkg = s.pkg := rfl
@[simp] theorem State.setGang_outside (s : State) (k : Nat) (g : Gang) : (s.setGang k g).outside = s.outside := rfl
@[simp] theorem State.setGang_mem (s : State) (k : Nat) (g : Gang) : (s.setGang k g).mem = s.mem := rfl
@[simp] theorem State.setGang_poison (s : State) (k : Nat) (g : Gang) : (s.setGang k g).poison = s.poison := rfl
@[simp] theorem State.setGang_hostHeld (s : State) (k : Nat) (g : Gang) : (s.setGang k g).hostHeld = s.hostHeld := rfl
@[simp] theorem State.setGang_tables (s : State) (k : Nat) (g : Gang) : (s.setGang k g).tables = s.tables := rfl
@[simp] theorem State.setGang_gone (s : State) (k : Nat) (g : Gang) : (s.setGang k g).gone = s.gone := rfl
@[simp] theorem State.setGang_slots (s : State) (k : Nat) (g : Gang) : (s.setGang k g).slots = s.slots := rfl
@[simp] theorem State.setGang_cores (s : State) (k : Nat) (g : Gang) : (s.setGang k g).cores = s.cores := rfl
@[simp] theorem State.setGang_clusters (s : State) (k : Nat) (g : Gang) : (s.setGang k g).clusters = s.clusters := rfl
@[simp] theorem State.setGang_dies (s : State) (k : Nat) (g : Gang) : (s.setGang k g).dies = s.dies := rfl
@[simp] theorem State.setGang_flight (s : State) (k : Nat) (g : Gang) : (s.setGang k g).flight = s.flight := rfl
@[simp] theorem State.setGang_held (s : State) (k : Nat) (g : Gang) : (s.setGang k g).held = s.held := rfl
@[simp] theorem State.setGang_compls (s : State) (k : Nat) (g : Gang) : (s.setGang k g).compls = s.compls := rfl
@[simp] theorem State.setGang_reqs (s : State) (k : Nat) (g : Gang) : (s.setGang k g).reqs = s.reqs := rfl
@[simp] theorem State.setGang_nextReq (s : State) (k : Nat) (g : Gang) : (s.setGang k g).nextReq = s.nextReq := rfl
@[simp] theorem State.setGang_saved (s : State) (k : Nat) (g : Gang) : (s.setGang k g).saved = s.saved := rfl
@[simp] theorem State.setGang_launches (s : State) (k : Nat) (g : Gang) : (s.setGang k g).launches = s.launches := rfl
@[simp] theorem State.setGang_nextLaunch (s : State) (k : Nat) (g : Gang) : (s.setGang k g).nextLaunch = s.nextLaunch := rfl
@[simp] theorem State.setGang_walks (s : State) (k : Nat) (g : Gang) : (s.setGang k g).walks = s.walks := rfl
@[simp] theorem State.setGang_pageReqs (s : State) (k : Nat) (g : Gang) : (s.setGang k g).pageReqs = s.pageReqs := rfl
@[simp] theorem State.setGang_relSeq (s : State) (k : Nat) (g : Gang) : (s.setGang k g).relSeq = s.relSeq := rfl
@[simp] theorem State.setGang_issueSeq (s : State) (k : Nat) (g : Gang) : (s.setGang k g).issueSeq = s.issueSeq := rfl
@[simp] theorem State.setGang_regions (s : State) (k : Nat) (g : Gang) : (s.setGang k g).regions = s.regions := rfl
@[simp] theorem State.setGang_wreqs (s : State) (k : Nat) (g : Gang) : (s.setGang k g).wreqs = s.wreqs := rfl
@[simp] theorem State.setGang_host (s : State) (k : Nat) (g : Gang) : (s.setGang k g).host = s.host := rfl
@[simp] theorem State.setGang_fabric (s : State) (k : Nat) (g : Gang) : (s.setGang k g).fabric = s.fabric := rfl
@[simp] theorem State.setGang_sched (s : State) (k : Nat) (g : Gang) : (s.setGang k g).sched = s.sched := rfl
@[simp] theorem State.setGang_health (s : State) (k : Nat) (g : Gang) : (s.setGang k g).health = s.health := rfl

/-! ### modDie -/

@[simp] theorem State.modDie_agenda (s : State) (k : Nat) (f : Die → Die) : (s.modDie k f).agenda = s.agenda := rfl
@[simp] theorem State.modDie_cur (s : State) (k : Nat) (f : Die → Die) : (s.modDie k f).cur = s.cur := rfl
@[simp] theorem State.modDie_ir (s : State) (k : Nat) (f : Die → Die) : (s.modDie k f).ir = s.ir := rfl
@[simp] theorem State.modDie_ir2 (s : State) (k : Nat) (f : Die → Die) : (s.modDie k f).ir2 = s.ir2 := rfl
@[simp] theorem State.modDie_tick (s : State) (k : Nat) (f : Die → Die) : (s.modDie k f).tick = s.tick := rfl
@[simp] theorem State.modDie_idle (s : State) (k : Nat) (f : Die → Die) : (s.modDie k f).idle = s.idle := rfl
@[simp] theorem State.modDie_free (s : State) (k : Nat) (f : Die → Die) : (s.modDie k f).free = s.free := rfl
@[simp] theorem State.modDie_nextTid (s : State) (k : Nat) (f : Die → Die) : (s.modDie k f).nextTid = s.nextTid := rfl
@[simp] theorem State.modDie_cyc (s : State) (k : Nat) (f : Die → Die) : (s.modDie k f).cyc = s.cyc := rfl
@[simp] theorem State.modDie_gts (s : State) (k : Nat) (f : Die → Die) : (s.modDie k f).gts = s.gts := rfl
@[simp] theorem State.modDie_pkg (s : State) (k : Nat) (f : Die → Die) : (s.modDie k f).pkg = s.pkg := rfl
@[simp] theorem State.modDie_outside (s : State) (k : Nat) (f : Die → Die) : (s.modDie k f).outside = s.outside := rfl
@[simp] theorem State.modDie_mem (s : State) (k : Nat) (f : Die → Die) : (s.modDie k f).mem = s.mem := rfl
@[simp] theorem State.modDie_poison (s : State) (k : Nat) (f : Die → Die) : (s.modDie k f).poison = s.poison := rfl
@[simp] theorem State.modDie_hostHeld (s : State) (k : Nat) (f : Die → Die) : (s.modDie k f).hostHeld = s.hostHeld := rfl
@[simp] theorem State.modDie_tables (s : State) (k : Nat) (f : Die → Die) : (s.modDie k f).tables = s.tables := rfl
@[simp] theorem State.modDie_gone (s : State) (k : Nat) (f : Die → Die) : (s.modDie k f).gone = s.gone := rfl
@[simp] theorem State.modDie_slots (s : State) (k : Nat) (f : Die → Die) : (s.modDie k f).slots = s.slots := rfl
@[simp] theorem State.modDie_cores (s : State) (k : Nat) (f : Die → Die) : (s.modDie k f).cores = s.cores := rfl
@[simp] theorem State.modDie_clusters (s : State) (k : Nat) (f : Die → Die) : (s.modDie k f).clusters = s.clusters := rfl
@[simp] theorem State.modDie_gangs (s : State) (k : Nat) (f : Die → Die) : (s.modDie k f).gangs = s.gangs := rfl
@[simp] theorem State.modDie_flight (s : State) (k : Nat) (f : Die → Die) : (s.modDie k f).flight = s.flight := rfl
@[simp] theorem State.modDie_held (s : State) (k : Nat) (f : Die → Die) : (s.modDie k f).held = s.held := rfl
@[simp] theorem State.modDie_compls (s : State) (k : Nat) (f : Die → Die) : (s.modDie k f).compls = s.compls := rfl
@[simp] theorem State.modDie_reqs (s : State) (k : Nat) (f : Die → Die) : (s.modDie k f).reqs = s.reqs := rfl
@[simp] theorem State.modDie_nextReq (s : State) (k : Nat) (f : Die → Die) : (s.modDie k f).nextReq = s.nextReq := rfl
@[simp] theorem State.modDie_saved (s : State) (k : Nat) (f : Die → Die) : (s.modDie k f).saved = s.saved := rfl
@[simp] theorem State.modDie_launches (s : State) (k : Nat) (f : Die → Die) : (s.modDie k f).launches = s.launches := rfl
@[simp] theorem State.modDie_nextLaunch (s : State) (k : Nat) (f : Die → Die) : (s.modDie k f).nextLaunch = s.nextLaunch := rfl
@[simp] theorem State.modDie_walks (s : State) (k : Nat) (f : Die → Die) : (s.modDie k f).walks = s.walks := rfl
@[simp] theorem State.modDie_pageReqs (s : State) (k : Nat) (f : Die → Die) : (s.modDie k f).pageReqs = s.pageReqs := rfl
@[simp] theorem State.modDie_relSeq (s : State) (k : Nat) (f : Die → Die) : (s.modDie k f).relSeq = s.relSeq := rfl
@[simp] theorem State.modDie_issueSeq (s : State) (k : Nat) (f : Die → Die) : (s.modDie k f).issueSeq = s.issueSeq := rfl
@[simp] theorem State.modDie_regions (s : State) (k : Nat) (f : Die → Die) : (s.modDie k f).regions = s.regions := rfl
@[simp] theorem State.modDie_wreqs (s : State) (k : Nat) (f : Die → Die) : (s.modDie k f).wreqs = s.wreqs := rfl
@[simp] theorem State.modDie_host (s : State) (k : Nat) (f : Die → Die) : (s.modDie k f).host = s.host := rfl
@[simp] theorem State.modDie_fabric (s : State) (k : Nat) (f : Die → Die) : (s.modDie k f).fabric = s.fabric := rfl
@[simp] theorem State.modDie_sched (s : State) (k : Nat) (f : Die → Die) : (s.modDie k f).sched = s.sched := rfl
@[simp] theorem State.modDie_health (s : State) (k : Nat) (f : Die → Die) : (s.modDie k f).health = s.health := rfl

/-! ### What the updates write -/

@[simp] theorem State.slotAt_setSlot_same (s : State) (k : Nat) (t : Slot) : (s.setSlot k t).slotAt k = t := by
  simp [State.slotAt, State.setSlot]

theorem State.slotAt_setSlot_ne (s : State) (k j : Nat) (t : Slot) (h : j ≠ k) : (s.setSlot k t).slotAt j = s.slotAt j := by
  simp [State.slotAt, State.setSlot, tget_tset_ne _ _ _ _ _ h]

@[simp] theorem State.slotAt_modSlot_same (s : State) (k : Nat) (f : Slot → Slot) :
    (s.modSlot k f).slotAt k = f (s.slotAt k) := by simp [State.modSlot]

theorem State.slotAt_modSlot_ne (s : State) (k j : Nat) (f : Slot → Slot) (h : j ≠ k) :
    (s.modSlot k f).slotAt j = s.slotAt j := State.slotAt_setSlot_ne _ _ _ _ h

@[simp] theorem State.slot_mod (s : State) (f : Slot → Slot) : (s.mod f).slot = f s.slot := by
  simp [State.slot, State.mod]

theorem State.slotAt_mod_ne (s : State) (j : Nat) (f : Slot → Slot) (h : j ≠ s.cur) : (s.mod f).slotAt j = s.slotAt j :=
  State.slotAt_modSlot_ne _ _ _ _ h

@[simp] theorem State.slot_setX (s : State) (r : BitVec 5) (v : W64) : (s.setX r v).slot = s.slot.putX r v :=
  State.slot_mod s _

@[simp] theorem State.slot_setP (s : State) (r : BitVec 3) (v : BitVec 16) : (s.setP r v).slot = s.slot.putP r v :=
  State.slot_mod s _

@[simp] theorem State.slot_setV (s : State) (r : BitVec 5) (v : Vec) : (s.setV r v).slot = s.slot.putV r v :=
  State.slot_mod s _

@[simp] theorem State.slot_setE (s : State) (r : BitVec 3) (v : W32) : (s.setE r v).slot = s.slot.putE r v :=
  State.slot_mod s _

@[simp] theorem State.coreAt_modSlot (s : State) (k c : Nat) (f : Slot → Slot) : (s.modSlot k f).coreAt c = s.coreAt c := rfl
@[simp] theorem State.coreAt_mod (s : State) (c : Nat) (f : Slot → Slot) : (s.mod f).coreAt c = s.coreAt c := rfl
@[simp] theorem State.coreAt_setX (s : State) (c : Nat) (r : BitVec 5) (v : W64) : (s.setX r v).coreAt c = s.coreAt c := rfl
@[simp] theorem State.slotAt_modCore (s : State) (k c : Nat) (f : CoreSt → CoreSt) : (s.modCore c f).slotAt k = s.slotAt k := rfl
@[simp] theorem State.slot_modCore (s : State) (c : Nat) (f : CoreSt → CoreSt) : (s.modCore c f).slot = s.slot := rfl
@[simp] theorem State.slotAt_modCluster (s : State) (k c : Nat) (f : Cluster → Cluster) :
    (s.modCluster c f).slotAt k = s.slotAt k := rfl
@[simp] theorem State.slot_modCluster (s : State) (c : Nat) (f : Cluster → Cluster) : (s.modCluster c f).slot = s.slot := rfl
@[simp] theorem State.coreAt_modCluster (s : State) (k c : Nat) (f : Cluster → Cluster) :
    (s.modCluster c f).coreAt k = s.coreAt k := rfl

@[simp] theorem State.coreAt_modCore_same (s : State) (c : Nat) (f : CoreSt → CoreSt) :
    (s.modCore c f).coreAt c = f (s.coreAt c) := by simp [State.coreAt, State.modCore]

theorem State.coreAt_modCore_ne (s : State) (c k : Nat) (f : CoreSt → CoreSt) (h : k ≠ c) :
    (s.modCore c f).coreAt k = s.coreAt k := by simp [State.coreAt, State.modCore, tget_tset_ne _ _ _ _ _ h]

@[simp] theorem State.clusterAt_modCluster_same (s : State) (c : Nat) (f : Cluster → Cluster) :
    (s.modCluster c f).clusterAt c = f (s.clusterAt c) := by simp [State.clusterAt, State.modCluster]

theorem State.clusterAt_modCluster_ne (s : State) (c k : Nat) (f : Cluster → Cluster) (h : k ≠ c) :
    (s.modCluster c f).clusterAt k = s.clusterAt k := by
  simp [State.clusterAt, State.modCluster, tget_tset_ne _ _ _ _ _ h]

@[simp] theorem State.core_mod (s : State) (f : Slot → Slot) : (s.mod f).core = s.core := rfl
@[simp] theorem State.core_setX (s : State) (r : BitVec 5) (v : W64) : (s.setX r v).core = s.core := rfl

/-! ### Registers of a slot -/

theorem Slot.getX_putX (t : Slot) (d r : BitVec 5) (v : W64) :
    (t.putX d v).getX r = if r = d ∧ d ≠ 0 then v else t.getX r := by
  unfold Slot.putX Slot.getX
  by_cases hd : d = 0
  · simp [hd]
  · by_cases hr : r = 0
    · subst hr; simp only [if_true]; rw [if_neg (fun h => hd h.1.symm)]
    · simp only [hd, hr, if_false, RegFile.read_write, ne_eq, not_false_eq_true, and_true]

theorem Slot.getP_putP (t : Slot) (d r : BitVec 3) (v : BitVec 16) :
    (t.putP d v).getP r = if r = d ∧ d ≠ 7 then v else t.getP r := by
  unfold Slot.putP Slot.getP
  by_cases hd : d = 7
  · simp [hd]
  · by_cases hr : r = 7
    · subst hr; simp only [if_true]; rw [if_neg (fun h => hd h.1.symm)]
    · simp only [hd, hr, if_false, RegFile.read_write, ne_eq, not_false_eq_true, and_true]

theorem State.x_zero (s : State) : s.x 0 = 0 := rfl
theorem State.p_seven (s : State) : s.p 7 = 0xFFFF := rfl

end Sys2Proof.Machine
end

