-- ==== Sys2Proof/Laws/Cache.lean ====
section
/-! SUPPORT. What the cache operations touch: memory and the clusters' caches, never a register, and of memory only bytes
that are stored to or that were dirty in the cluster's cache (R222 to R224). -/

namespace Sys2Proof.Machine

/-- `t` differs from `s` in memory, in the lines of one cluster's cache, and in host-held lines given up, alone. -/
structure LinesOnly (cl : Nat) (s t : State) : Prop where
  rest : t = { s with mem := t.mem, clusters := t.clusters, hostHeld := t.hostHeld }
  held : ∀ l ∈ t.hostHeld, l ∈ s.hostHeld
  cluster : t.clusterAt cl = { s.clusterAt cl with lines := (t.clusterAt cl).lines }
  clusters : ∀ c, c ≠ cl → t.clusterAt c = s.clusterAt c

theorem LinesOnly.refl {cl : Nat} (s : State) : LinesOnly cl s s := ⟨rfl, fun _ h => h, rfl, fun _ _ => rfl⟩

theorem LinesOnly.trans {cl : Nat} {s t u : State} (h : LinesOnly cl s t) (k : LinesOnly cl t u) : LinesOnly cl s u where
  rest := by
    have a := k.rest
    rw [h.rest] at a
    exact a
  held := fun l hl => h.held l (k.held l hl)
  cluster := by
    have a := k.cluster
    rw [h.cluster] at a
    exact a
  clusters := fun c hc => by rw [k.clusters c hc, h.clusters c hc]

theorem linesOnly_mem {cl : Nat} (s : State) (m : List Host.Cell) : LinesOnly cl s { s with mem := m } :=
  ⟨rfl, fun _ h => h, rfl, fun _ _ => rfl⟩

theorem backInvalidate_only {cl : Nat} (s : State) (l : Nat) : LinesOnly cl s (s.backInvalidate l) :=
  ⟨rfl, fun _ h => (List.mem_filter.mp h).1, rfl, fun _ _ => rfl⟩

@[simp] theorem backInvalidate_mem (s : State) (l : Nat) : (s.backInvalidate l).mem = s.mem := rfl
@[simp] theorem backInvalidate_clusterAt (s : State) (l cl : Nat) : (s.backInvalidate l).clusterAt cl = s.clusterAt cl := rfl

theorem linesOnly_lines (s : State) (cl : Nat) (l : Tbl Line) :
    LinesOnly cl s (s.modCluster cl (fun c => { c with lines := l })) where
  rest := rfl
  held := fun _ h => h
  cluster := by rw [State.clusterAt_modCluster_same]
  clusters := fun c hc => State.clusterAt_modCluster_ne _ _ _ _ hc

theorem linesOnly_modLines (s : State) (cl : Nat) (f : Tbl Line → Tbl Line) :
    LinesOnly cl s (s.modCluster cl (fun c => { c with lines := f c.lines })) :=
  linesOnly_lines s cl (f (s.clusterAt cl).lines)

theorem writeBack_only (s : State) (cl l : Nat) : LinesOnly cl s (s.writeBack cl l) := by
  unfold State.writeBack
  split
  · exact .refl s
  · split
    · exact .refl s
    · exact (linesOnly_mem s _).trans (linesOnly_modLines _ cl (fun t => tset t l _))

theorem dropLine_only (s : State) (cl l : Nat) : LinesOnly cl s (s.dropLine cl l) :=
  (writeBack_only s cl l).trans (linesOnly_modLines _ cl (fun t => tdel t l))

theorem makeRoom_only (s : State) (cl l : Nat) : LinesOnly cl s (s.makeRoom cl l) := by
  unfold State.makeRoom
  dsimp only
  split
  · exact .refl s
  · split
    · exact .refl s
    · split
      · exact dropLine_only _ _ _
      · exact (backInvalidate_only s _).trans (dropLine_only _ _ _)

theorem loadLine_only (s : State) (cl stale l hint : Nat) : LinesOnly cl s (s.loadLine cl stale l hint).2 := by
  unfold State.loadLine
  split
  · exact dropLine_only _ _ _
  · split
    · exact linesOnly_modLines s cl (fun t => tset t l _)
    · exact (makeRoom_only s cl l).trans (linesOnly_modLines _ cl (fun t => tset t l _))

theorem storeLine_only (s : State) (cl l hint : Nat) (mask : BitVec 64) (x : Vec) :
    LinesOnly cl s (s.storeLine cl l hint mask x) := by
  unfold State.storeLine
  dsimp only
  split
  · exact (dropLine_only s cl l).trans (linesOnly_mem _ _)
  · split
    · split
      · exact (linesOnly_mem s _).trans (linesOnly_modLines _ cl (fun t => tset t l _))
      · exact linesOnly_modLines s cl (fun t => tset t l _)
    · split
      · exact linesOnly_mem _ _
      · exact (makeRoom_only s cl l).trans (linesOnly_modLines _ cl (fun t => tset t l _))

theorem hbmRead_only (cl stale hint f : Nat) : ∀ (s : State) (pa n : Nat),
    LinesOnly cl s (State.hbmRead cl stale hint f s pa n).2 := by
  induction f with
  | zero => intro s pa n; exact .refl s
  | succ f ih =>
    intro s pa n
    unfold State.hbmRead
    dsimp only
    split
    · exact loadLine_only _ _ _ _ _
    · exact (loadLine_only _ _ _ _ _).trans (ih _ _ _)

theorem hbmWrite_only (cl hint f : Nat) : ∀ (s : State) (pa n mask x : Nat),
    LinesOnly cl s (State.hbmWrite cl hint f s pa n mask x) := by
  induction f with
  | zero => intro s pa n mask x; exact .refl s
  | succ f ih =>
    intro s pa n mask x
    unfold State.hbmWrite
    dsimp only
    have h : LinesOnly cl s (if mask % 2 ^ min n (64 - pa % 64) = 0 then s
        else s.storeLine cl (pa / 64) hint (BitVec.ofNat 64 (mask % 2 ^ min n (64 - pa % 64) * 2 ^ (pa % 64)))
          (BitVec.ofNat 512 (x % 2 ^ (8 * min n (64 - pa % 64)) * 2 ^ (8 * (pa % 64))))) := by
      split
      · exact .refl s
      · exact storeLine_only _ _ _ _ _ _
    split
    · exact h
    · exact h.trans (ih _ _ _ _ _)

/-- Not a register of the link window, not in the range that holds rows (R428). -/
def Place.plain : Place → Bool
  | .link _ => false
  | .held _ => false
  | _ => true

theorem readPlace_only (s : State) (cl stale hint : Nat) (p : Place) (n : Nat) (hp : p.plain = true) :
    LinesOnly cl s (s.readPlace cl stale hint p n).2 := by
  unfold State.readPlace
  split
  · exact hbmRead_only _ _ _ _ _ _ _
  · cases hp
  · exact .refl s

theorem writePlace_only (s : State) (cl hint : Nat) (p : Place) (n mask x : Nat) (hp : p.plain = true) :
    LinesOnly cl s (s.writePlace cl hint p n mask x) := by
  unfold State.writePlace
  split
  · exact hbmWrite_only _ _ _ _ _ _ _ _
  · exact .refl s
  · cases hp
  · cases hp
  · exact linesOnly_mem _ _

theorem foldl_only {α : Type} (cl : Nat) (f : State → α → State) (h : ∀ s a, LinesOnly cl s (f s a)) (l : List α) (s : State) :
    LinesOnly cl s (l.foldl f s) := by
  induction l generalizing s with
  | nil => exact .refl s
  | cons a l ih => exact (h s a).trans (ih _)

theorem release_only (s : State) (cl scope : Nat) : LinesOnly cl s (s.release cl scope) := by
  unfold State.release
  split
  · exact .refl s
  · exact foldl_only cl _ (fun s (e : Nat × Line) => writeBack_only s cl e.1) _ _

theorem LinesOnly.slots {cl : Nat} {s t : State} (h : LinesOnly cl s t) : t.slots = s.slots := by rw [h.rest]
theorem LinesOnly.cores {cl : Nat} {s t : State} (h : LinesOnly cl s t) : t.cores = s.cores := by rw [h.rest]
theorem LinesOnly.cur {cl : Nat} {s t : State} (h : LinesOnly cl s t) : t.cur = s.cur := by rw [h.rest]
theorem LinesOnly.slot {cl : Nat} {s t : State} (h : LinesOnly cl s t) : t.slot = s.slot := by rw [h.rest]; rfl
theorem LinesOnly.clusterNo {cl : Nat} {s t : State} (h : LinesOnly cl s t) : t.clusterNo = s.clusterNo := by rw [h.rest]; rfl
theorem LinesOnly.coreAt {cl : Nat} {s t : State} (h : LinesOnly cl s t) (c : Nat) : t.coreAt c = s.coreAt c := by rw [h.rest]; rfl

theorem atSlice_only (s : State) (p : Place) (n : Nat) : LinesOnly s.clusterNo s (s.atSlice p n) := by
  unfold State.atSlice
  split
  · rename_i pa
    have : ∀ (l : List Nat) (t : State), t.clusterNo = s.clusterNo →
        LinesOnly s.clusterNo t (l.foldl (fun s i => s.dropLine s.clusterNo (pa / 64 + i)) t) := by
      intro l
      induction l with
      | nil => intro t _; exact .refl t
      | cons i l ih =>
        intro t ht
        rw [List.foldl_cons, ht]
        have k := dropLine_only t s.clusterNo (pa / 64 + i)
        exact k.trans (ih _ (by rw [k.clusterNo, ht]))
    exact this _ s rfl
  · exact .refl s

theorem flushPlace_only (s : State) (p : Place) (n : Nat) : LinesOnly s.clusterNo s (s.flushPlace p n) := by
  unfold State.flushPlace
  split
  · rename_i pa
    have : ∀ (l : List Nat) (t : State), t.clusterNo = s.clusterNo →
        LinesOnly s.clusterNo t (l.foldl (fun s i => s.writeBack s.clusterNo (pa / 64 + i)) t) := by
      intro l
      induction l with
      | nil => intro t _; exact .refl t
      | cons i l ih =>
        intro t ht
        rw [List.foldl_cons, ht]
        have k := writeBack_only t s.clusterNo (pa / 64 + i)
        exact k.trans (ih _ (by rw [k.clusterNo, ht]))
    exact this _ s rfl
  · exact .refl s

/-! ### Bytes -/

/-- From `s` to `t` the cluster's cache wrote back and cleaned: a byte of memory that changed was dirty in the cache, whose
value it takes, no byte became dirty, and none was lost. -/
structure WroteBack (cl : Nat) (s t : State) : Prop where
  bytes : ∀ a, memGet t.mem a = memGet s.mem a ∨ s.dirtyByte cl a = some (memGet t.mem a)
  dirty : ∀ a b, t.dirtyByte cl a = some b → s.dirtyByte cl a = some b
  seen : ∀ a, t.seenByte cl a = s.seenByte cl a
  wf : Memory.wf t.mem = true

theorem WroteBack.refl {cl : Nat} {s : State} (h : Memory.wf s.mem = true) : WroteBack cl s s :=
  ⟨fun _ => .inl rfl, fun _ _ h => h, fun _ => rfl, h⟩

theorem WroteBack.trans {cl : Nat} {s t u : State} (h : WroteBack cl s t) (k : WroteBack cl t u) : WroteBack cl s u where
  bytes := fun a => by
    cases k.bytes a with
    | inl e => rw [e]; exact h.bytes a
    | inr e => exact .inr (h.dirty a _ e)
  dirty := fun a b e => h.dirty a b (k.dirty a b e)
  seen := fun a => (k.seen a).trans (h.seen a)
  wf := k.wf

theorem byteOf_line (v : Vec) (o : Nat) : BitVec.ofNat 8 (v.toNat / 256 ^ o) = v.extractLsb' (8 * o) 8 := by
  apply BitVec.eq_of_toNat_eq
  rw [BitVec.toNat_ofNat, BitVec.extractLsb'_toNat, Nat.shiftRight_eq_div_pow, Nat.pow_mul]

theorem dirtyByte_congr {s t : State} {cl : Nat} (h : (t.clusterAt cl).lines = (s.clusterAt cl).lines) (a : Nat) :
    t.dirtyByte cl a = s.dirtyByte cl a := by unfold State.dirtyByte; rw [h]

/-- The dirty bytes after line `l` becomes `e`. -/
theorem dirtyByte_tset (s : State) (cl l a : Nat) (e : Line) :
    (s.modCluster cl (fun c => { c with lines := tset c.lines l e })).dirtyByte cl a =
      if a / 64 = l then (if e.dirty.getLsbD (a % 64) then some (e.line.extractLsb' (8 * (a % 64)) 8) else none)
      else s.dirtyByte cl a := by
  unfold State.dirtyByte
  rw [State.clusterAt_modCluster_same]
  simp only [tfind_tset]
  by_cases h : a / 64 = l <;> simp [h]

theorem dirtyByte_tdel (s : State) (cl l a : Nat) :
    (s.modCluster cl (fun c => { c with lines := tdel c.lines l })).dirtyByte cl a =
      if a / 64 = l then none else s.dirtyByte cl a := by
  unfold State.dirtyByte
  rw [State.clusterAt_modCluster_same]
  simp only [tfind_tdel]
  by_cases h : a / 64 = l <;> simp [h]

theorem dirtyByte_line {s : State} {cl a : Nat} {e : Line} (h : tfind (s.clusterAt cl).lines (a / 64) = some e) :
    s.dirtyByte cl a = if e.dirty.getLsbD (a % 64) then some (e.line.extractLsb' (8 * (a % 64)) 8) else none := by
  unfold State.dirtyByte; rw [h]

/-- The state after a write-back: the line is clean, its dirty bytes are in memory. -/
theorem writeBack_bytes (s : State) (cl l : Nat) (h : Memory.wf s.mem = true) :
    WroteBack cl s (s.writeBack cl l) ∧ ∀ o, o < 64 → (s.writeBack cl l).dirtyByte cl (64 * l + o) = none := by
  have at_l : ∀ o, o < 64 → (64 * l + o) / 64 = l ∧ (64 * l + o) % 64 = o := fun o ho => ⟨by omega, by omega⟩
  unfold State.writeBack
  split
  · rename_i he
    refine ⟨.refl h, fun o ho => ?_⟩
    unfold State.dirtyByte
    rw [(at_l o ho).1, he]
  · rename_i e he
    split
    · rename_i h0
      refine ⟨.refl h, fun o ho => ?_⟩
      unfold State.dirtyByte
      rw [(at_l o ho).1, he]
      simp [h0]
    · have hm : ∀ a, memGet (memWrite s.mem (64 * l) 64 e.dirty.toNat e.line.toNat) a =
          if a / 64 = l ∧ e.dirty.getLsbD (a % 64) = true then e.line.extractLsb' (8 * (a % 64)) 8 else memGet s.mem a := by
        intro a
        rw [memGet_memWrite h]
        by_cases hl : a / 64 = l
        · have e2 : a - 64 * l = a % 64 := by omega
          rw [e2, byteOf_line]
          by_cases hd : e.dirty.getLsbD (a % 64) = true
          · rw [if_pos ⟨by omega, by omega, hd⟩, if_pos ⟨hl, hd⟩]
          · rw [if_neg (fun q => hd q.2.2), if_neg (fun q => hd q.2)]
        · rw [if_neg (fun q => hl (by omega)), if_neg (fun q => hl q.1)]
      have hdirty : ∀ a, (({ s with mem := memWrite s.mem (64 * l) 64 e.dirty.toNat e.line.toNat } : State).modCluster cl
          (fun c => { c with lines := tset c.lines l { e with dirty := 0 } })).dirtyByte cl a =
          if a / 64 = l then none else s.dirtyByte cl a := by
        intro a
        rw [dirtyByte_tset]
        by_cases hl : a / 64 = l
        · simp [hl]
        · rw [if_neg hl, if_neg hl]
          rfl
      refine ⟨⟨?_, ?_, ?_, memWrite_wf h _ _ _ _⟩, ?_⟩
      · intro a
        show memGet (memWrite s.mem (64 * l) 64 e.dirty.toNat e.line.toNat) a = _ ∨
          _ = some (memGet (memWrite s.mem (64 * l) 64 e.dirty.toNat e.line.toNat) a)
        rw [hm]
        split
        · rename_i hc
          right
          rw [dirtyByte_line (by rw [hc.1]; exact he), if_pos hc.2]
        · exact .inl rfl
      · intro a b
        rw [hdirty]
        split
        · simp
        · exact id
      · intro a
        unfold State.seenByte
        rw [hdirty]
        show Option.getD _ (memGet (memWrite s.mem (64 * l) 64 e.dirty.toNat e.line.toNat) a) = _
        rw [hm]
        by_cases hl : a / 64 = l
        · rw [if_pos hl, dirtyByte_line (by rw [hl]; exact he)]
          by_cases hd : e.dirty.getLsbD (a % 64) = true
          · rw [if_pos ⟨hl, hd⟩, if_pos hd]
            rfl
          · rw [if_neg (fun q => hd q.2), if_neg hd]
        · rw [if_neg hl, if_neg (fun q => hl q.1)]
      · intro o ho
        rw [hdirty, if_pos (at_l o ho).1]

theorem dropLine_bytes (s : State) (cl l : Nat) (h : Memory.wf s.mem = true) :
    WroteBack cl s (s.dropLine cl l) ∧ ∀ o, o < 64 → (s.dropLine cl l).dirtyByte cl (64 * l + o) = none := by
  have k := (writeBack_bytes s cl l h).1
  have c := (writeBack_bytes s cl l h).2
  unfold State.dropLine
  refine ⟨⟨k.bytes, ?_, ?_, k.wf⟩, ?_⟩
  · intro a b
    rw [dirtyByte_tdel]
    split
    · simp
    · exact k.dirty a b
  · intro a
    rw [← k.seen a]
    unfold State.seenByte
    rw [dirtyByte_tdel]
    split
    · rename_i hl
      have e := c (a % 64) (Nat.mod_lt _ (by omega))
      rw [show 64 * l + a % 64 = a by omega] at e
      rw [e]
      rfl
    · rfl
  · intro o ho
    rw [dirtyByte_tdel, if_pos (by omega)]

theorem backInvalidate_bytes {cl : Nat} (s : State) (l : Nat) (h : Memory.wf s.mem = true) : WroteBack cl s (s.backInvalidate l) :=
  ⟨fun _ => .inl rfl, fun _ _ q => q, fun _ => rfl, h⟩

theorem makeRoom_bytes (s : State) (cl l : Nat) (h : Memory.wf s.mem = true) : WroteBack cl s (s.makeRoom cl l) := by
  unfold State.makeRoom
  dsimp only
  split
  · exact .refl h
  · split
    · exact .refl h
    · split
      · exact (dropLine_bytes _ _ _ h).1
      · exact (backInvalidate_bytes s _ h).trans (dropLine_bytes (s.backInvalidate _) _ _ h).1

theorem getLsbD_expandMask (m : BitVec 64) (o k : Nat) (ho : o < 64) (hk : k < 8) :
    (expandMask m).getLsbD (8 * o + k) = m.getLsbD o := by
  have hlt := packDigits_lt 8 (fun i => if m.getLsbD i then 255 else 0) 64
  have hd := packDigits_testBit 8 (fun i => if m.getLsbD i then 255 else 0) 64 o k ho hk
  unfold expandMask
  rw [BitVec.getLsbD, BitVec.toNat_ofNat, Nat.mod_eq_of_lt hlt, hd]
  have h255 : (255 : BitVec 8).getLsbD k = true := by
    have : k = 0 ∨ k = 1 ∨ k = 2 ∨ k = 3 ∨ k = 4 ∨ k = 5 ∨ k = 6 ∨ k = 7 := by omega
    rcases this with h | h | h | h | h | h | h | h <;> subst h <;> rfl
  cases h : m.getLsbD o with
  | true => simp only [if_true]; exact h255
  | false => simp

/-- Merging takes the byte of `new` where the mask is set and of `old` elsewhere. -/
theorem mergeBytes_byte (old new : Vec) (m : BitVec 64) (o : Nat) (ho : o < 64) :
    (mergeBytes old new m).extractLsb' (8 * o) 8 =
      if m.getLsbD o then new.extractLsb' (8 * o) 8 else old.extractLsb' (8 * o) 8 := by
  apply BitVec.eq_of_getLsbD_eq
  intro k hk
  have hb : 8 * o + k < 512 := by omega
  have e := getLsbD_expandMask m o k ho hk
  unfold mergeBytes
  rw [BitVec.getLsbD_eq_getElem hb] at e
  cases h : m.getLsbD o <;> rw [h] at e <;> simp [hk, hb, e]

/-- A line replaced by one with the same dirty bytes. -/
theorem refill_bytes (s : State) (cl l : Nat) (e e' : Line) (h : Memory.wf s.mem = true)
    (he : tfind (s.clusterAt cl).lines l = some e) (hd : e'.dirty = e.dirty)
    (hb : ∀ o, o < 64 → e.dirty.getLsbD o = true → e'.line.extractLsb' (8 * o) 8 = e.line.extractLsb' (8 * o) 8) :
    WroteBack cl s (s.modCluster cl (fun c => { c with lines := tset c.lines l e' })) := by
  have hdirty : ∀ a, (s.modCluster cl (fun c => { c with lines := tset c.lines l e' })).dirtyByte cl a = s.dirtyByte cl a := by
    intro a
    rw [dirtyByte_tset]
    split
    · rename_i hl
      subst hl
      rw [dirtyByte_line he, hd]
      by_cases hx : e.dirty.getLsbD (a % 64) = true
      · rw [if_pos hx, if_pos hx, hb _ (Nat.mod_lt _ (by omega)) hx]
      · rw [if_neg hx, if_neg hx]
    · rfl
  refine ⟨fun _ => .inl rfl, fun a b q => by rw [← hdirty]; exact q, fun a => ?_, h⟩
  unfold State.seenByte
  rw [hdirty]
  rfl

theorem loadLine_bytes (s : State) (cl stale l hint : Nat) (h : Memory.wf s.mem = true) :
    WroteBack cl s (s.loadLine cl stale l hint).2 := by
  unfold State.loadLine
  split
  · exact (dropLine_bytes _ _ _ h).1
  · split
    · rename_i e he
      dsimp only
      apply refill_bytes s cl l e _ h he
      · split
        · split <;> rfl
        · rfl
      · intro o ho hx
        have key : (mergeBytes (sliceLine s.mem l) e.line e.dirty).extractLsb' (8 * o) 8 = e.line.extractLsb' (8 * o) 8 := by
          rw [mergeBytes_byte _ _ _ _ ho, if_pos hx]
        split
        · rename_i t _
          by_cases ht : decide (stale ≤ t) = true
          · rw [if_pos ht]
          · rw [if_neg ht]
            exact key
        · exact key
    · rename_i he
      have k := makeRoom_bytes s cl l h
      have hno : ∀ a, a / 64 = l → s.dirtyByte cl a = none := by
        intro a hl
        unfold State.dirtyByte
        rw [hl, he]
      have hno2 : ∀ a, a / 64 = l → (s.makeRoom cl l).dirtyByte cl a = none := by
        intro a hl
        cases q : (s.makeRoom cl l).dirtyByte cl a with
        | none => rfl
        | some b => exact absurd (k.dirty a b q) (by rw [hno a hl]; simp)
      refine ⟨k.bytes, ?_, ?_, k.wf⟩
      · intro a b
        dsimp only
        rw [dirtyByte_tset]
        split
        · simp
        · exact k.dirty a b
      · intro a
        rw [← k.seen a]
        unfold State.seenByte
        dsimp only
        rw [dirtyByte_tset]
        split
        · rename_i hl
          rw [hno2 a hl]
          simp
        · rfl

theorem hbmRead_bytes (cl stale hint f : Nat) : ∀ (s : State) (pa n : Nat), Memory.wf s.mem = true →
    WroteBack cl s (State.hbmRead cl stale hint f s pa n).2 := by
  induction f with
  | zero => intro s pa n h; exact .refl h
  | succ f ih =>
    intro s pa n h
    have k := loadLine_bytes s cl stale (pa / 64) hint h
    unfold State.hbmRead
    dsimp only
    split
    · exact k
    · exact k.trans (ih _ _ _ k.wf)

/-- A read changes no byte of memory but by write-backs of the cluster's own dirty bytes. -/
theorem readPlace_bytes (s : State) (cl stale hint : Nat) (p : Place) (n : Nat) (h : Memory.wf s.mem = true)
    (hp : p.plain = true) : WroteBack cl s (s.readPlace cl stale hint p n).2 := by
  unfold State.readPlace
  split
  · exact hbmRead_bytes _ _ _ _ _ _ _ h
  · cases hp
  · exact .refl h

theorem foldl_bytes {α : Type} (cl : Nat) (f : State → α → State)
    (hf : ∀ s a, Memory.wf s.mem = true → WroteBack cl s (f s a)) (l : List α) :
    ∀ s, Memory.wf s.mem = true → WroteBack cl s (l.foldl f s) := by
  induction l with
  | nil => intro s h; exact .refl h
  | cons a l ih => intro s h; exact (hf s a h).trans (ih _ (hf s a h).wf)

theorem release_bytes (s : State) (cl scope : Nat) (h : Memory.wf s.mem = true) : WroteBack cl s (s.release cl scope) := by
  unfold State.release
  split
  · exact .refl h
  · exact foldl_bytes cl _ (fun s (e : Nat × Line) hs => (writeBack_bytes s cl e.1 hs).1) _ _ h

/-- The two states have the same memory and caches. -/
structure SameCache (s t : State) : Prop where
  mem : s.mem = t.mem
  clusters : s.clusters = t.clusters

theorem SameCache.lines {s t : State} (h : SameCache s t) (cl : Nat) : s.clusterAt cl = t.clusterAt cl := by
  unfold State.clusterAt; rw [h.clusters]

theorem SameCache.dirtyByte {s t : State} (h : SameCache s t) (cl a : Nat) : s.dirtyByte cl a = t.dirtyByte cl a := by
  unfold State.dirtyByte; rw [h.lines]

theorem SameCache.seenByte {s t : State} (h : SameCache s t) (cl a : Nat) : s.seenByte cl a = t.seenByte cl a := by
  unfold State.seenByte; rw [h.dirtyByte, h.mem]

theorem writeBack_congr {s t : State} (h : SameCache s t) (cl l : Nat) : SameCache (s.writeBack cl l) (t.writeBack cl l) := by
  unfold State.writeBack
  rw [h.lines cl]
  split
  · exact h
  · split
    · exact h
    · constructor
      · show memWrite s.mem _ _ _ _ = memWrite t.mem _ _ _ _
        rw [h.mem]
      · unfold State.modCluster State.clusterAt
        show tset s.clusters _ _ = tset t.clusters _ _
        rw [h.clusters]

theorem foldl_congr {α : Type} (f : State → α → State) (hf : ∀ s t a, SameCache s t → SameCache (f s a) (f t a)) (l : List α) :
    ∀ s t, SameCache s t → SameCache (l.foldl f s) (l.foldl f t) := by
  induction l with
  | nil => intro s t h; exact h
  | cons a l ih => intro s t h; exact ih _ _ (hf s t a h)

theorem release_congr {s t : State} (h : SameCache s t) (cl scope : Nat) : SameCache (s.release cl scope) (t.release cl scope) := by
  unfold State.release
  split
  · exact h
  · rw [h.lines cl]; exact foldl_congr _ (fun s t (a : Nat × Line) h => writeBack_congr h cl a.1) _ _ _ h

/-- Of the lines a fold goes over none keeps a dirty byte. -/
theorem foldl_clean {α : Type} (cl : Nat) (f : State → α → State) (line : α → Nat)
    (hf : ∀ s a, Memory.wf s.mem = true → WroteBack cl s (f s a) ∧ ∀ o, o < 64 → (f s a).dirtyByte cl (64 * line a + o) = none)
    (l : List α) : ∀ s, Memory.wf s.mem = true → ∀ e ∈ l, ∀ o, o < 64 → (l.foldl f s).dirtyByte cl (64 * line e + o) = none := by
  induction l with
  | nil => intro s h e he; cases he
  | cons a l ih =>
    intro s h e he o ho
    have k := hf s a h
    rw [List.foldl_cons]
    rcases List.mem_cons.1 he with he | he
    · subst he
      have w := foldl_bytes cl f (fun s a hs => (hf s a hs).1) l _ k.1.wf
      cases q : (l.foldl f (f s e)).dirtyByte cl (64 * line e + o) with
      | none => rfl
      | some b => have := w.dirty _ _ q; rw [k.2 o ho] at this; cases this
    · exact ih _ k.1.wf e he o ho

/-- R224: a release at PK or wider leaves no dirty byte. -/
theorem release_clean (s : State) (cl scope : Nat) (h : Memory.wf s.mem = true) (hs : 2 ≤ scope) (a : Nat) :
    (s.release cl scope).dirtyByte cl a = none := by
  have w := release_bytes s cl scope h
  cases q : (s.release cl scope).dirtyByte cl a with
  | none => rfl
  | some b =>
    have d := w.dirty _ _ q
    have hm : ∃ e, (a / 64, e) ∈ (s.clusterAt cl).lines := by
      unfold State.dirtyByte at d
      split at d
      · cases d
      · rename_i e he
        exact ⟨e, tfind_mem he⟩
    obtain ⟨e, he⟩ := hm
    have c := foldl_clean cl (fun s (e : Nat × Line) => s.writeBack cl e.1) (fun e => e.1)
      (fun s e hs => writeBack_bytes s cl e.1 hs) (s.clusterAt cl).lines s h _ he (a % 64) (Nat.mod_lt _ (by omega))
    unfold State.release at q
    rw [if_neg (by omega)] at q
    rw [show 64 * (a / 64) + a % 64 = a by omega] at c
    rw [c] at q; cases q

end Sys2Proof.Machine
end

