-- ==== Sys2Proof/Laws/Access.lean ====
section
/-! SUPPORT. What the loads and stores of a thread do to the package, and the bytes they read and write (R112, R222 to R224). -/

namespace Sys2Proof.Machine

/-! ### Frames -/

theorem OnlyMemory.refl (s : State) : OnlyMemory s s :=
  ⟨rfl, fun _ h => h, rfl, fun _ _ => rfl, fun _ => rfl, fun _ => rfl⟩

theorem OnlyMemory.cur {s t : State} (h : OnlyMemory s t) : t.cur = s.cur := by rw [h.rest]
theorem OnlyMemory.slots {s t : State} (h : OnlyMemory s t) : t.slots = s.slots := by rw [h.rest]
theorem OnlyMemory.slot {s t : State} (h : OnlyMemory s t) : t.slot = s.slot := by rw [h.rest]; rfl
theorem OnlyMemory.clusterNo {s t : State} (h : OnlyMemory s t) : t.clusterNo = s.clusterNo := by rw [h.rest]; rfl
theorem OnlyMemory.core_eq {s t : State} (h : OnlyMemory s t) : t.core = s.core := by rw [h.rest]; rfl

theorem OnlyMemory.trans {s t u : State} (h : OnlyMemory s t) (k : OnlyMemory t u) : OnlyMemory s u where
  rest := by
    have a := k.rest
    rw [h.rest] at a
    exact a
  held := fun l hl => h.held l (k.held l hl)
  cluster := by
    have a := k.cluster
    rw [h.clusterNo, h.cluster] at a
    exact a
  clusters := fun c hc => by rw [k.clusters c (by rw [h.clusterNo]; exact hc), h.clusters c hc]
  core := fun c => by
    have a := k.core c
    rw [h.core c] at a
    exact a
  tlb := fun c => (k.tlb c).trans (h.tlb c)

theorem LinesOnly.onlyMemory {s t : State} (h : LinesOnly s.clusterNo s t) : OnlyMemory s t where
  rest := by
    have a := h.rest
    rw [a]
  held := h.held
  cluster := h.cluster
  clusters := h.clusters
  core := fun c => by rw [h.coreAt]
  tlb := fun c => by rw [h.coreAt]

theorem onlyMemory_core (s : State) (c : Nat) (f : CoreSt → CoreSt)
    (hf : ∀ x : CoreSt, f x = { x with tlb := (f x).tlb, stale := (f x).stale } ∧
      (f x).tlb.map (fun e => (e.tag, e.word)) = x.tlb.map (fun e => (e.tag, e.word))) : OnlyMemory s (s.modCore c f) where
  rest := rfl
  held := fun _ h => h
  cluster := rfl
  clusters := fun _ _ => rfl
  core := fun k => by
    by_cases h : k = c
    · subst h; rw [State.coreAt_modCore_same]; exact (hf _).1
    · rw [State.coreAt_modCore_ne _ _ _ _ h]
  tlb := fun k => by
    by_cases h : k = c
    · subst h; rw [State.coreAt_modCore_same]; exact (hf _).2
    · rw [State.coreAt_modCore_ne _ _ _ _ h]

/-- Dropping what a slot's streams fetched ahead goes with a change of memory alone (R211). -/
theorem OnlyMemory.dropAhead {s t : State} (h : OnlyMemory s t) (sid : Nat) : OnlyMemory (s.dropAhead sid) (t.dropAhead sid) where
  rest := by
    have a := h.rest
    rw [a]
    rfl
  held := h.held
  cluster := h.cluster
  clusters := h.clusters
  core := h.core
  tlb := h.tlb

@[simp] theorem dropAhead_mem (s : State) (sid : Nat) : (s.dropAhead sid).mem = s.mem := rfl
@[simp] theorem dropAhead_clusters (s : State) (sid : Nat) : (s.dropAhead sid).clusters = s.clusters := rfl
@[simp] theorem dropAhead_cores (s : State) (sid : Nat) : (s.dropAhead sid).cores = s.cores := rfl
@[simp] theorem dropAhead_cur (s : State) (sid : Nat) : (s.dropAhead sid).cur = s.cur := rfl

theorem touchTlb_only (s : State) (core : Nat) (job : W32) (va : W64) : OnlyMemory s (s.touchTlb core job va) := by
  unfold State.touchTlb
  split
  · split
    · exact .refl s
    · apply onlyMemory_core
      intro x
      refine ⟨rfl, ?_⟩
      rw [List.map_map]
      apply List.map_congr_left
      intro e _
      simp only [Function.comp]
      split
      · subst e; rfl
      · rfl
  · exact .refl s

theorem acquire_only (s : State) (core scope : Nat) : OnlyMemory s (s.acquire core scope) := by
  unfold State.acquire
  split
  · exact .refl s
  · exact onlyMemory_core _ _ _ (fun _ => ⟨rfl, rfl⟩)

@[simp] theorem touchTlb_mem (s : State) (core : Nat) (job : W32) (va : W64) : (s.touchTlb core job va).mem = s.mem := by
  unfold State.touchTlb; split
  · split <;> rfl
  · rfl

@[simp] theorem touchTlb_clusters (s : State) (core : Nat) (job : W32) (va : W64) :
    (s.touchTlb core job va).clusters = s.clusters := by
  unfold State.touchTlb; split
  · split <;> rfl
  · rfl

@[simp] theorem acquire_mem (s : State) (core scope : Nat) : (s.acquire core scope).mem = s.mem := by
  unfold State.acquire; split <;> rfl
@[simp] theorem acquire_clusters (s : State) (core scope : Nat) : (s.acquire core scope).clusters = s.clusters := by
  unfold State.acquire; split <;> rfl

theorem touchTlb_stale (s : State) (core : Nat) (job : W32) (va : W64) (c : Nat) :
    ((s.touchTlb core job va).coreAt c).stale = (s.coreAt c).stale := by
  unfold State.touchTlb; split
  · split
    · rfl
    · by_cases h : c = core
      · subst h; rw [State.coreAt_modCore_same]
      · rw [State.coreAt_modCore_ne _ _ _ _ h]
  · rfl

/-- A memory operation of the issuing slot touches memory alone. -/
theorem readPlace_memory (s : State) (stale hint : Nat) (p : Place) (n : Nat) (hp : p.plain = true) :
    OnlyMemory s (s.readPlace s.clusterNo stale hint p n).2 := (readPlace_only _ _ _ _ _ _ hp).onlyMemory

theorem writePlace_memory (s : State) (hint : Nat) (p : Place) (n mask x : Nat) (hp : p.plain = true) :
    OnlyMemory s (s.writePlace s.clusterNo hint p n mask x) := (writePlace_only _ _ _ _ _ _ _ hp).onlyMemory

theorem release_memory (s : State) (scope : Nat) : OnlyMemory s (s.release s.clusterNo scope) :=
  (release_only _ _ _).onlyMemory

/-- The release before an access, the acquire with it. -/
def State.released (s : State) (ord scope : Nat) : State := if ordRel ord then s.release s.clusterNo scope else s
def State.acquired (s : State) (ord scope : Nat) : State := if ordAcq ord then s.acquireHere scope else s
def State.flushed (s : State) (p : Place) (n ord scope : Nat) : State :=
  if ord == 4 && decide (2 ≤ scope) then s.flushPlace p n else s

theorem released_memory (s : State) (ord scope : Nat) : OnlyMemory s (s.released ord scope) := by
  unfold State.released
  split
  · exact release_memory s scope
  · exact .refl s

theorem acquired_memory (s : State) (ord scope : Nat) : OnlyMemory (s.refetch ord) (s.acquired ord scope) := by
  unfold State.acquired State.refetch
  split
  · exact (acquire_only _ _ _).dropAhead _
  · exact .refl s

theorem OnlyMemory.refetch {s t : State} (h : OnlyMemory s t) (ord : Nat) : OnlyMemory (s.refetch ord) (t.refetch ord) := by
  unfold State.refetch
  split
  · rw [h.cur]; exact h.dropAhead _
  · exact h

theorem flushed_memory (s : State) (p : Place) (n ord scope : Nat) : OnlyMemory s (s.flushed p n ord scope) := by
  unfold State.flushed
  split
  · exact (flushPlace_only _ _ _).onlyMemory
  · exact .refl s

theorem readAt_plain (s : State) (p : Place) (n hint ord scope : Nat) (hp : p.plain = true) :
    s.readAt p n hint ord scope =
      let t := (s.released ord scope).acquired ord scope
      t.readPlace t.clusterNo (t.coreAt t.core).stale hint p n := by
  cases p <;> first | rfl | cases hp

theorem writeAt_plain (s : State) (p : Place) (n mask x hint ord scope : Nat) (hp : p.plain = true) :
    s.writeAt p n mask x hint ord scope =
      let t := s.released ord scope
      ((t.writePlace t.clusterNo hint p n mask x).flushed p n ord scope).acquired ord scope := by
  cases p <;> first | rfl | cases hp

theorem readAt_memory (s : State) (p : Place) (n hint ord scope : Nat) (hp : ∀ pa, p ≠ .held pa) :
    OnlyMemory (s.refetch ord) (s.readAt p n hint ord scope).2 := by
  have h : OnlyMemory (s.refetch ord) ((s.released ord scope).acquired ord scope) :=
    ((released_memory s ord scope).refetch ord).trans (acquired_memory _ _ _)
  cases hpl : p.plain with
  | true =>
    rw [readAt_plain _ _ _ _ _ _ hpl]
    exact h.trans (readPlace_memory _ _ _ _ _ hpl)
  | false =>
    cases p <;> first | (cases hpl; done) | exact absurd rfl (hp _) | exact h

theorem writeAt_memory (s : State) (p : Place) (n mask x hint ord scope : Nat) (hp : p.plain = true) :
    OnlyMemory (s.refetch ord) (s.writeAt p n mask x hint ord scope) := by
  rw [writeAt_plain _ _ _ _ _ _ _ _ hp]
  exact ((((released_memory s ord scope).trans (writePlace_memory _ _ _ _ _ _ hp)).trans
    (flushed_memory _ _ _ _ _)).refetch ord).trans (acquired_memory _ _ _)

/-! ### Bytes read -/

/-- A number below 256^n is its own bytes. -/
theorem eq_packDigits (f : Nat → Byte) (n x : Nat) (hx : x < 256 ^ n) (h : ∀ k, k < n → BitVec.ofNat 8 (x / 256 ^ k) = f k) :
    x = packDigits 8 f n := by
  induction n generalizing x with
  | zero => simp only [Nat.pow_zero] at hx; simp only [packDigits]; omega
  | succ n ih =>
    have hlow := ih (x % 256 ^ n) (Nat.mod_lt _ (Nat.pow_pos (by omega))) (fun k hk => by
      rw [← h k (by omega)]
      apply BitVec.eq_of_toNat_eq
      rw [BitVec.toNat_ofNat, BitVec.toNat_ofNat]
      have e : 256 ^ n = 256 ^ k * (256 * 256 ^ (n - k - 1)) := by
        rw [← Nat.mul_assoc, Nat.mul_comm (256 ^ k) 256, ← Nat.pow_succ', ← Nat.pow_add]
        congr 1
        omega
      rw [e, Nat.mod_mul_right_div_self, Nat.mod_mul_right_mod])
    have htop := congrArg BitVec.toNat (h n (by omega))
    rw [BitVec.toNat_ofNat] at htop
    have hd : x / 256 ^ n < 256 := by
      rw [Nat.div_lt_iff_lt_mul (Nat.pow_pos (by omega)), ← Nat.pow_succ']
      exact hx
    have e8 : 2 ^ (8 * n) = 256 ^ n := by rw [Nat.pow_mul]
    simp only [packDigits]
    rw [← hlow, ← htop, Nat.mod_eq_of_lt hd, e8]
    have := Nat.div_add_mod x (256 ^ n)
    rw [Nat.mul_comm] at this
    omega

theorem memRead_byte (m : List Host.Cell) (n : Nat) : ∀ (a k : Nat), k < n →
    BitVec.ofNat 8 (memRead m a n / 256 ^ k) = memGet m (a + k) := by
  induction n with
  | zero => intro a k h; omega
  | succ n ih =>
    intro a k h
    have hb := (memGet m a).isLt
    cases k with
    | zero =>
      apply BitVec.eq_of_toNat_eq
      simp only [memRead, Nat.pow_zero, Nat.div_one, BitVec.toNat_ofNat, Nat.add_zero]
      omega
    | succ k =>
      simp only [memRead]
      have e : ((memGet m a).toNat + 256 * memRead m (a + 1) n) / 256 ^ (k + 1) = memRead m (a + 1) n / 256 ^ k := by
        rw [Nat.pow_succ', ← Nat.div_div_eq_div_mul]
        congr 1
        omega
      rw [e, ih (a + 1) k (by omega)]
      congr 1
      omega

theorem memRead_packDigits (m : List Host.Cell) (a n : Nat) : memRead m a n = packDigits 8 (fun k => memGet m (a + k)) n :=
  eq_packDigits _ _ _ (memRead_lt m a n) (fun k hk => memRead_byte m n a k hk)

theorem sliceLine_byte (m : List Host.Cell) (l o : Nat) (h : o < 64) :
    (sliceLine m l).extractLsb' (8 * o) 8 = memGet m (64 * l + o) := by
  have hlt : memRead m (64 * l) 64 < 2 ^ (8 * 64) := by rw [Nat.pow_mul]; exact memRead_lt m (64 * l) 64
  rw [← byteOf_line]
  unfold sliceLine
  rw [BitVec.toNat_ofNat, Nat.mod_eq_of_lt (by simpa using hlt)]
  exact memRead_byte m 64 (64 * l) o h

/-- Byte `o` of the line a cached load reads. -/
theorem loadLine_value (s : State) (l o : Nat) (h : Memory.wf s.mem = true) (ho : o < 64) :
    (s.loadLine s.clusterNo (s.coreAt s.core).stale l 0).1.extractLsb' (8 * o) 8 =
      s.loadByte (.hbm (64 * l) false) o := by
  have e1 : (64 * l + o) / 64 = l := by omega
  have e2 : (64 * l + o) % 64 = o := by omega
  unfold State.loadLine State.loadByte
  simp only [e1, e2]
  rw [if_neg (by decide)]
  cases he : tfind (s.clusterAt s.clusterNo).lines l with
  | none =>
    simp only
    rw [sliceLine_byte _ _ _ ho]
    cases (makeRoom_bytes s s.clusterNo l h).bytes (64 * l + o) with
    | inl q => exact q
    | inr q =>
      unfold State.dirtyByte at q
      rw [e1, he] at q
      cases q
  | some e =>
    simp only
    cases hf : e.filled with
    | none =>
      simp only [Bool.or_false, Bool.false_eq_true, if_false]
      rw [mergeBytes_byte _ _ _ _ ho, sliceLine_byte _ _ _ ho]
    | some t =>
      simp only
      by_cases hs : (s.coreAt s.core).stale ≤ t
      · simp [hs]
      · simp only [hs, decide_false, Bool.or_false, Bool.false_eq_true, if_false]
        rw [mergeBytes_byte _ _ _ _ ho, sliceLine_byte _ _ _ ho]

/-- A plain load of bytes within one line reads each byte as the issuing slot sees it (R223, R224). -/
theorem readPlace_value (s : State) (p : Place) (n : Nat) (h : Memory.wf s.mem = true)
    (hl : match p with | .hbm pa false => pa % 64 + n ≤ 64 | .held _ => False | _ => True) :
    (s.readPlace s.clusterNo (s.coreAt s.core).stale 0 p n).1 = packDigits 8 (s.loadByte p) n := by
  have flat : ∀ q : Place, (memRead s.mem q.flat n) = packDigits 8 (fun k => memGet s.mem (q.flat + k)) n :=
    fun q => memRead_packDigits _ _ _
  cases p with
  | hbm pa tso =>
    cases tso with
    | true => exact flat (.hbm pa true)
    | false =>
      simp only at hl
      unfold State.readPlace
      simp only
      unfold State.hbmRead
      have hk : min n (64 - pa % 64) = n := by omega
      simp only [hk, Nat.le_refl, if_true]
      apply eq_packDigits
      · unfold bitsAt
        rw [show (256 : Nat) ^ n = 2 ^ (8 * n) by rw [Nat.pow_mul]]
        exact Nat.mod_lt _ (Nat.pow_pos (by omega))
      · intro k hk2
        have ho : pa % 64 + k < 64 := by omega
        have v := loadLine_value s (pa / 64) (pa % 64 + k) h ho
        have e : s.loadByte (.hbm (64 * (pa / 64)) false) (pa % 64 + k) = s.loadByte (.hbm pa false) k := by
          unfold State.loadByte
          dsimp only
          rw [show 64 * (pa / 64) + (pa % 64 + k) = pa + k by omega]
        rw [← e, ← v]
        generalize (s.loadLine s.clusterNo (s.coreAt s.core).stale (pa / 64) 0).1 = d
        rw [← byteOf_line]
        apply BitVec.eq_of_toNat_eq
        rw [BitVec.toNat_ofNat, BitVec.toNat_ofNat]
        unfold bitsAt
        have e1 : d.toNat / 256 ^ (pa % 64 + k) = d.toNat / 2 ^ (8 * (pa % 64)) / 256 ^ k := by
          rw [Nat.div_div_eq_div_mul, Nat.pow_mul, Nat.pow_add]
        rw [e1]
        generalize d.toNat / 2 ^ (8 * (pa % 64)) = y
        have e2 : 2 ^ (8 * n) = 256 ^ k * (256 * 256 ^ (n - k - 1)) := by
          rw [Nat.pow_mul, ← Nat.mul_assoc, Nat.mul_comm (256 ^ k) 256, ← Nat.pow_succ', ← Nat.pow_add]
          congr 1
          omega
        rw [e2, Nat.mod_mul_right_div_self, Nat.mod_mul_right_mod]
  | scratch c o => exact flat (.scratch c o)
  | host pa tso => exact flat (.host pa tso)
  | held pa => exact hl.elim
  | remote p => exact flat (.remote p)
  | link o => exact flat (.link o)

end Sys2Proof.Machine
end

