-- ==== Sys2Proof/Laws/Alu.lean ====
section
/-! SUPPORT. The results of R98 and R99 in terms of integers: one lemma per operation that is not its own definition. -/

namespace Sys2Proof.Machine

theorem log2_msb {W} (A : BitVec W) (h : A ≠ 0) : A.toNat.log2 < W ∧ A.getLsbD A.toNat.log2 = true ∧ ∀ i, A.toNat.log2 < i → A.getLsbD i = false := by
  have h0 : A.toNat ≠ 0 := fun e => h (BitVec.eq_of_toNat_eq (by simpa using e))
  have hl := (Nat.log2_lt h0).2 A.isLt
  refine ⟨hl, ?_, ?_⟩
  · simp [BitVec.getLsbD, Nat.testBit_log2 h0]
  · intro i hi
    simp only [BitVec.getLsbD]
    apply Nat.testBit_lt_two_pow
    calc A.toNat < 2^(A.toNat.log2+1) := Nat.lt_log2_self
      _ ≤ 2^i := Nat.pow_le_pow_right (by omega) hi

theorem rotateLeft_shifts {W} (A : BitVec W) (k : Nat) : A.rotateLeft (k % W) = A <<< (k % W) ||| A >>> (W - k % W) := by
  rcases Nat.eq_zero_or_pos W with h | h
  · subst h; exact Subsingleton.elim _ _
  · rw [BitVec.rotateLeft_eq_rotateLeftAux_of_lt (Nat.mod_lt _ h)]; rfl

theorem slt_min {W} (A B : BitVec W) : (if A.slt B then A else B) = BitVec.ofInt W (min A.toInt B.toInt) := by
  simp only [BitVec.slt_iff_toInt_lt]
  split
  · rw [Int.min_eq_left (by omega), BitVec.ofInt_toInt]
  · rw [Int.min_eq_right (by omega), BitVec.ofInt_toInt]
theorem slt_max {W} (A B : BitVec W) : (if A.slt B then B else A) = BitVec.ofInt W (max A.toInt B.toInt) := by
  simp only [BitVec.slt_iff_toInt_lt]
  split
  · rw [Int.max_eq_right (by omega), BitVec.ofInt_toInt]
  · rw [Int.max_eq_left (by omega), BitVec.ofInt_toInt]
theorem ult_min {W} (A B : BitVec W) : (if A.ult B then A else B) = BitVec.ofNat W (min A.toNat B.toNat) := by
  simp only [BitVec.ult, decide_eq_true_eq]
  split
  · rw [Nat.min_eq_left (by omega), BitVec.ofNat_toNat, BitVec.setWidth_eq]
  · rw [Nat.min_eq_right (by omega), BitVec.ofNat_toNat, BitVec.setWidth_eq]
theorem ult_max {W} (A B : BitVec W) : (if A.ult B then B else A) = BitVec.ofNat W (max A.toNat B.toNat) := by
  simp only [BitVec.ult, decide_eq_true_eq]
  split
  · rw [Nat.max_eq_right (by omega), BitVec.ofNat_toNat, BitVec.setWidth_eq]
  · rw [Nat.max_eq_left (by omega), BitVec.ofNat_toNat, BitVec.setWidth_eq]

theorem mulh_int {W} (A B : BitVec W) : (A.signExtend (2 * W) * B.signExtend (2 * W)).extractLsb' W W = BitVec.ofInt W (A.toInt * B.toInt / 2 ^ W) := by
  have e : A.signExtend (2*W) * B.signExtend (2*W) = BitVec.ofInt (2*W) (A.toInt * B.toInt) := by
    rw [BitVec.ofInt_mul]; rfl
  rw [e]
  apply BitVec.eq_of_toNat_eq
  simp only [BitVec.extractLsb'_toNat, BitVec.toNat_ofInt, Nat.shiftRight_eq_div_pow]
  generalize A.toInt * B.toInt = z
  have : ((2^W : Nat):Int) = (2:Int)^W := by simp
  apply Int.ofNat_inj.1
  have e2 : ((2^(2*W) : Nat):Int) = (2:Int)^W * 2^W := by rw [Nat.two_mul, Nat.pow_add]; simp
  have hp : (0:Int) < 2^W := by have : 0 < 2^W := Nat.pow_pos (by omega); omega
  rw [Int.natCast_emod, Int.natCast_ediv, Int.toNat_of_nonneg (Int.emod_nonneg _ (by rw [e2]; exact Int.ne_of_gt (Int.mul_pos hp hp))), Int.toNat_of_nonneg (Int.emod_nonneg _ (by rw [this]; omega)), this, e2]
  have h1 := Int.mul_ediv_add_emod z (2^W * 2^W)
  generalize hq : z / (2^W*2^W) = q at *
  generalize hr : z % (2^W*2^W) = r at *
  have : z = r + 2^W * (2^W * q) := by rw [← Int.mul_assoc]; omega
  rw [this, Int.add_mul_ediv_left _ _ (by omega), Int.add_mul_emod_self_left]

theorem mulhn_nat {W} (A B : BitVec W) : (A.setWidth (2 * W) * B.setWidth (2 * W)).extractLsb' W W = BitVec.ofNat W (A.toNat * B.toNat / 2 ^ W) := by
  apply BitVec.eq_of_toNat_eq
  have hA := A.isLt
  have hB := B.isLt
  have e2 : 2^(2*W) = 2^W * 2^W := by rw [Nat.two_mul, Nat.pow_add]
  have hle : 2^W ≤ 2^(2*W) := Nat.pow_le_pow_right (by omega) (by omega)
  have hm : A.toNat * B.toNat < 2 ^ (2 * W) := by rw [e2]; exact Nat.mul_lt_mul'' hA hB
  simp only [BitVec.extractLsb'_toNat, BitVec.toNat_mul, BitVec.toNat_setWidth, BitVec.toNat_ofNat, Nat.shiftRight_eq_div_pow]
  rw [Nat.mod_eq_of_lt (Nat.lt_of_lt_of_le hA hle), Nat.mod_eq_of_lt (Nat.lt_of_lt_of_le hB hle), Nat.mod_eq_of_lt hm]

theorem sdiv_int {W} (A B : BitVec W) : (A.sdiv B) = BitVec.ofInt W (A.toInt.tdiv B.toInt) := by
  apply BitVec.eq_of_toInt_eq; rw [BitVec.toInt_sdiv, BitVec.toInt_ofInt]

theorem srem_int {W} (A B : BitVec W) : A.srem B = BitVec.ofInt W (A.toInt.tmod B.toInt) := by
  rw [← BitVec.toInt_srem, BitVec.ofInt_toInt]

theorem aluResult_mul {W} (A B : BitVec W) : aluResult .mul W A B = BitVec.ofNat W (A.toNat * B.toNat) := by
  apply BitVec.eq_of_toNat_eq
  simp [aluResult, BitVec.toNat_mul]

theorem aluResult_div {W} (A B : BitVec W) :
    aluResult .div W A B = if B = 0 then BitVec.allOnes W else BitVec.ofInt W (A.toInt.tdiv B.toInt) := by
  simp only [aluResult, sdiv_int]

theorem aluResult_divn {W} (A B : BitVec W) :
    aluResult .divn W A B = if B = 0 then BitVec.allOnes W else BitVec.ofNat W (A.toNat / B.toNat) := by
  simp only [aluResult]
  split
  · rfl
  · apply BitVec.eq_of_toNat_eq
    rw [BitVec.toNat_ofNat, Nat.mod_eq_of_lt (Nat.lt_of_le_of_lt (Nat.div_le_self _ _) A.isLt)]
    rfl

theorem aluResult_rem {W} (A B : BitVec W) :
    aluResult .rem W A B = if B = 0 then A else BitVec.ofInt W (A.toInt.tmod B.toInt) := by
  simp only [aluResult, srem_int]

theorem aluResult_remn {W} (A B : BitVec W) :
    aluResult .remn W A B = if B = 0 then A else BitVec.ofNat W (A.toNat % B.toNat) := by
  simp only [aluResult]
  split
  · rfl
  · apply BitVec.eq_of_toNat_eq
    rw [BitVec.toNat_ofNat, Nat.mod_eq_of_lt (Nat.lt_of_le_of_lt (Nat.mod_le _ _) A.isLt)]
    rfl

theorem aluResult_popc {W} (A B : BitVec W) :
    aluResult .popc W A B = BitVec.ofNat W ((List.range W).filter (fun i => A.getLsbD i)).length := by
  simp only [aluResult]
  rw [popBelow_eq]
  rfl

end Sys2Proof.Machine
end

