-- ==== Sys2Proof/Laws/Float.lean ====
section
/-! SUPPORT. The order of floating values (R106, R107, R200): `fvLt` is a strict weak order on values that are not NaN. -/

namespace Sys2Proof.Machine

/-- A finite value in units of 2^q, for q at most its exponent. -/
def FVal.units (q : Int) : FVal → Int
  | .fin n m e => signInt n m * 2 ^ (e - q).toNat
  | _ => 0

theorem units_shift (n : Bool) (m : Nat) (e q k : Int) (h : q ≤ e) (hk : k ≤ q) :
    FVal.units k (.fin n m e) = FVal.units q (.fin n m e) * 2 ^ (q - k).toNat := by
  unfold FVal.units
  dsimp only
  rw [Int.mul_assoc, ← Int.pow_add]
  congr 2
  omega

theorem fvLt_fin (n k : Bool) (m p : Nat) (e d q : Int) (h1 : q ≤ e) (h2 : q ≤ d) :
    fvLt (.fin n m e) (.fin k p d) = decide (FVal.units q (.fin n m e) < FVal.units q (.fin k p d)) := by
  have hm : q ≤ min e d := by omega
  rw [units_shift n m e (min e d) q (by omega) hm, units_shift k p d (min e d) q (by omega) hm]
  unfold fvLt
  dsimp only
  rw [Bool.eq_iff_iff, decide_eq_true_iff, decide_eq_true_iff]
  have hp : (0 : Int) < 2 ^ (min e d - q).toNat := Int.pow_pos (by omega)
  show FVal.units (min e d) (.fin n m e) < FVal.units (min e d) (.fin k p d) ↔ _
  constructor
  · intro h; exact Int.mul_lt_mul_of_pos_right h hp
  · intro h; exact Int.lt_of_mul_lt_mul_right h (by omega)

theorem fvLt_irrefl (a : FVal) : fvLt a a = false := by
  cases a with
  | nan _ => rfl
  | inf n => cases n <;> rfl
  | fin n m e => rw [fvLt_fin n n m m e e e (by omega) (by omega)]; simp

theorem fvLt_trans {a b c : FVal} (h : fvLt a b = true) (k : fvLt b c = true) : fvLt a c = true := by
  cases a with
  | nan _ => cases h
  | inf n =>
    cases b with
    | nan _ => cases h
    | inf m => cases n <;> cases m <;> first | (cases h; done) | (cases c <;> first | (cases k; done) | exact k)
    | fin m x e =>
      cases n
      · cases h
      · cases c with
        | nan _ => cases k
        | inf y => cases y <;> first | rfl | cases k
        | fin _ _ _ => rfl
  | fin n m e =>
    cases b with
    | nan _ => cases h
    | inf y =>
      cases y
      · cases c with
        | nan _ => cases k
        | inf z => cases k
        | fin _ _ _ => cases k
      · cases h
    | fin k2 p d =>
      cases c with
      | nan _ => cases k
      | inf y => cases y <;> first | rfl | cases k
      | fin k3 r f =>
        have q1 : min (min e d) f ≤ e := by omega
        have q2 : min (min e d) f ≤ d := by omega
        have q3 : min (min e d) f ≤ f := by omega
        rw [fvLt_fin _ _ _ _ _ _ _ q1 q2, decide_eq_true_iff] at h
        rw [fvLt_fin _ _ _ _ _ _ _ q2 q3, decide_eq_true_iff] at k
        rw [fvLt_fin _ _ _ _ _ _ _ q1 q3, decide_eq_true_iff]
        omega

/-- What is not less is transitive over a value that is not NaN. -/
theorem fvLt_neg_trans {a b c : FVal} (hb : b.isNan = false) (h : fvLt a b = false) (k : fvLt b c = false) : fvLt a c = false := by
  cases a with
  | nan _ => rfl
  | inf n =>
    cases b with
    | nan _ => cases hb
    | inf m => cases n <;> cases m <;> first | (cases h; done) | (cases c <;> first | rfl | exact k | (rename_i z; cases z <;> first | rfl | cases k))
    | fin m x e =>
      cases n
      · cases c with
        | nan _ => rfl
        | inf y => rfl
        | fin _ _ _ => rfl
      · cases h
  | fin n m e =>
    cases b with
    | nan _ => cases hb
    | inf y =>
      cases y
      · cases h
      · cases c with
        | nan _ => rfl
        | inf z => cases z <;> first | rfl | cases k
        | fin _ _ _ => cases k
    | fin k2 p d =>
      cases c with
      | nan _ => rfl
      | inf y => cases y <;> first | rfl | cases k
      | fin k3 r f =>
        have q1 : min (min e d) f ≤ e := by omega
        have q2 : min (min e d) f ≤ d := by omega
        have q3 : min (min e d) f ≤ f := by omega
        rw [fvLt_fin _ _ _ _ _ _ _ q1 q2, decide_eq_false_iff_not] at h
        rw [fvLt_fin _ _ _ _ _ _ _ q2 q3, decide_eq_false_iff_not] at k
        rw [fvLt_fin _ _ _ _ _ _ _ q1 q3, decide_eq_false_iff_not]
        omega

end Sys2Proof.Machine
end

