-- ==== Sys2Proof/Laws/Ops.lean ====
section
/-! SUPPORT. What the shared ends of an instruction do, said once: retiring, the guard, floating-point ends, vector ends. -/

namespace Sys2Proof.Machine

/-! ### Retiring -/

theorem State.retireAt_slots (s : State) (sid : Nat) (pc : W64) :
    (s.retireAt sid pc).slots = (s.modSlot sid (fun t => t.advance pc)).slots := by
  unfold State.retireAt State.countRetired
  dsimp only
  split <;> rfl

theorem State.retireAt_rest (s : State) (sid : Nat) (pc : W64) :
    s.retireAt sid pc = { s with slots := (s.retireAt sid pc).slots, cores := (s.retireAt sid pc).cores } := by
  unfold State.retireAt State.countRetired
  dsimp only
  split <;> rfl

theorem State.retireAt_slotAt_same (s : State) (sid : Nat) (pc : W64) :
    (s.retireAt sid pc).slotAt sid = (s.slotAt sid).advance pc := by
  unfold State.slotAt
  rw [State.retireAt_slots]
  exact State.slotAt_modSlot_same _ _ _

theorem State.retireAt_slotAt_ne (s : State) (sid k : Nat) (pc : W64) (h : k ≠ sid) :
    (s.retireAt sid pc).slotAt k = s.slotAt k := by
  unfold State.slotAt
  rw [State.retireAt_slots]
  exact State.slotAt_modSlot_ne _ _ _ _ h

theorem State.retireAt_core_ne (s : State) (sid c : Nat) (pc : W64) (h : c ≠ sidCore sid) :
    (s.retireAt sid pc).coreAt c = s.coreAt c := by
  unfold State.retireAt State.countRetired
  dsimp only
  split
  · exact State.coreAt_modCore_ne _ _ _ _ h
  · rfl

theorem State.retireAt_core_same (s : State) (sid : Nat) (pc : W64) :
    (s.retireAt sid pc).coreAt (sidCore sid) = { s.coreAt (sidCore sid) with
      opener := ((s.retireAt sid pc).coreAt (sidCore sid)).opener
      retired := ((s.retireAt sid pc).coreAt (sidCore sid)).retired
      heldHeads := ((s.retireAt sid pc).coreAt (sidCore sid)).heldHeads
      opened := ((s.retireAt sid pc).coreAt (sidCore sid)).opened
      closedAt := ((s.retireAt sid pc).coreAt (sidCore sid)).closedAt } := by
  unfold State.retireAt State.countRetired
  dsimp only
  split
  · rw [State.coreAt_modCore_same]
    rw [show (s.modSlot sid fun t => t.advance pc).coreAt (sidCore sid) = s.coreAt (sidCore sid) from rfl]
    generalize s.coreAt (sidCore sid) = c
    by_cases h : 63 ≤ c.retired
    · rw [if_pos h]; rfl
    · rw [if_neg h]
  · rfl

@[simp] theorem State.retireAt_cur (s : State) (sid : Nat) (pc : W64) : (s.retireAt sid pc).cur = s.cur := by
  rw [State.retireAt_rest]

@[simp] theorem State.retireAt_mem (s : State) (sid : Nat) (pc : W64) : (s.retireAt sid pc).mem = s.mem := by
  rw [State.retireAt_rest]

theorem State.retireAt_slot (s : State) (pc : W64) : (s.retireAt s.cur pc).slot = s.slot.advance pc := by
  unfold State.slot
  rw [State.retireAt_cur]
  exact State.retireAt_slotAt_same _ _ _

/-- Retiring keeps every register and all but the slot's wait. -/
theorem retireAt_spec (s : State) (pc : W64) : RetiredAt s (s.retireAt s.cur pc) pc s.view where
  regs := by
    unfold State.view
    rw [State.retireAt_slot]
    rfl
  pc := by unfold State.pc; rw [State.retireAt_slot]; rfl
  ended := by rw [State.retireAt_slot]; exact ⟨rfl, rfl, rfl, rfl⟩
  slot := by rw [State.retireAt_slot]; rfl
  slots := fun k h => State.retireAt_slotAt_ne _ _ _ _ h
  core := State.retireAt_core_same _ _ _
  cores := fun c h => State.retireAt_core_ne _ _ _ _ h
  mem := fun a => by rw [State.retireAt_mem]
  rest := State.retireAt_rest _ _ _

/-- A change of registers alone, then retiring. -/
theorem retireAt_mod (s : State) (f : Slot → Slot) (pc : W64) (hf : Slot.OnlyRegs s.slot (f s.slot)) :
    RetiredAt s ((s.mod f).retireAt s.cur pc) pc (f s.slot).view := by
  have h := retireAt_spec (s.mod f) pc
  rw [State.mod_cur] at h
  exact {
    regs := by rw [h.regs]; unfold State.view; rw [State.slot_mod]
    pc := h.pc
    ended := h.ended
    slot := by
      have h2 := h.slot
      rw [State.slot_mod] at h2
      unfold Slot.OnlyRegs at hf h2 ⊢
      rw [hf] at h2
      exact h2
    slots := fun k hk => by rw [h.slots k hk, State.slotAt_mod_ne _ _ _ hk]
    core := h.core
    cores := h.cores
    mem := h.mem
    rest := by
      have h2 := h.rest
      exact h2 }

theorem Slot.OnlyRegs.pc {a b : Slot} (h : Slot.OnlyRegs a b) : b.pc = a.pc := by rw [h]

theorem retire_spec (s : State) (len : Nat) : Retired s (s.retire len) len s.view := retireAt_spec s _

theorem retire_mod (s : State) (f : Slot → Slot) (len : Nat) (hf : Slot.OnlyRegs s.slot (f s.slot)) :
    Retired s ((s.mod f).retire len) len (f s.slot).view := by
  have h := retireAt_mod s f ((s.mod f).pc + BitVec.ofNat 64 len) hf
  have e : (s.mod f).pc = s.pc := by unfold State.pc; rw [State.slot_mod, hf.pc]
  unfold Retired
  rw [← e]
  exact h

/-! ### Register writes -/

theorem Slot.onlyRegs_refl (t : Slot) : Slot.OnlyRegs t t := rfl

theorem Slot.OnlyRegs.trans {a b c : Slot} (h : Slot.OnlyRegs a b) (k : Slot.OnlyRegs b c) : Slot.OnlyRegs a c := by
  unfold Slot.OnlyRegs at *
  rw [h] at k
  exact k

theorem Slot.onlyRegs_putX (t : Slot) (d : BitVec 5) (v : W64) : Slot.OnlyRegs t (t.putX d v) := by
  unfold Slot.putX; split <;> rfl
theorem Slot.onlyRegs_putP (t : Slot) (d : BitVec 3) (v : BitVec 16) : Slot.OnlyRegs t (t.putP d v) := by
  unfold Slot.putP; split <;> rfl
theorem Slot.onlyRegs_putV (t : Slot) (d : BitVec 5) (v : Vec) : Slot.OnlyRegs t (t.putV d v) := rfl
theorem Slot.onlyRegs_putE (t : Slot) (d : BitVec 3) (v : W32) : Slot.OnlyRegs t (t.putE d v) := rfl
theorem Slot.onlyRegs_putZ (t : Slot) (d : BitVec 3) (v : Stream) : Slot.OnlyRegs t (t.putZ d v) := rfl
theorem Slot.onlyRegs_orFlags (t : Slot) (fl : Flags) : Slot.OnlyRegs t (t.orFlags fl) := by
  unfold Slot.orFlags; split <;> rfl

theorem RegFile.read_write_upd {n : Nat} {α : Type} (f : RegFile n α) (d : BitVec n) (v : α) :
    RegFile.read (RegFile.write f d v) = upd (RegFile.read f) d v := by
  funext r; exact RegFile.read_write f d r v

theorem Slot.view_putX (t : Slot) (d : BitVec 5) (v : W64) : (t.putX d v).view = { t.view with x := updX t.getX d v } := by
  have h : (t.putX d v).getX = updX t.getX d v := by
    funext r
    rw [Slot.getX_putX]
    unfold updX upd
    by_cases hd : d = 0
    · rw [if_neg (fun h => h.2 hd), if_pos hd]
    · rw [if_neg hd]
      by_cases hr : r = d
      · rw [if_pos ⟨hr, hd⟩, if_pos hr]
      · rw [if_neg (fun h => hr h.1), if_neg hr]
  unfold Slot.view
  rw [h]
  unfold Slot.putX
  split <;> rfl

theorem Slot.view_putP (t : Slot) (d : BitVec 3) (v : BitVec 16) :
    (t.putP d v).view = { t.view with p := updP t.getP d v } := by
  have h : (t.putP d v).getP = updP t.getP d v := by
    funext r
    rw [Slot.getP_putP]
    unfold updP upd
    by_cases hd : d = 7
    · rw [if_neg (fun h => h.2 hd), if_pos hd]
    · rw [if_neg hd]
      by_cases hr : r = d
      · rw [if_pos ⟨hr, hd⟩, if_pos hr]
      · rw [if_neg (fun h => hr h.1), if_neg hr]
  unfold Slot.view
  rw [h]
  unfold Slot.putP
  split <;> rfl

theorem Slot.view_putV (t : Slot) (d : BitVec 5) (v : Vec) :
    (t.putV d v).view = { t.view with v := upd t.view.v d v } := by
  unfold Slot.view Slot.putV
  simp only [RegFile.read_write_upd]
  rfl

theorem Slot.view_putE (t : Slot) (d : BitVec 3) (v : W32) :
    (t.putE d v).view = { t.view with e := upd t.view.e d v } := by
  unfold Slot.view Slot.putE
  simp only [RegFile.read_write_upd]
  rfl

theorem Slot.view_putZ (t : Slot) (d : BitVec 3) (v : Stream) :
    (t.putZ d v).view = { t.view with z := upd t.view.z d v } := by
  unfold Slot.view Slot.putZ
  simp only [RegFile.read_write_upd]
  rfl

theorem Slot.view_orFlags (t : Slot) (fl : Flags) :
    (t.orFlags fl).view = { t.view with fsr := t.fsr ||| fl.setWidth 32 } := by
  unfold Slot.orFlags
  split
  · rename_i h; subst h; simp [Slot.view]
  · rfl

theorem retire_setX (s : State) (d : BitVec 5) (v : W64) (len : Nat) :
    Retired s ((s.setX d v).retire len) len { s.view with x := updX s.x d v } := by
  have h := retire_mod s (fun t => t.putX d v) len (Slot.onlyRegs_putX _ _ _)
  rw [Slot.view_putX] at h
  exact h

theorem retire_setP (s : State) (d : BitVec 3) (v : BitVec 16) (len : Nat) :
    Retired s ((s.setP d v).retire len) len { s.view with p := updP s.p d v } := by
  have h := retire_mod s (fun t => t.putP d v) len (Slot.onlyRegs_putP _ _ _)
  rw [Slot.view_putP] at h
  exact h

theorem retire_setV (s : State) (d : BitVec 5) (v : Vec) (len : Nat) :
    Retired s ((s.setV d v).retire len) len { s.view with v := upd s.v d v } := by
  have h := retire_mod s (fun t => t.putV d v) len (Slot.onlyRegs_putV _ _ _)
  rw [Slot.view_putV] at h
  exact h

theorem retire_setE (s : State) (d : BitVec 3) (v : W32) (len : Nat) :
    Retired s ((s.setE d v).retire len) len { s.view with e := upd s.e d v } := by
  have h := retire_mod s (fun t => t.putE d v) len (Slot.onlyRegs_putE _ _ _)
  rw [Slot.view_putE] at h
  exact h

/-! ### The guard (R83) -/

theorem guarded_on (s : State) (g : BitVec 4) (len : Nat) (f : State → State) (h : s.runs g = true) :
    s.guarded g len f = .next ((f s).retire len) := by simp [State.guarded, h]

theorem guarded_off (s : State) (g : BitVec 4) (len : Nat) (f : State → State) (h : s.runs g = false) :
    s.guarded g len f = .next (s.retire len) := by simp [State.guarded, h]

theorem attempt_on (s : State) (g : BitVec 4) (len : Nat) (f : Res State) (h : s.runs g = true) :
    s.attempt g len f = s.finish f := by simp [State.attempt, h]

theorem attempt_off (s : State) (g : BitVec 4) (len : Nat) (f : Res State) (h : s.runs g = false) :
    s.attempt g len f = .next (s.retire len) := by simp [State.attempt, h]

@[simp] theorem finish_ok (s t : State) : s.finish (.ok t) = .next t := rfl
@[simp] theorem finish_error (s : State) (e : Stop) : s.finish (.error e) = .next (s.stop e) := rfl

/-- An instruction that checks answers a next state, always. -/
theorem finish_next (s : State) (r : Res State) : ∃ t, s.finish r = .next t := ⟨_, rfl⟩

theorem attempt_next (s : State) (g : BitVec 4) (len : Nat) (f : Res State) : ∃ t, s.attempt g len f = .next t := by
  unfold State.attempt
  split
  · exact finish_next _ _
  · exact ⟨_, rfl⟩

/-! ### Floating-point ends (R109, R150) -/

/-- No raised flag is enabled: the flags go to FSR, `f` writes the result, the instruction retires. -/
theorem fpEnd_ok (s : State) (fl : Flags) (f : State → State) (h : s.fpTraps fl = false) :
    s.fpEnd fl f = .ok ((f (s.orFlags fl)).retire 4) := by simp [State.fpEnd, h]

/-- An enabled flag was raised: the instruction traps. -/
theorem fpEnd_trap (s : State) (fl : Flags) (f : State → State) (h : s.fpTraps fl = true) :
    s.fpEnd fl f = .error (.fp fl) := by simp [State.fpEnd, h]

/-! ### Changes of registers alone -/

/-- `t` differs from `s` in registers of the issuing slot alone. -/
structure Near (s t : State) : Prop where
  only : Slot.OnlyRegs s.slot t.slot
  slots : ∀ k, k ≠ s.cur → t.slotAt k = s.slotAt k
  rest : t = { s with slots := t.slots }

theorem near_refl (s : State) : Near s s := ⟨rfl, fun _ _ => rfl, rfl⟩

theorem near_mod (s : State) (f : Slot → Slot) (h : Slot.OnlyRegs s.slot (f s.slot)) : Near s (s.mod f) where
  only := by rw [State.slot_mod]; exact h
  slots := fun k hk => State.slotAt_mod_ne _ _ _ hk
  rest := rfl

theorem Near.cur {s t : State} (h : Near s t) : t.cur = s.cur := by rw [h.rest]
theorem Near.pc {s t : State} (h : Near s t) : t.pc = s.pc := h.only.pc
theorem Near.deny {s t : State} (h : Near s t) : t.slot.deny = s.slot.deny := by
  rw [show t.slot = _ from h.only]

theorem Near.core {s t : State} (h : Near s t) : t.core = s.core := by rw [h.rest]; rfl
theorem Near.coreAt {s t : State} (h : Near s t) (c : Nat) : t.coreAt c = s.coreAt c := by rw [h.rest]; rfl
theorem Near.mem {s t : State} (h : Near s t) : t.mem = s.mem := by rw [h.rest]

theorem Near.trans {s t u : State} (h : Near s t) (k : Near t u) : Near s u where
  only := h.only.trans k.only
  slots := fun j hj => by rw [k.slots j (by rw [h.cur]; exact hj), h.slots j hj]
  rest := by
    have a := k.rest
    have b := h.rest
    rw [b] at a
    exact a

/-- Retiring after a change of registers. -/
theorem Near.retire {s t : State} (h : Near s t) (len : Nat) : Retired s (t.retire len) len t.view := by
  have a := retire_spec t len
  unfold Retired at a ⊢
  rw [h.pc] at a
  exact {
    regs := a.regs
    pc := a.pc
    ended := a.ended
    slot := by
      have h2 := a.slot
      have h1 := h.only
      unfold Slot.OnlyRegs at h1 h2 ⊢
      rw [h1] at h2
      exact h2
    slots := fun k hk => by rw [a.slots k (by rw [h.cur]; exact hk), h.slots k hk]
    core := by
      have h2 := a.core
      rw [h.core, h.coreAt] at h2
      exact h2
    cores := fun c hc => by rw [a.cores c (by rw [h.core]; exact hc), h.coreAt]
    mem := fun x => by rw [a.mem x, h.mem]
    rest := by
      have h2 := a.rest
      generalize t.retire len = u at h2
      rw [h.rest] at h2
      exact h2 }

theorem Near.view_mod {s t : State} (_ : Near s t) (f : Slot → Slot) : (t.mod f).view = (f t.slot).view := by
  unfold State.view; rw [State.slot_mod]

theorem Near.mod {s t : State} (h : Near s t) (f : Slot → Slot) (k : Slot.OnlyRegs t.slot (f t.slot)) : Near s (t.mod f) :=
  h.trans (near_mod t f k)

/-- A floating-point end that writes a register. -/
theorem orFlags_setX (s : State) (fl : Flags) (d : BitVec 5) (v : W64) (len : Nat) :
    Retired s (((s.orFlags fl).setX d v).retire len) len
      { s.view with x := updX s.x d v, fsr := s.slot.fsr ||| fl.setWidth 32 } := by
  have n := (near_mod s (fun t => t.orFlags fl) (Slot.onlyRegs_orFlags _ _)).mod
    (fun t => t.putX d v) (Slot.onlyRegs_putX _ _ _)
  have r := n.retire len
  have e : ((s.mod fun t => t.orFlags fl).mod fun t => t.putX d v).view =
      { s.view with x := updX s.x d v, fsr := s.slot.fsr ||| fl.setWidth 32 } := by
    unfold State.view
    rw [State.slot_mod, State.slot_mod, Slot.view_putX,
      show (s.slot.orFlags fl).getX = s.x from congrArg Regs.x (Slot.view_orFlags _ _), Slot.view_orFlags]
  rw [e] at r
  exact r
theorem orFlags_setP (s : State) (fl : Flags) (d : BitVec 3) (v : BitVec 16) (len : Nat) :
    Retired s (((s.orFlags fl).setP d v).retire len) len
      { s.view with p := updP s.p d v, fsr := s.slot.fsr ||| fl.setWidth 32 } := by
  have n := (near_mod s (fun t => t.orFlags fl) (Slot.onlyRegs_orFlags _ _)).mod
    (fun t => t.putP d v) (Slot.onlyRegs_putP _ _ _)
  have r := n.retire len
  have e : ((s.mod fun t => t.orFlags fl).mod fun t => t.putP d v).view =
      { s.view with p := updP s.p d v, fsr := s.slot.fsr ||| fl.setWidth 32 } := by
    unfold State.view
    rw [State.slot_mod, State.slot_mod, Slot.view_putP,
      show (s.slot.orFlags fl).getP = s.p from congrArg Regs.p (Slot.view_orFlags _ _), Slot.view_orFlags]
  rw [e] at r
  exact r

end Sys2Proof.Machine
end

