-- ==== Sys2Proof/Laws/PerInstr.lean ====
section
/-! SUPPORT. Of every instruction: it has no word exactly if it is an event, one word, or two of which the first begins a
long form (R79). -/

namespace Sys2Proof.Laws.EncodeForm

/-- An event has no word; an instruction has one, or two for a long form. -/
def Statement (i : Instr) : Prop := (encode i).isEmpty = i.isEvent ∧ (encode i).length ≤ 2

theorem add (d a b : BitVec 5) (w : BitVec 2) (n : BitVec 1) (g : BitVec 4) : Statement (.add d a b w n g) :=
  ⟨rfl, Nat.le_of_ble_eq_true rfl⟩
theorem sub (d a b : BitVec 5) (w : BitVec 2) (n : BitVec 1) (g : BitVec 4) : Statement (.sub d a b w n g) :=
  ⟨rfl, Nat.le_of_ble_eq_true rfl⟩
theorem and (d a b : BitVec 5) (w : BitVec 2) (n : BitVec 1) (g : BitVec 4) : Statement (.and d a b w n g) :=
  ⟨rfl, Nat.le_of_ble_eq_true rfl⟩
theorem or (d a b : BitVec 5) (w : BitVec 2) (n : BitVec 1) (g : BitVec 4) : Statement (.or d a b w n g) :=
  ⟨rfl, Nat.le_of_ble_eq_true rfl⟩
theorem xor (d a b : BitVec 5) (w : BitVec 2) (n : BitVec 1) (g : BitVec 4) : Statement (.xor d a b w n g) :=
  ⟨rfl, Nat.le_of_ble_eq_true rfl⟩
theorem andn (d a b : BitVec 5) (w : BitVec 2) (n : BitVec 1) (g : BitVec 4) : Statement (.andn d a b w n g) :=
  ⟨rfl, Nat.le_of_ble_eq_true rfl⟩
theorem shl (d a b : BitVec 5) (w : BitVec 2) (n : BitVec 1) (g : BitVec 4) : Statement (.shl d a b w n g) :=
  ⟨rfl, Nat.le_of_ble_eq_true rfl⟩
theorem shr (d a b : BitVec 5) (w : BitVec 2) (n : BitVec 1) (g : BitVec 4) : Statement (.shr d a b w n g) :=
  ⟨rfl, Nat.le_of_ble_eq_true rfl⟩
theorem sra (d a b : BitVec 5) (w : BitVec 2) (n : BitVec 1) (g : BitVec 4) : Statement (.sra d a b w n g) :=
  ⟨rfl, Nat.le_of_ble_eq_true rfl⟩
theorem rol (d a b : BitVec 5) (w : BitVec 2) (n : BitVec 1) (g : BitVec 4) : Statement (.rol d a b w n g) :=
  ⟨rfl, Nat.le_of_ble_eq_true rfl⟩
theorem min (d a b : BitVec 5) (w : BitVec 2) (n : BitVec 1) (g : BitVec 4) : Statement (.min d a b w n g) :=
  ⟨rfl, Nat.le_of_ble_eq_true rfl⟩
theorem max (d a b : BitVec 5) (w : BitVec 2) (n : BitVec 1) (g : BitVec 4) : Statement (.max d a b w n g) :=
  ⟨rfl, Nat.le_of_ble_eq_true rfl⟩
theorem minn (d a b : BitVec 5) (w : BitVec 2) (n : BitVec 1) (g : BitVec 4) : Statement (.minn d a b w n g) :=
  ⟨rfl, Nat.le_of_ble_eq_true rfl⟩
theorem maxn (d a b : BitVec 5) (w : BitVec 2) (n : BitVec 1) (g : BitVec 4) : Statement (.maxn d a b w n g) :=
  ⟨rfl, Nat.le_of_ble_eq_true rfl⟩
theorem clz (d a : BitVec 5) (w : BitVec 2) (n : BitVec 1) (g : BitVec 4) : Statement (.clz d a w n g) :=
  ⟨rfl, Nat.le_of_ble_eq_true rfl⟩
theorem ctz (d a : BitVec 5) (w : BitVec 2) (n : BitVec 1) (g : BitVec 4) : Statement (.ctz d a w n g) :=
  ⟨rfl, Nat.le_of_ble_eq_true rfl⟩
theorem mul (d a b : BitVec 5) (w : BitVec 2) (n : BitVec 1) (g : BitVec 4) : Statement (.mul d a b w n g) :=
  ⟨rfl, Nat.le_of_ble_eq_true rfl⟩
theorem mulh (d a b : BitVec 5) (w : BitVec 2) (n : BitVec 1) (g : BitVec 4) : Statement (.mulh d a b w n g) :=
  ⟨rfl, Nat.le_of_ble_eq_true rfl⟩
theorem mulhn (d a b : BitVec 5) (w : BitVec 2) (n : BitVec 1) (g : BitVec 4) : Statement (.mulhn d a b w n g) :=
  ⟨rfl, Nat.le_of_ble_eq_true rfl⟩
theorem div (d a b : BitVec 5) (w : BitVec 2) (n : BitVec 1) (g : BitVec 4) : Statement (.div d a b w n g) :=
  ⟨rfl, Nat.le_of_ble_eq_true rfl⟩
theorem divn (d a b : BitVec 5) (w : BitVec 2) (n : BitVec 1) (g : BitVec 4) : Statement (.divn d a b w n g) :=
  ⟨rfl, Nat.le_of_ble_eq_true rfl⟩
theorem rem (d a b : BitVec 5) (w : BitVec 2) (n : BitVec 1) (g : BitVec 4) : Statement (.rem d a b w n g) :=
  ⟨rfl, Nat.le_of_ble_eq_true rfl⟩
theorem remn (d a b : BitVec 5) (w : BitVec 2) (n : BitVec 1) (g : BitVec 4) : Statement (.remn d a b w n g) :=
  ⟨rfl, Nat.le_of_ble_eq_true rfl⟩
theorem popc (d a : BitVec 5) (w : BitVec 2) (n : BitVec 1) (g : BitVec 4) : Statement (.popc d a w n g) :=
  ⟨rfl, Nat.le_of_ble_eq_true rfl⟩
theorem bswap (d a : BitVec 5) (w : BitVec 2) (n : BitVec 1) (g : BitVec 4) : Statement (.bswap d a w n g) :=
  ⟨rfl, Nat.le_of_ble_eq_true rfl⟩
theorem addi (d a : BitVec 5) (i : BitVec 12) (g : BitVec 4) : Statement (.addi d a i g) :=
  ⟨rfl, Nat.le_of_ble_eq_true rfl⟩
theorem andi (d a : BitVec 5) (i : BitVec 10) (g : BitVec 4) : Statement (.andi d a i g) :=
  ⟨rfl, Nat.le_of_ble_eq_true rfl⟩
theorem ori (d a : BitVec 5) (i : BitVec 10) (g : BitVec 4) : Statement (.ori d a i g) :=
  ⟨rfl, Nat.le_of_ble_eq_true rfl⟩
theorem xori (d a : BitVec 5) (i : BitVec 10) (g : BitVec 4) : Statement (.xori d a i g) :=
  ⟨rfl, Nat.le_of_ble_eq_true rfl⟩
theorem shli (d a : BitVec 5) (s : BitVec 6) (g : BitVec 4) : Statement (.shli d a s g) :=
  ⟨rfl, Nat.le_of_ble_eq_true rfl⟩
theorem shri (d a : BitVec 5) (s : BitVec 6) (g : BitVec 4) : Statement (.shri d a s g) :=
  ⟨rfl, Nat.le_of_ble_eq_true rfl⟩
theorem srai (d a : BitVec 5) (s : BitVec 6) (g : BitVec 4) : Statement (.srai d a s g) :=
  ⟨rfl, Nat.le_of_ble_eq_true rfl⟩
theorem extf (d a : BitVec 5) (w : BitVec 2) (n : BitVec 1) (p : BitVec 6) (g : BitVec 4) : Statement (.extf d a w n p g) :=
  ⟨rfl, Nat.le_of_ble_eq_true rfl⟩
theorem insf (d a : BitVec 5) (w : BitVec 2) (n : BitVec 1) (p : BitVec 6) (g : BitVec 4) : Statement (.insf d a w n p g) :=
  ⟨rfl, Nat.le_of_ble_eq_true rfl⟩
theorem sext (d a : BitVec 5) (w : BitVec 2) (g : BitVec 4) : Statement (.sext d a w g) :=
  ⟨rfl, Nat.le_of_ble_eq_true rfl⟩
theorem zext (d a : BitVec 5) (w : BitVec 2) (g : BitVec 4) : Statement (.zext d a w g) :=
  ⟨rfl, Nat.le_of_ble_eq_true rfl⟩
theorem liu (d : BitVec 5) (i : BitVec 17) (g : BitVec 4) : Statement (.liu d i g) :=
  ⟨rfl, Nat.le_of_ble_eq_true rfl⟩
theorem cmp (p : BitVec 3) (a b : BitVec 5) (w : BitVec 2) (n : BitVec 1) (c : BitVec 3) (g : BitVec 4) : Statement (.cmp p a b w n c g) :=
  ⟨rfl, Nat.le_of_ble_eq_true rfl⟩
theorem cmpi (n : BitVec 1) (p : BitVec 3) (a : BitVec 5) (c : BitVec 3) (i : BitVec 9) (g : BitVec 4) : Statement (.cmpi n p a c i g) :=
  ⟨rfl, Nat.le_of_ble_eq_true rfl⟩
theorem pand (d a b : BitVec 3) (g : BitVec 4) : Statement (.pand d a b g) :=
  ⟨rfl, Nat.le_of_ble_eq_true rfl⟩
theorem por (d a b : BitVec 3) (g : BitVec 4) : Statement (.por d a b g) :=
  ⟨rfl, Nat.le_of_ble_eq_true rfl⟩
theorem pxor (d a b : BitVec 3) (g : BitVec 4) : Statement (.pxor d a b g) :=
  ⟨rfl, Nat.le_of_ble_eq_true rfl⟩
theorem pnot (d a : BitVec 3) (g : BitVec 4) : Statement (.pnot d a g) :=
  ⟨rfl, Nat.le_of_ble_eq_true rfl⟩
theorem sel (d a b : BitVec 5) (s : BitVec 3) (g : BitVec 4) : Statement (.sel d a b s g) :=
  ⟨rfl, Nat.le_of_ble_eq_true rfl⟩
theorem pmovx (d : BitVec 5) (a : BitVec 3) (g : BitVec 4) : Statement (.pmovx d a g) :=
  ⟨rfl, Nat.le_of_ble_eq_true rfl⟩
theorem xmovp (d : BitVec 3) (a : BitVec 5) (g : BitVec 4) : Statement (.xmovp d a g) :=
  ⟨rfl, Nat.le_of_ble_eq_true rfl⟩
theorem fadd (d a b : BitVec 5) (t : BitVec 3) (g : BitVec 4) : Statement (.fadd d a b t g) :=
  ⟨rfl, Nat.le_of_ble_eq_true rfl⟩
theorem fsub (d a b : BitVec 5) (t : BitVec 3) (g : BitVec 4) : Statement (.fsub d a b t g) :=
  ⟨rfl, Nat.le_of_ble_eq_true rfl⟩
theorem fmul (d a b : BitVec 5) (t : BitVec 3) (g : BitVec 4) : Statement (.fmul d a b t g) :=
  ⟨rfl, Nat.le_of_ble_eq_true rfl⟩
theorem ffma (d a b : BitVec 5) (t : BitVec 3) (g : BitVec 4) : Statement (.ffma d a b t g) :=
  ⟨rfl, Nat.le_of_ble_eq_true rfl⟩
theorem fdiv (d a b : BitVec 5) (t : BitVec 3) (g : BitVec 4) : Statement (.fdiv d a b t g) :=
  ⟨rfl, Nat.le_of_ble_eq_true rfl⟩
theorem fsqrt (d a : BitVec 5) (t : BitVec 3) (g : BitVec 4) : Statement (.fsqrt d a t g) :=
  ⟨rfl, Nat.le_of_ble_eq_true rfl⟩
theorem fmin (d a b : BitVec 5) (t : BitVec 3) (g : BitVec 4) : Statement (.fmin d a b t g) :=
  ⟨rfl, Nat.le_of_ble_eq_true rfl⟩
theorem fmax (d a b : BitVec 5) (t : BitVec 3) (g : BitVec 4) : Statement (.fmax d a b t g) :=
  ⟨rfl, Nat.le_of_ble_eq_true rfl⟩
theorem fcmp (t : BitVec 1) (p : BitVec 3) (a b : BitVec 5) (c : BitVec 3) (g : BitVec 4) : Statement (.fcmp t p a b c g) :=
  ⟨rfl, Nat.le_of_ble_eq_true rfl⟩
theorem fcvt (d a : BitVec 5) (s t : BitVec 3) (g : BitVec 4) : Statement (.fcvt d a s t g) :=
  ⟨rfl, Nat.le_of_ble_eq_true rfl⟩
theorem br (o : BitVec 22) (g : BitVec 4) : Statement (.br o g) :=
  ⟨rfl, Nat.le_of_ble_eq_true rfl⟩
theorem call (o : BitVec 22) (g : BitVec 4) : Statement (.call o g) :=
  ⟨rfl, Nat.le_of_ble_eq_true rfl⟩
theorem jr (a : BitVec 5) (g : BitVec 4) : Statement (.jr a g) :=
  ⟨rfl, Nat.le_of_ble_eq_true rfl⟩
theorem addpc (d : BitVec 5) (i : BitVec 17) (g : BitVec 4) : Statement (.addpc d i g) :=
  ⟨rfl, Nat.le_of_ble_eq_true rfl⟩
theorem liw (d : BitVec 5) (g : BitVec 4) (imm : BitVec 32) : Statement (.liw d g imm) :=
  ⟨rfl, Nat.le_of_ble_eq_true rfl⟩
theorem calll (g : BitVec 4) (imm : BitVec 32) : Statement (.calll g imm) :=
  ⟨rfl, Nat.le_of_ble_eq_true rfl⟩
theorem ld (d a : BitVec 5) (i : BitVec 10) (s : BitVec 2) (g : BitVec 4) : Statement (.ld d a i s g) :=
  ⟨rfl, Nat.le_of_ble_eq_true rfl⟩
theorem ldn (d a : BitVec 5) (i : BitVec 10) (s : BitVec 2) (g : BitVec 4) : Statement (.ldn d a i s g) :=
  ⟨rfl, Nat.le_of_ble_eq_true rfl⟩
theorem st (d a : BitVec 5) (i : BitVec 10) (s : BitVec 2) (g : BitVec 4) : Statement (.st d a i s g) :=
  ⟨rfl, Nat.le_of_ble_eq_true rfl⟩
theorem ldLong (d a : BitVec 5) (w : BitVec 2) (g : BitVec 4) (sc ord : BitVec 3) (h : BitVec 2) (off : BitVec 24) : Statement (.ldLong d a w g sc ord h off) :=
  ⟨rfl, Nat.le_of_ble_eq_true rfl⟩
theorem ldnLong (d a : BitVec 5) (w : BitVec 2) (g : BitVec 4) (sc ord : BitVec 3) (h : BitVec 2) (off : BitVec 24) : Statement (.ldnLong d a w g sc ord h off) :=
  ⟨rfl, Nat.le_of_ble_eq_true rfl⟩
theorem stLong (d a : BitVec 5) (w : BitVec 2) (g : BitVec 4) (sc ord : BitVec 3) (h : BitVec 2) (off : BitVec 24) : Statement (.stLong d a w g sc ord h off) :=
  ⟨rfl, Nat.le_of_ble_eq_true rfl⟩
theorem ldv (d a : BitVec 5) (i : BitVec 10) (g : BitVec 4) : Statement (.ldv d a i g) :=
  ⟨rfl, Nat.le_of_ble_eq_true rfl⟩
theorem stv (d a : BitVec 5) (i : BitVec 10) (g : BitVec 4) : Statement (.stv d a i g) :=
  ⟨rfl, Nat.le_of_ble_eq_true rfl⟩
theorem ldvLong (d a : BitVec 5) (g : BitVec 4) (sc ord : BitVec 3) (h : BitVec 2) (off : BitVec 24) : Statement (.ldvLong d a g sc ord h off) :=
  ⟨rfl, Nat.le_of_ble_eq_true rfl⟩
theorem stvLong (d a : BitVec 5) (g : BitVec 4) (sc ord : BitVec 3) (h : BitVec 2) (off : BitVec 24) : Statement (.stvLong d a g sc ord h off) :=
  ⟨rfl, Nat.le_of_ble_eq_true rfl⟩
theorem ldvs (d a b : BitVec 5) (w : BitVec 1) (g : BitVec 4) : Statement (.ldvs d a b w g) :=
  ⟨rfl, Nat.le_of_ble_eq_true rfl⟩
theorem stvs (d a b : BitVec 5) (w : BitVec 1) (g : BitVec 4) : Statement (.stvs d a b w g) :=
  ⟨rfl, Nat.le_of_ble_eq_true rfl⟩
theorem vgather (d a b : BitVec 5) (w : BitVec 1) (s : BitVec 2) (g : BitVec 4) : Statement (.vgather d a b w s g) :=
  ⟨rfl, Nat.le_of_ble_eq_true rfl⟩
theorem vscatter (d a b : BitVec 5) (w : BitVec 1) (s : BitVec 2) (g : BitVec 4) : Statement (.vscatter d a b w s g) :=
  ⟨rfl, Nat.le_of_ble_eq_true rfl⟩
theorem ldvsLong (d a : BitVec 5) (w : BitVec 1) (g : BitVec 4) (sc ord : BitVec 3) (h : BitVec 2) (b : BitVec 5) : Statement (.ldvsLong d a w g sc ord h b) :=
  ⟨rfl, Nat.le_of_ble_eq_true rfl⟩
theorem stvsLong (d a : BitVec 5) (w : BitVec 1) (g : BitVec 4) (sc ord : BitVec 3) (h : BitVec 2) (b : BitVec 5) : Statement (.stvsLong d a w g sc ord h b) :=
  ⟨rfl, Nat.le_of_ble_eq_true rfl⟩
theorem vgatherLong (d a : BitVec 5) (w : BitVec 1) (s : BitVec 2) (g : BitVec 4) (sc ord : BitVec 3) (h : BitVec 2) (b : BitVec 5) : Statement (.vgatherLong d a w s g sc ord h b) :=
  ⟨rfl, Nat.le_of_ble_eq_true rfl⟩
theorem vscatterLong (d a : BitVec 5) (w : BitVec 1) (s : BitVec 2) (g : BitVec 4) (sc ord : BitVec 3) (h : BitVec 2) (b : BitVec 5) : Statement (.vscatterLong d a w s g sc ord h b) :=
  ⟨rfl, Nat.le_of_ble_eq_true rfl⟩
theorem pref (a : BitVec 5) (h : BitVec 2) (g : BitVec 4) : Statement (.pref a h g) :=
  ⟨rfl, Nat.le_of_ble_eq_true rfl⟩
theorem prefLong (a : BitVec 5) (g : BitVec 4) (h : BitVec 2) (off : BitVec 24) : Statement (.prefLong a g h off) :=
  ⟨rfl, Nat.le_of_ble_eq_true rfl⟩
theorem cflush (a b : BitVec 5) (s : BitVec 3) (g : BitVec 4) : Statement (.cflush a b s g) :=
  ⟨rfl, Nat.le_of_ble_eq_true rfl⟩
theorem cinv (a b : BitVec 5) (s : BitVec 3) (g : BitVec 4) : Statement (.cinv a b s g) :=
  ⟨rfl, Nat.le_of_ble_eq_true rfl⟩
theorem aadd (d a b : BitVec 5) (o : BitVec 2) (s : BitVec 3) (g : BitVec 4) : Statement (.aadd d a b o s g) :=
  ⟨rfl, Nat.le_of_ble_eq_true rfl⟩
theorem aand (d a b : BitVec 5) (o : BitVec 2) (s : BitVec 3) (g : BitVec 4) : Statement (.aand d a b o s g) :=
  ⟨rfl, Nat.le_of_ble_eq_true rfl⟩
theorem aor (d a b : BitVec 5) (o : BitVec 2) (s : BitVec 3) (g : BitVec 4) : Statement (.aor d a b o s g) :=
  ⟨rfl, Nat.le_of_ble_eq_true rfl⟩
theorem axor (d a b : BitVec 5) (o : BitVec 2) (s : BitVec 3) (g : BitVec 4) : Statement (.axor d a b o s g) :=
  ⟨rfl, Nat.le_of_ble_eq_true rfl⟩
theorem amin (d a b : BitVec 5) (o : BitVec 2) (s : BitVec 3) (g : BitVec 4) : Statement (.amin d a b o s g) :=
  ⟨rfl, Nat.le_of_ble_eq_true rfl⟩
theorem amax (d a b : BitVec 5) (o : BitVec 2) (s : BitVec 3) (g : BitVec 4) : Statement (.amax d a b o s g) :=
  ⟨rfl, Nat.le_of_ble_eq_true rfl⟩
theorem aminn (d a b : BitVec 5) (o : BitVec 2) (s : BitVec 3) (g : BitVec 4) : Statement (.aminn d a b o s g) :=
  ⟨rfl, Nat.le_of_ble_eq_true rfl⟩
theorem amaxn (d a b : BitVec 5) (o : BitVec 2) (s : BitVec 3) (g : BitVec 4) : Statement (.amaxn d a b o s g) :=
  ⟨rfl, Nat.le_of_ble_eq_true rfl⟩
theorem aswap (d a b : BitVec 5) (o : BitVec 2) (s : BitVec 3) (g : BitVec 4) : Statement (.aswap d a b o s g) :=
  ⟨rfl, Nat.le_of_ble_eq_true rfl⟩
theorem acas (d a b : BitVec 5) (o : BitVec 2) (s : BitVec 3) (g : BitVec 4) : Statement (.acas d a b o s g) :=
  ⟨rfl, Nat.le_of_ble_eq_true rfl⟩
theorem aaddf (d a b : BitVec 5) (o : BitVec 2) (s : BitVec 3) (g : BitVec 4) : Statement (.aaddf d a b o s g) :=
  ⟨rfl, Nat.le_of_ble_eq_true rfl⟩
theorem afaddF64 (d a b : BitVec 5) (o : BitVec 2) (s : BitVec 3) (g : BitVec 4) : Statement (.afaddF64 d a b o s g) :=
  ⟨rfl, Nat.le_of_ble_eq_true rfl⟩
theorem afmaxF64 (d a b : BitVec 5) (o : BitVec 2) (s : BitVec 3) (g : BitVec 4) : Statement (.afmaxF64 d a b o s g) :=
  ⟨rfl, Nat.le_of_ble_eq_true rfl⟩
theorem afaddF32 (d a b : BitVec 5) (o : BitVec 2) (s : BitVec 3) (g : BitVec 4) : Statement (.afaddF32 d a b o s g) :=
  ⟨rfl, Nat.le_of_ble_eq_true rfl⟩
theorem afmaxF32 (d a b : BitVec 5) (o : BitVec 2) (s : BitVec 3) (g : BitVec 4) : Statement (.afmaxF32 d a b o s g) :=
  ⟨rfl, Nat.le_of_ble_eq_true rfl⟩
theorem wread (d a b : BitVec 5) (g : BitVec 4) : Statement (.wread d a b g) :=
  ⟨rfl, Nat.le_of_ble_eq_true rfl⟩
theorem wadd (d a b : BitVec 5) (g : BitVec 4) : Statement (.wadd d a b g) :=
  ⟨rfl, Nat.le_of_ble_eq_true rfl⟩
theorem wset (d a b : BitVec 5) (g : BitVec 4) : Statement (.wset d a b g) :=
  ⟨rfl, Nat.le_of_ble_eq_true rfl⟩
theorem wmax (d a b : BitVec 5) (g : BitVec 4) : Statement (.wmax d a b g) :=
  ⟨rfl, Nat.le_of_ble_eq_true rfl⟩
theorem wlap (d a : BitVec 5) (g : BitVec 4) : Statement (.wlap d a g) :=
  ⟨rfl, Nat.le_of_ble_eq_true rfl⟩
theorem vadd (d a b : BitVec 5) (t : BitVec 1) (g : BitVec 4) : Statement (.vadd d a b t g) :=
  ⟨rfl, Nat.le_of_ble_eq_true rfl⟩
theorem vsub (d a b : BitVec 5) (t : BitVec 1) (g : BitVec 4) : Statement (.vsub d a b t g) :=
  ⟨rfl, Nat.le_of_ble_eq_true rfl⟩
theorem vmul (d a b : BitVec 5) (t : BitVec 1) (g : BitVec 4) : Statement (.vmul d a b t g) :=
  ⟨rfl, Nat.le_of_ble_eq_true rfl⟩
theorem vmin (d a b : BitVec 5) (t : BitVec 1) (g : BitVec 4) : Statement (.vmin d a b t g) :=
  ⟨rfl, Nat.le_of_ble_eq_true rfl⟩
theorem vmax (d a b : BitVec 5) (t : BitVec 1) (g : BitVec 4) : Statement (.vmax d a b t g) :=
  ⟨rfl, Nat.le_of_ble_eq_true rfl⟩
theorem vdiv (d a b : BitVec 5) (t : BitVec 1) (g : BitVec 4) : Statement (.vdiv d a b t g) :=
  ⟨rfl, Nat.le_of_ble_eq_true rfl⟩
theorem vfma (d a b : BitVec 5) (t : BitVec 1) (g : BitVec 4) : Statement (.vfma d a b t g) :=
  ⟨rfl, Nat.le_of_ble_eq_true rfl⟩
theorem vfms (d a b : BitVec 5) (t : BitVec 1) (g : BitVec 4) : Statement (.vfms d a b t g) :=
  ⟨rfl, Nat.le_of_ble_eq_true rfl⟩
theorem vfnma (d a b : BitVec 5) (t : BitVec 1) (g : BitVec 4) : Statement (.vfnma d a b t g) :=
  ⟨rfl, Nat.le_of_ble_eq_true rfl⟩
theorem vabs (d a : BitVec 5) (t : BitVec 1) (g : BitVec 4) : Statement (.vabs d a t g) :=
  ⟨rfl, Nat.le_of_ble_eq_true rfl⟩
theorem vneg (d a : BitVec 5) (t : BitVec 1) (g : BitVec 4) : Statement (.vneg d a t g) :=
  ⟨rfl, Nat.le_of_ble_eq_true rfl⟩
theorem vsqrt (d a : BitVec 5) (t : BitVec 1) (g : BitVec 4) : Statement (.vsqrt d a t g) :=
  ⟨rfl, Nat.le_of_ble_eq_true rfl⟩
theorem vrcp (d a : BitVec 5) (g : BitVec 4) : Statement (.vrcp d a g) :=
  ⟨rfl, Nat.le_of_ble_eq_true rfl⟩
theorem vrsqrt (d a : BitVec 5) (g : BitVec 4) : Statement (.vrsqrt d a g) :=
  ⟨rfl, Nat.le_of_ble_eq_true rfl⟩
theorem vexp2 (d a : BitVec 5) (g : BitVec 4) : Statement (.vexp2 d a g) :=
  ⟨rfl, Nat.le_of_ble_eq_true rfl⟩
theorem vlog2 (d a : BitVec 5) (g : BitVec 4) : Statement (.vlog2 d a g) :=
  ⟨rfl, Nat.le_of_ble_eq_true rfl⟩
theorem vsin (d a : BitVec 5) (g : BitVec 4) : Statement (.vsin d a g) :=
  ⟨rfl, Nat.le_of_ble_eq_true rfl⟩
theorem vcos (d a : BitVec 5) (g : BitVec 4) : Statement (.vcos d a g) :=
  ⟨rfl, Nat.le_of_ble_eq_true rfl⟩
theorem viadd (d a b : BitVec 5) (w : BitVec 1) (g : BitVec 4) : Statement (.viadd d a b w g) :=
  ⟨rfl, Nat.le_of_ble_eq_true rfl⟩
theorem visub (d a b : BitVec 5) (w : BitVec 1) (g : BitVec 4) : Statement (.visub d a b w g) :=
  ⟨rfl, Nat.le_of_ble_eq_true rfl⟩
theorem vimul (d a b : BitVec 5) (w : BitVec 1) (g : BitVec 4) : Statement (.vimul d a b w g) :=
  ⟨rfl, Nat.le_of_ble_eq_true rfl⟩
theorem vimin (d a b : BitVec 5) (w n : BitVec 1) (g : BitVec 4) : Statement (.vimin d a b w n g) :=
  ⟨rfl, Nat.le_of_ble_eq_true rfl⟩
theorem vimax (d a b : BitVec 5) (w n : BitVec 1) (g : BitVec 4) : Statement (.vimax d a b w n g) :=
  ⟨rfl, Nat.le_of_ble_eq_true rfl⟩
theorem vand (d a b : BitVec 5) (w : BitVec 1) (g : BitVec 4) : Statement (.vand d a b w g) :=
  ⟨rfl, Nat.le_of_ble_eq_true rfl⟩
theorem vor (d a b : BitVec 5) (w : BitVec 1) (g : BitVec 4) : Statement (.vor d a b w g) :=
  ⟨rfl, Nat.le_of_ble_eq_true rfl⟩
theorem vxor (d a b : BitVec 5) (w : BitVec 1) (g : BitVec 4) : Statement (.vxor d a b w g) :=
  ⟨rfl, Nat.le_of_ble_eq_true rfl⟩
theorem vshl (d a b : BitVec 5) (w : BitVec 1) (g : BitVec 4) : Statement (.vshl d a b w g) :=
  ⟨rfl, Nat.le_of_ble_eq_true rfl⟩
theorem vshr (d a b : BitVec 5) (w : BitVec 1) (g : BitVec 4) : Statement (.vshr d a b w g) :=
  ⟨rfl, Nat.le_of_ble_eq_true rfl⟩
theorem vsra (d a b : BitVec 5) (w : BitVec 1) (g : BitVec 4) : Statement (.vsra d a b w g) :=
  ⟨rfl, Nat.le_of_ble_eq_true rfl⟩
theorem vcmp (p : BitVec 3) (a b : BitVec 5) (t : BitVec 1) (c : BitVec 3) (g : BitVec 4) : Statement (.vcmp p a b t c g) :=
  ⟨rfl, Nat.le_of_ble_eq_true rfl⟩
theorem vicmp (n : BitVec 1) (p : BitVec 3) (a b : BitVec 5) (w : BitVec 1) (c : BitVec 3) (g : BitVec 4) : Statement (.vicmp n p a b w c g) :=
  ⟨rfl, Nat.le_of_ble_eq_true rfl⟩
theorem vsel (d a b : BitVec 5) (w : BitVec 1) (s : BitVec 3) (g : BitVec 4) : Statement (.vsel d a b w s g) :=
  ⟨rfl, Nat.le_of_ble_eq_true rfl⟩
theorem vcvt (d a c : BitVec 5) (r : BitVec 3) (s : BitVec 1) (g : BitVec 4) : Statement (.vcvt d a c r s g) :=
  ⟨rfl, Nat.le_of_ble_eq_true rfl⟩
theorem vqdec (d a b : BitVec 5) (k : BitVec 3) (g : BitVec 4) : Statement (.vqdec d a b k g) :=
  ⟨rfl, Nat.le_of_ble_eq_true rfl⟩
theorem vqenc (d a b : BitVec 5) (k : BitVec 3) (g : BitVec 4) : Statement (.vqenc d a b k g) :=
  ⟨rfl, Nat.le_of_ble_eq_true rfl⟩
theorem vpack (d a : BitVec 5) (w p : BitVec 2) (g : BitVec 4) : Statement (.vpack d a w p g) :=
  ⟨rfl, Nat.le_of_ble_eq_true rfl⟩
theorem vunpk (d a : BitVec 5) (w p : BitVec 2) (g : BitVec 4) : Statement (.vunpk d a w p g) :=
  ⟨rfl, Nat.le_of_ble_eq_true rfl⟩
theorem vbcast (d a : BitVec 5) (w : BitVec 1) (g : BitVec 4) : Statement (.vbcast d a w g) :=
  ⟨rfl, Nat.le_of_ble_eq_true rfl⟩
theorem vmovx (d a : BitVec 5) (l g : BitVec 4) : Statement (.vmovx d a l g) :=
  ⟨rfl, Nat.le_of_ble_eq_true rfl⟩
theorem vperm (d a b : BitVec 5) (g : BitVec 4) : Statement (.vperm d a b g) :=
  ⟨rfl, Nat.le_of_ble_eq_true rfl⟩
theorem vshuf (d a b : BitVec 5) (p : BitVec 3) (g : BitVec 4) : Statement (.vshuf d a b p g) :=
  ⟨rfl, Nat.le_of_ble_eq_true rfl⟩
theorem vred (d a : BitVec 5) (w k : BitVec 1) (o : BitVec 2) (g : BitVec 4) : Statement (.vred d a w k o g) :=
  ⟨rfl, Nat.le_of_ble_eq_true rfl⟩
theorem vscan (d a : BitVec 5) (w k : BitVec 1) (o : BitVec 2) (g : BitVec 4) : Statement (.vscan d a w k o g) :=
  ⟨rfl, Nat.le_of_ble_eq_true rfl⟩
theorem vtopk (d a b : BitVec 5) (k : BitVec 3) (g : BitVec 4) : Statement (.vtopk d a b k g) :=
  ⟨rfl, Nat.le_of_ble_eq_true rfl⟩
theorem vpairk (d a b : BitVec 5) (k : BitVec 3) (g : BitVec 4) : Statement (.vpairk d a b k g) :=
  ⟨rfl, Nat.le_of_ble_eq_true rfl⟩
theorem voptu (d a : BitVec 5) (g : BitVec 4) : Statement (.voptu d a g) :=
  ⟨rfl, Nat.le_of_ble_eq_true rfl⟩
theorem scfg (d : BitVec 3) (a : BitVec 5) (g : BitVec 4) : Statement (.scfg d a g) :=
  ⟨rfl, Nat.le_of_ble_eq_true rfl⟩
theorem sbind (d : BitVec 3) (b : BitVec 5) (g : BitVec 4) : Statement (.sbind d b g) :=
  ⟨rfl, Nat.le_of_ble_eq_true rfl⟩
theorem sstop (d : BitVec 3) (g : BitVec 4) : Statement (.sstop d g) :=
  ⟨rfl, Nat.le_of_ble_eq_true rfl⟩
theorem mlda (a b : BitVec 5) (g : BitVec 4) : Statement (.mlda a b g) :=
  ⟨rfl, Nat.le_of_ble_eq_true rfl⟩
theorem mldb (a b : BitVec 5) (g : BitVec 4) : Statement (.mldb a b g) :=
  ⟨rfl, Nat.le_of_ble_eq_true rfl⟩
theorem mzero (d : BitVec 3) (g : BitVec 4) : Statement (.mzero d g) :=
  ⟨rfl, Nat.le_of_ble_eq_true rfl⟩
theorem mst (d : BitVec 3) (a : BitVec 5) (g : BitVec 4) : Statement (.mst d a g) :=
  ⟨rfl, Nat.le_of_ble_eq_true rfl⟩
theorem mstW (d : BitVec 3) (a : BitVec 5) (g : BitVec 4) : Statement (.mstW d a g) :=
  ⟨rfl, Nat.le_of_ble_eq_true rfl⟩
theorem mmaE4e4 (d a b : BitVec 3) (g : BitVec 4) : Statement (.mmaE4e4 d a b g) :=
  ⟨rfl, Nat.le_of_ble_eq_true rfl⟩
theorem mmaE4e5 (d a b : BitVec 3) (g : BitVec 4) : Statement (.mmaE4e5 d a b g) :=
  ⟨rfl, Nat.le_of_ble_eq_true rfl⟩
theorem mmaE5e4 (d a b : BitVec 3) (g : BitVec 4) : Statement (.mmaE5e4 d a b g) :=
  ⟨rfl, Nat.le_of_ble_eq_true rfl⟩
theorem mmaE5e5 (d a b : BitVec 3) (g : BitVec 4) : Statement (.mmaE5e5 d a b g) :=
  ⟨rfl, Nat.le_of_ble_eq_true rfl⟩
theorem mmaQ4e4 (d a b : BitVec 3) (g : BitVec 4) : Statement (.mmaQ4e4 d a b g) :=
  ⟨rfl, Nat.le_of_ble_eq_true rfl⟩
theorem mmaBf (d : BitVec 3) (g : BitVec 4) : Statement (.mmaBf d g) :=
  ⟨rfl, Nat.le_of_ble_eq_true rfl⟩
theorem mmaHf (d : BitVec 3) (g : BitVec 4) : Statement (.mmaHf d g) :=
  ⟨rfl, Nat.le_of_ble_eq_true rfl⟩
theorem mmaF32 (d : BitVec 3) (g : BitVec 4) : Statement (.mmaF32 d g) :=
  ⟨rfl, Nat.le_of_ble_eq_true rfl⟩
theorem mmaF64 (d : BitVec 3) (g : BitVec 4) : Statement (.mmaF64 d g) :=
  ⟨rfl, Nat.le_of_ble_eq_true rfl⟩
theorem mmaI8 (d : BitVec 3) (g : BitVec 4) : Statement (.mmaI8 d g) :=
  ⟨rfl, Nat.le_of_ble_eq_true rfl⟩
theorem rmmaE4e4 (a b : BitVec 3) (g : BitVec 4) : Statement (.rmmaE4e4 a b g) :=
  ⟨rfl, Nat.le_of_ble_eq_true rfl⟩
theorem rmmaE4e5 (a b : BitVec 3) (g : BitVec 4) : Statement (.rmmaE4e5 a b g) :=
  ⟨rfl, Nat.le_of_ble_eq_true rfl⟩
theorem rmmaE5e4 (a b : BitVec 3) (g : BitVec 4) : Statement (.rmmaE5e4 a b g) :=
  ⟨rfl, Nat.le_of_ble_eq_true rfl⟩
theorem rmmaE5e5 (a b : BitVec 3) (g : BitVec 4) : Statement (.rmmaE5e5 a b g) :=
  ⟨rfl, Nat.le_of_ble_eq_true rfl⟩
theorem rmmaQ4e4 (a b : BitVec 3) (g : BitVec 4) : Statement (.rmmaQ4e4 a b g) :=
  ⟨rfl, Nat.le_of_ble_eq_true rfl⟩
theorem rmmaBf (g : BitVec 4) : Statement (.rmmaBf g) :=
  ⟨rfl, Nat.le_of_ble_eq_true rfl⟩
theorem rmmaHf (g : BitVec 4) : Statement (.rmmaHf g) :=
  ⟨rfl, Nat.le_of_ble_eq_true rfl⟩
theorem rmmaF32 (g : BitVec 4) : Statement (.rmmaF32 g) :=
  ⟨rfl, Nat.le_of_ble_eq_true rfl⟩
theorem rmmaI8 (g : BitVec 4) : Statement (.rmmaI8 g) :=
  ⟨rfl, Nat.le_of_ble_eq_true rfl⟩
theorem mgang (g : BitVec 4) : Statement (.mgang g) :=
  ⟨rfl, Nat.le_of_ble_eq_true rfl⟩
theorem mwait (g : BitVec 4) : Statement (.mwait g) :=
  ⟨rfl, Nat.le_of_ble_eq_true rfl⟩
theorem mrd (d : BitVec 5) (a : BitVec 3) (b : BitVec 5) (g : BitVec 4) : Statement (.mrd d a b g) :=
  ⟨rfl, Nat.le_of_ble_eq_true rfl⟩
theorem mwr (d : BitVec 3) (a b : BitVec 5) (g : BitVec 4) : Statement (.mwr d a b g) :=
  ⟨rfl, Nat.le_of_ble_eq_true rfl⟩
theorem mclaim (d : BitVec 3) (g : BitVec 4) : Statement (.mclaim d g) :=
  ⟨rfl, Nat.le_of_ble_eq_true rfl⟩
theorem mfree (d : BitVec 3) (g : BitVec 4) : Statement (.mfree d g) :=
  ⟨rfl, Nat.le_of_ble_eq_true rfl⟩
theorem eset (d : BitVec 3) (a : BitVec 5) (g : BitVec 4) : Statement (.eset d a g) :=
  ⟨rfl, Nat.le_of_ble_eq_true rfl⟩
theorem erd (d : BitVec 5) (a : BitVec 3) (g : BitVec 4) : Statement (.erd d a g) :=
  ⟨rfl, Nat.le_of_ble_eq_true rfl⟩
theorem qpush (d : BitVec 2) (a : BitVec 5) (g : BitVec 4) : Statement (.qpush d a g) :=
  ⟨rfl, Nat.le_of_ble_eq_true rfl⟩
theorem qpop (d : BitVec 5) (a : BitVec 2) (g : BitVec 4) : Statement (.qpop d a g) :=
  ⟨rfl, Nat.le_of_ble_eq_true rfl⟩
theorem qnpush (d : BitVec 5) (a : BitVec 2) (b : BitVec 5) (g : BitVec 4) : Statement (.qnpush d a b g) :=
  ⟨rfl, Nat.le_of_ble_eq_true rfl⟩
theorem qcnt (d : BitVec 5) (a : BitVec 2) (g : BitVec 4) : Statement (.qcnt d a g) :=
  ⟨rfl, Nat.le_of_ble_eq_true rfl⟩
theorem send (d a b : BitVec 5) (s : BitVec 3) (o : BitVec 1) (g : BitVec 4) : Statement (.send d a b s o g) :=
  ⟨rfl, Nat.le_of_ble_eq_true rfl⟩
theorem sendl (d a b : BitVec 5) (s : BitVec 3) (g : BitVec 4) : Statement (.sendl d a b s g) :=
  ⟨rfl, Nat.le_of_ble_eq_true rfl⟩
theorem hop (d a b : BitVec 5) (s : BitVec 3) (g : BitVec 4) : Statement (.hop d a b s g) :=
  ⟨rfl, Nat.le_of_ble_eq_true rfl⟩
theorem hopV (d a b : BitVec 5) (s : BitVec 3) (g : BitVec 4) : Statement (.hopV d a b s g) :=
  ⟨rfl, Nat.le_of_ble_eq_true rfl⟩
theorem spawn (a b : BitVec 5) (s : BitVec 3) (g : BitVec 4) : Statement (.spawn a b s g) :=
  ⟨rfl, Nat.le_of_ble_eq_true rfl⟩
theorem spawnn (d a b : BitVec 5) (s : BitVec 3) (g : BitVec 4) : Statement (.spawnn d a b s g) :=
  ⟨rfl, Nat.le_of_ble_eq_true rfl⟩
theorem commit (g : BitVec 4) : Statement (.commit g) :=
  ⟨rfl, Nat.le_of_ble_eq_true rfl⟩
theorem done (g : BitVec 4) : Statement (.done g) :=
  ⟨rfl, Nat.le_of_ble_eq_true rfl⟩
theorem yield (g : BitVec 4) : Statement (.yield g) :=
  ⟨rfl, Nat.le_of_ble_eq_true rfl⟩
theorem prio (c : BitVec 2) (g : BitVec 4) : Statement (.prio c g) :=
  ⟨rfl, Nat.le_of_ble_eq_true rfl⟩
theorem umask (g : BitVec 4) : Statement (.umask g) :=
  ⟨rfl, Nat.le_of_ble_eq_true rfl⟩
theorem unmask (g : BitVec 4) : Statement (.unmask g) :=
  ⟨rfl, Nat.le_of_ble_eq_true rfl⟩
theorem cntadd (a : BitVec 5) (g : BitVec 4) : Statement (.cntadd a g) :=
  ⟨rfl, Nat.le_of_ble_eq_true rfl⟩
theorem cancel (a : BitVec 5) (g : BitVec 4) : Statement (.cancel a g) :=
  ⟨rfl, Nat.le_of_ble_eq_true rfl⟩
theorem waitc (d a : BitVec 5) (g : BitVec 4) : Statement (.waitc d a g) :=
  ⟨rfl, Nat.le_of_ble_eq_true rfl⟩
theorem waitm (d a b : BitVec 5) (g : BitVec 4) : Statement (.waitm d a b g) :=
  ⟨rfl, Nat.le_of_ble_eq_true rfl⟩
theorem fence (s o : BitVec 3) (g : BitVec 4) : Statement (.fence s o g) :=
  ⟨rfl, Nat.le_of_ble_eq_true rfl⟩
theorem drain (p : BitVec 2) (g : BitVec 4) : Statement (.drain p g) :=
  ⟨rfl, Nat.le_of_ble_eq_true rfl⟩
theorem bar (a : BitVec 5) (g : BitVec 4) : Statement (.bar a g) :=
  ⟨rfl, Nat.le_of_ble_eq_true rfl⟩
theorem twalk (a : BitVec 5) (e : BitVec 1) (g : BitVec 4) : Statement (.twalk a e g) :=
  ⟨rfl, Nat.le_of_ble_eq_true rfl⟩
theorem twb (a : BitVec 5) (e : BitVec 1) (g : BitVec 4) : Statement (.twb a e g) :=
  ⟨rfl, Nat.le_of_ble_eq_true rfl⟩
theorem tdeal (a : BitVec 5) (e : BitVec 1) (g : BitVec 4) : Statement (.tdeal a e g) :=
  ⟨rfl, Nat.le_of_ble_eq_true rfl⟩
theorem permit (a : BitVec 5) (e : BitVec 1) (g : BitVec 4) : Statement (.permit a e g) :=
  ⟨rfl, Nat.le_of_ble_eq_true rfl⟩
theorem pklook (d a b : BitVec 5) (g : BitVec 4) : Statement (.pklook d a b g) :=
  ⟨rfl, Nat.le_of_ble_eq_true rfl⟩
theorem pkres (d a b : BitVec 5) (g : BitVec 4) : Statement (.pkres d a b g) :=
  ⟨rfl, Nat.le_of_ble_eq_true rfl⟩
theorem pkscore (d a b : BitVec 5) (g : BitVec 4) : Statement (.pkscore d a b g) :=
  ⟨rfl, Nat.le_of_ble_eq_true rfl⟩
theorem pkgw (d a b : BitVec 5) (g : BitVec 4) : Statement (.pkgw d a b g) :=
  ⟨rfl, Nat.le_of_ble_eq_true rfl⟩
theorem srd (d n : BitVec 5) (m g : BitVec 4) : Statement (.srd d n m g) :=
  ⟨rfl, Nat.le_of_ble_eq_true rfl⟩
theorem swr (a n : BitVec 5) (m g : BitVec 4) : Statement (.swr a n m g) :=
  ⟨rfl, Nat.le_of_ble_eq_true rfl⟩
theorem trap (a : BitVec 5) (g : BitVec 4) : Statement (.trap a g) :=
  ⟨rfl, Nat.le_of_ble_eq_true rfl⟩
theorem eret (a b : BitVec 5) (g : BitVec 4) : Statement (.eret a b g) :=
  ⟨rfl, Nat.le_of_ble_eq_true rfl⟩
theorem tlbwWrite (d a b : BitVec 5) (g : BitVec 4) : Statement (.tlbwWrite d a b g) :=
  ⟨rfl, Nat.le_of_ble_eq_true rfl⟩
theorem tlbwAbsent (d a b : BitVec 5) (g : BitVec 4) : Statement (.tlbwAbsent d a b g) :=
  ⟨rfl, Nat.le_of_ble_eq_true rfl⟩
theorem tlbwDeny (d a b : BitVec 5) (g : BitVec 4) : Statement (.tlbwDeny d a b g) :=
  ⟨rfl, Nat.le_of_ble_eq_true rfl⟩
theorem tlbiPage (a : BitVec 5) (g : BitVec 4) : Statement (.tlbiPage a g) :=
  ⟨rfl, Nat.le_of_ble_eq_true rfl⟩
theorem tlbiAsid (a : BitVec 5) (g : BitVec 4) : Statement (.tlbiAsid a g) :=
  ⟨rfl, Nat.le_of_ble_eq_true rfl⟩
theorem tlbiAll (a : BitVec 5) (g : BitVec 4) : Statement (.tlbiAll a g) :=
  ⟨rfl, Nat.le_of_ble_eq_true rfl⟩
theorem tlbp (d a b : BitVec 5) (g : BitVec 4) : Statement (.tlbp d a b g) :=
  ⟨rfl, Nat.le_of_ble_eq_true rfl⟩
theorem idle (a : BitVec 5) (g : BitVec 4) : Statement (.idle a g) :=
  ⟨rfl, Nat.le_of_ble_eq_true rfl⟩
theorem wfm (d a : BitVec 5) (g : BitVec 4) : Statement (.wfm d a g) :=
  ⟨rfl, Nat.le_of_ble_eq_true rfl⟩
theorem haltcFence (a : BitVec 5) (g : BitVec 4) : Statement (.haltcFence a g) :=
  ⟨rfl, Nat.le_of_ble_eq_true rfl⟩
theorem haltcUnfence (a : BitVec 5) (g : BitVec 4) : Statement (.haltcUnfence a g) :=
  ⟨rfl, Nat.le_of_ble_eq_true rfl⟩
theorem selft (d a : BitVec 5) (g : BitVec 4) : Statement (.selft d a g) :=
  ⟨rfl, Nat.le_of_ble_eq_true rfl⟩
theorem mailboxDelivery (idx : Nat) : Statement (.mailboxDelivery idx) :=
  ⟨rfl, Nat.le_of_ble_eq_true rfl⟩
theorem sendFullRetry (sid : Nat) : Statement (.sendFullRetry sid) :=
  ⟨rfl, Nat.le_of_ble_eq_true rfl⟩
theorem agentImageRetry (idx : Nat) : Statement (.agentImageRetry idx) :=
  ⟨rfl, Nat.le_of_ble_eq_true rfl⟩
theorem imageAgePromotion (core : Nat) : Statement (.imageAgePromotion core) :=
  ⟨rfl, Nat.le_of_ble_eq_true rfl⟩
theorem imageBind (core : Nat) : Statement (.imageBind core) :=
  ⟨rfl, Nat.le_of_ble_eq_true rfl⟩
theorem urgentBind (core : Nat) : Statement (.urgentBind core) :=
  ⟨rfl, Nat.le_of_ble_eq_true rfl⟩
theorem handlerStart (sid : Nat) : Statement (.handlerStart sid) :=
  ⟨rfl, Nat.le_of_ble_eq_true rfl⟩
theorem issueSelect (core : Nat) : Statement (.issueSelect core) :=
  ⟨rfl, Nat.le_of_ble_eq_true rfl⟩
theorem urgentWindowClose (core : Nat) : Statement (.urgentWindowClose core) :=
  ⟨rfl, Nat.le_of_ble_eq_true rfl⟩
theorem yieldTimeout (sid : Nat) : Statement (.yieldTimeout sid) :=
  ⟨rfl, Nat.le_of_ble_eq_true rfl⟩
theorem stealProbe (core : Nat) : Statement (.stealProbe core) :=
  ⟨rfl, Nat.le_of_ble_eq_true rfl⟩
theorem stealGrant (core : Nat) : Statement (.stealGrant core) :=
  ⟨rfl, Nat.le_of_ble_eq_true rfl⟩
theorem stealBackoffExpiry (core : Nat) : Statement (.stealBackoffExpiry core) :=
  ⟨rfl, Nat.le_of_ble_eq_true rfl⟩
theorem parkTimeout (core : Nat) : Statement (.parkTimeout core) :=
  ⟨rfl, Nat.le_of_ble_eq_true rfl⟩
theorem wqRsv (fn q : Nat) : Statement (.wqRsv fn q) :=
  ⟨rfl, Nat.le_of_ble_eq_true rfl⟩
theorem wqSlotWrite (fn q off : Nat) (words : List W64) : Statement (.wqSlotWrite fn q off words) :=
  ⟨rfl, Nat.le_of_ble_eq_true rfl⟩
theorem wqReservationTimeout (q slot : Nat) : Statement (.wqReservationTimeout q slot) :=
  ⟨rfl, Nat.le_of_ble_eq_true rfl⟩
theorem rootAdmission (q : Nat) : Statement (.rootAdmission q) :=
  ⟨rfl, Nat.le_of_ble_eq_true rfl⟩
theorem rootAdmitRetry (q : Nat) : Statement (.rootAdmitRetry q) :=
  ⟨rfl, Nat.le_of_ble_eq_true rfl⟩
theorem cancelAnswer (sid : Nat) (perm : Bool) : Statement (.cancelAnswer sid perm) :=
  ⟨rfl, Nat.le_of_ble_eq_true rfl⟩
theorem cancelMarkArrival (core : Nat) (launch : W32) : Statement (.cancelMarkArrival core launch) :=
  ⟨rfl, Nat.le_of_ble_eq_true rfl⟩
theorem sliceEnd : Statement (.sliceEnd) :=
  ⟨rfl, Nat.le_of_ble_eq_true rfl⟩
theorem sliceStart : Statement (.sliceStart) :=
  ⟨rfl, Nat.le_of_ble_eq_true rfl⟩
theorem watchdog (sid : Nat) : Statement (.watchdog sid) :=
  ⟨rfl, Nat.le_of_ble_eq_true rfl⟩
theorem errorDetect (sid : Nat) (addr unit : W64) : Statement (.errorDetect sid addr unit) :=
  ⟨rfl, Nat.le_of_ble_eq_true rfl⟩
theorem completionDelivery (idx : Nat) : Statement (.completionDelivery idx) :=
  ⟨rfl, Nat.le_of_ble_eq_true rfl⟩
theorem waitmReread (sid : Nat) : Statement (.waitmReread sid) :=
  ⟨rfl, Nat.le_of_ble_eq_true rfl⟩
theorem remoteAnswer (rid status : Nat) (payload : List W64) (aux : W64) : Statement (.remoteAnswer rid status payload aux) :=
  ⟨rfl, Nat.le_of_ble_eq_true rfl⟩
theorem rnrResend (rid : Nat) : Statement (.rnrResend rid) :=
  ⟨rfl, Nat.le_of_ble_eq_true rfl⟩
theorem remoteAgentRequest (idx : Nat) : Statement (.remoteAgentRequest idx) :=
  ⟨rfl, Nat.le_of_ble_eq_true rfl⟩
theorem pkluAdmission (cl : Nat) : Statement (.pkluAdmission cl) :=
  ⟨rfl, Nat.le_of_ble_eq_true rfl⟩
theorem pkluSelectionDone (cl id : Nat) : Statement (.pkluSelectionDone cl id) :=
  ⟨rfl, Nat.le_of_ble_eq_true rfl⟩
theorem pkluFetchIssue (cl : Nat) : Statement (.pkluFetchIssue cl) :=
  ⟨rfl, Nat.le_of_ble_eq_true rfl⟩
theorem pkluRowArrival (cl fetch : Nat) (mcheck : Bool) : Statement (.pkluRowArrival cl fetch mcheck) :=
  ⟨rfl, Nat.le_of_ble_eq_true rfl⟩
theorem streamFetchArrival (sid : Nat) (z : BitVec 3) : Statement (.streamFetchArrival sid z) :=
  ⟨rfl, Nat.le_of_ble_eq_true rfl⟩
theorem matrixCommandExecute (core : Nat) : Statement (.matrixCommandExecute core) :=
  ⟨rfl, Nat.le_of_ble_eq_true rfl⟩
theorem rmmaRingStep (troupe : Nat) : Statement (.rmmaRingStep troupe) :=
  ⟨rfl, Nat.le_of_ble_eq_true rfl⟩
theorem engineCommandAccept (cl e : Nat) : Statement (.engineCommandAccept cl e) :=
  ⟨rfl, Nat.le_of_ble_eq_true rfl⟩
theorem permitMessage (cl e : Nat) : Statement (.permitMessage cl e) :=
  ⟨rfl, Nat.le_of_ble_eq_true rfl⟩
theorem engineTileWrite (cl e : Nat) : Statement (.engineTileWrite cl e) :=
  ⟨rfl, Nat.le_of_ble_eq_true rfl⟩
theorem lapBoundary (region slice : Nat) : Statement (.lapBoundary region slice) :=
  ⟨rfl, Nat.le_of_ble_eq_true rfl⟩
theorem sweepRowVisit (region slice : Nat) : Statement (.sweepRowVisit region slice) :=
  ⟨rfl, Nat.le_of_ble_eq_true rfl⟩
theorem whirligigRequestArrival (idx : Nat) : Statement (.whirligigRequestArrival idx) :=
  ⟨rfl, Nat.le_of_ble_eq_true rfl⟩
theorem whirligigRetag (idx : Nat) : Statement (.whirligigRetag idx) :=
  ⟨rfl, Nat.le_of_ble_eq_true rfl⟩
theorem readReply (idx : Nat) : Statement (.readReply idx) :=
  ⟨rfl, Nat.le_of_ble_eq_true rfl⟩
theorem updateAcknowledgement (idx : Nat) : Statement (.updateAcknowledgement idx) :=
  ⟨rfl, Nat.le_of_ble_eq_true rfl⟩
theorem createRegion (creator : W32) (desc : List W64) (target : W64) : Statement (.createRegion creator desc target) :=
  ⟨rfl, Nat.le_of_ble_eq_true rfl⟩
theorem destroyRegion (creator : W32) (base z target : W64) : Statement (.destroyRegion creator base z target) :=
  ⟨rfl, Nat.le_of_ble_eq_true rfl⟩
theorem chooseDestinationTsc (creator : W32) (sel target : W64) : Statement (.chooseDestinationTsc creator sel target) :=
  ⟨rfl, Nat.le_of_ble_eq_true rfl⟩
theorem gatewayOutgoing (idx : Nat) : Statement (.gatewayOutgoing idx) :=
  ⟨rfl, Nat.le_of_ble_eq_true rfl⟩
theorem portHoldTimeout (idx : Nat) : Statement (.portHoldTimeout idx) :=
  ⟨rfl, Nat.le_of_ble_eq_true rfl⟩
theorem gatewayArrival (die idx : Nat) : Statement (.gatewayArrival die idx) :=
  ⟨rfl, Nat.le_of_ble_eq_true rfl⟩
theorem dieLinkFailure (link : Nat) : Statement (.dieLinkFailure link) :=
  ⟨rfl, Nat.le_of_ble_eq_true rfl⟩
theorem flitTransmit (port : Nat) : Statement (.flitTransmit port) :=
  ⟨rfl, Nat.le_of_ble_eq_true rfl⟩
theorem flitReceive (port : Nat) (hdr : W64) (payload : List W64) (tagOk : Bool) : Statement (.flitReceive port hdr payload tagOk) :=
  ⟨rfl, Nat.le_of_ble_eq_true rfl⟩
theorem idleFlit (port : Nat) : Statement (.idleFlit port) :=
  ⟨rfl, Nat.le_of_ble_eq_true rfl⟩
theorem replayRetry (port : Nat) : Statement (.replayRetry port) :=
  ⟨rfl, Nat.le_of_ble_eq_true rfl⟩
theorem trainingComplete (port : Nat) (good : BitVec 8) (plane sw : Nat) (partner : BitVec 10) : Statement (.trainingComplete port good plane sw partner) :=
  ⟨rfl, Nat.le_of_ble_eq_true rfl⟩
theorem trainingTimeout (port : Nat) : Statement (.trainingTimeout port) :=
  ⟨rfl, Nat.le_of_ble_eq_true rfl⟩
theorem portRetry (port : Nat) : Statement (.portRetry port) :=
  ⟨rfl, Nat.le_of_ble_eq_true rfl⟩
theorem switch (port : Nat) : Statement (.switch port) :=
  ⟨rfl, Nat.le_of_ble_eq_true rfl⟩
theorem retrain (port : Nat) : Statement (.retrain port) :=
  ⟨rfl, Nat.le_of_ble_eq_true rfl⟩
theorem clrerr (port : Nat) : Statement (.clrerr port) :=
  ⟨rfl, Nat.le_of_ble_eq_true rfl⟩
theorem disable (port : Nat) (on : Bool) : Statement (.disable port on) :=
  ⟨rfl, Nat.le_of_ble_eq_true rfl⟩
theorem ksCtlReady (port slot : Nat) : Statement (.ksCtlReady port slot) :=
  ⟨rfl, Nat.le_of_ble_eq_true rfl⟩
theorem ksCtlEmpty (port slot : Nat) : Statement (.ksCtlEmpty port slot) :=
  ⟨rfl, Nat.le_of_ble_eq_true rfl⟩
theorem werrClear (port : Nat) : Statement (.werrClear port) :=
  ⟨rfl, Nat.le_of_ble_eq_true rfl⟩
theorem registerWrite (page : Bool) (unit off : Nat) (value : W64) : Statement (.registerWrite page unit off value) :=
  ⟨rfl, Nat.le_of_ble_eq_true rfl⟩
theorem hostMemoryAccess (write : Bool) (pa : Nat) (mask : W64) (line : Vec) : Statement (.hostMemoryAccess write pa mask line) :=
  ⟨rfl, Nat.le_of_ble_eq_true rfl⟩
theorem graphsub (fn : Nat) (addr : W64) : Statement (.graphsub fn addr) :=
  ⟨rfl, Nat.le_of_ble_eq_true rfl⟩
theorem phasectl (fn : Nat) (word : W64) : Statement (.phasectl fn word) :=
  ⟨rfl, Nat.le_of_ble_eq_true rfl⟩
theorem phaseAllreduceDone (phase : W32) : Statement (.phaseAllreduceDone phase) :=
  ⟨rfl, Nat.le_of_ble_eq_true rfl⟩
theorem cancelw (fn : Nat) (name : W64) : Statement (.cancelw fn name) :=
  ⟨rfl, Nat.le_of_ble_eq_true rfl⟩
theorem prresp (fn : Nat) (word : W64) : Statement (.prresp fn word) :=
  ⟨rfl, Nat.le_of_ble_eq_true rfl⟩
theorem slicereq (addr : W64) : Statement (.slicereq addr) :=
  ⟨rfl, Nat.le_of_ble_eq_true rfl⟩
theorem attreq (addr : W64) : Statement (.attreq addr) :=
  ⟨rfl, Nat.le_of_ble_eq_true rfl⟩
theorem attestationReportDone : Statement (.attestationReportDone) :=
  ⟨rfl, Nat.le_of_ble_eq_true rfl⟩
theorem wqcfg (q : Nat) (value : W64) : Statement (.wqcfg q value) :=
  ⟨rfl, Nat.le_of_ble_eq_true rfl⟩
theorem hrcfg (ring word : Nat) (value : W64) : Statement (.hrcfg ring word value) :=
  ⟨rfl, Nat.le_of_ble_eq_true rfl⟩
theorem syncMessage (early : Bool) (ticks : Nat) : Statement (.syncMessage early ticks) :=
  ⟨rfl, Nat.le_of_ble_eq_true rfl⟩
theorem syncTimeout : Statement (.syncTimeout) :=
  ⟨rfl, Nat.le_of_ble_eq_true rfl⟩
theorem healthSelftest (unit : W64) (pass : Bool) : Statement (.healthSelftest unit pass) :=
  ⟨rfl, Nat.le_of_ble_eq_true rfl⟩
theorem eolUpdate : Statement (.eolUpdate) :=
  ⟨rfl, Nat.le_of_ble_eq_true rfl⟩
theorem powerGood (image : Option FwImage) (hbmFail : Nat) : Statement (.powerGood image hbmFail) :=
  ⟨rfl, Nat.le_of_ble_eq_true rfl⟩
theorem smbusStatusRead : Statement (.smbusStatusRead) :=
  ⟨rfl, Nat.le_of_ble_eq_true rfl⟩
theorem localAccessCompletion (cl pa : Nat) (fill : Bool) : Statement (.localAccessCompletion cl pa fill) :=
  ⟨rfl, Nat.le_of_ble_eq_true rfl⟩
theorem idleWfmTimeout (sid : Nat) : Statement (.idleWfmTimeout sid) :=
  ⟨rfl, Nat.le_of_ble_eq_true rfl⟩
theorem correctableError (unit : W64) : Statement (.correctableError unit) :=
  ⟨rfl, Nat.le_of_ble_eq_true rfl⟩
theorem backInvalidateComplete (pa : Nat) : Statement (.backInvalidateComplete pa) :=
  ⟨rfl, Nat.le_of_ble_eq_true rfl⟩
theorem selftResult (sid result : Nat) : Statement (.selftResult sid result) :=
  ⟨rfl, Nat.le_of_ble_eq_true rfl⟩
theorem externalSourceLock (pkg : BitVec 10) (locked : Bool) : Statement (.externalSourceLock pkg locked) :=
  ⟨rfl, Nat.le_of_ble_eq_true rfl⟩

end Sys2Proof.Laws.EncodeForm
end

