-- ==== Sys2Proof/Laws/Store.lean ====
section
/-! SUPPORT. The bytes a store of a thread writes and those it leaves (R112, R222 to R224). -/

namespace Sys2Proof.Machine

/-- From `s` to `t` the bytes of `own` were stored with the values `val`, and all others only written back. -/
structure Stored (cl : Nat) (own : Nat → Prop) (val : Nat → Byte) (s t : State) : Prop where
  bytes : ∀ a, ¬ own a → memGet t.mem a = memGet s.mem a ∨ s.dirtyByte cl a = some (memGet t.mem a)
  dirty : ∀ a b, ¬ own a → t.dirtyByte cl a = some b → s.dirtyByte cl a = some b
  seen : ∀ a, ¬ own a → t.seenByte cl a = s.seenByte cl a
  val : ∀ a, own a → t.seenByte cl a = val a
  wf : Memory.wf t.mem = true

theorem WroteBack.stored {cl : Nat} {own : Nat → Prop} {val : Nat → Byte} {s t u : State} (h : WroteBack cl s t)
    (k : Stored cl own val t u) : Stored cl own val s u where
  bytes := fun a ha => by
    cases k.bytes a ha with
    | inl e => rw [e]; exact h.bytes a
    | inr e => exact .inr (h.dirty a _ e)
  dirty := fun a b ha e => h.dirty a b (k.dirty a b ha e)
  seen := fun a ha => (k.seen a ha).trans (h.seen a)
  val := k.val
  wf := k.wf

theorem Stored.wroteBack {cl : Nat} {own : Nat → Prop} {val : Nat → Byte} {s t u : State} (h : Stored cl own val s t)
    (k : WroteBack cl t u) : Stored cl own val s u where
  bytes := fun a ha => by
    cases k.bytes a with
    | inl e => rw [e]; exact h.bytes a ha
    | inr e => exact .inr (h.dirty a _ ha e)
  dirty := fun a b ha e => h.dirty a b ha (k.dirty a b e)
  seen := fun a ha => (k.seen a).trans (h.seen a ha)
  val := fun a ha => (k.seen a).trans (h.val a ha)
  wf := k.wf

/-- The bytes of a line that a mask names. -/
abbrev maskBytes (l : Nat) (mask : BitVec 64) (a : Nat) : Prop := a / 64 = l ∧ mask.getLsbD (a % 64) = true

def lineByte (x : Vec) (a : Nat) : Byte := x.extractLsb' (8 * (a % 64)) 8

theorem memGet_lineWrite {m : List Host.Cell} (h : Memory.wf m = true) (l : Nat) (mask : BitVec 64) (x : Vec) (a : Nat) :
    memGet (memWrite m (64 * l) 64 mask.toNat x.toNat) a =
      if a / 64 = l ∧ mask.getLsbD (a % 64) = true then lineByte x a else memGet m a := by
  rw [memGet_memWrite h]
  by_cases hl : a / 64 = l
  · have e2 : a - 64 * l = a % 64 := by omega
    rw [e2, byteOf_line]
    by_cases hd : mask.getLsbD (a % 64) = true
    · rw [if_pos ⟨by omega, by omega, hd⟩, if_pos ⟨hl, hd⟩]
      rfl
    · rw [if_neg (fun q => hd q.2.2), if_neg (fun q => hd q.2)]
  · rw [if_neg (fun q => hl (by omega)), if_neg (fun q => hl q.1)]

/-- A write of masked bytes of a line at its slice, no byte of which is dirty in the cache. -/
theorem sliceWrite_stored (s : State) (cl l : Nat) (mask : BitVec 64) (x : Vec) (h : Memory.wf s.mem = true)
    (hc : ∀ o, o < 64 → s.dirtyByte cl (64 * l + o) = none) :
    Stored cl (maskBytes l mask) (lineByte x) s { s with mem := memWrite s.mem (64 * l) 64 mask.toNat x.toNat } := by
  have hd : ∀ a, State.dirtyByte { s with mem := memWrite s.mem (64 * l) 64 mask.toNat x.toNat } cl a = s.dirtyByte cl a :=
    fun _ => rfl
  refine ⟨?_, fun a b _ q => q, ?_, ?_, memWrite_wf h _ _ _ _⟩
  · intro a ha
    left
    show memGet (memWrite s.mem (64 * l) 64 mask.toNat x.toNat) a = _
    rw [memGet_lineWrite h, if_neg ha]
  · intro a ha
    unfold State.seenByte
    rw [hd]
    show Option.getD _ (memGet (memWrite s.mem (64 * l) 64 mask.toNat x.toNat) a) = _
    rw [memGet_lineWrite h, if_neg ha]
  · intro a ha
    unfold State.seenByte
    rw [hd]
    have e := hc (a % 64) (Nat.mod_lt _ (by omega))
    rw [show 64 * l + a % 64 = a by have := ha.1; omega] at e
    rw [e]
    show memGet (memWrite s.mem (64 * l) 64 mask.toNat x.toNat) a = _
    rw [memGet_lineWrite h, if_pos ha]

/-- A store of one line (R223), whatever its hint. -/
theorem storeLine_stored (s : State) (cl l hint : Nat) (mask : BitVec 64) (x : Vec) (h : Memory.wf s.mem = true) :
    Stored cl (maskBytes l mask) (lineByte x) s (s.storeLine cl l hint mask x) := by
  have at_l : ∀ o, o < 64 → (64 * l + o) / 64 = l := fun o ho => by omega
  unfold State.storeLine
  dsimp only
  split
  · have k := dropLine_bytes s cl l h
    exact k.1.stored (sliceWrite_stored _ cl l mask x k.1.wf k.2)
  · split
    · rename_i e he
      have hline : ∀ a, a / 64 = l → s.dirtyByte cl a =
          if e.dirty.getLsbD (a % 64) then some (e.line.extractLsb' (8 * (a % 64)) 8) else none := by
        intro a hl
        exact dirtyByte_line (by rw [hl]; exact he)
      split
      · generalize hn : (Line.mk (mergeBytes e.line x mask) (e.dirty &&& ~~~mask) e.filled e.used) = e'
        have hd : ∀ a, State.dirtyByte (State.modCluster { s with mem := memWrite s.mem (64 * l) 64 mask.toNat x.toNat } cl
            (fun c => { c with lines := tset c.lines l e' })) cl a =
            if a / 64 = l then (if (e.dirty &&& ~~~mask).getLsbD (a % 64) then
              some ((mergeBytes e.line x mask).extractLsb' (8 * (a % 64)) 8) else none) else s.dirtyByte cl a := by
          intro a
          rw [dirtyByte_tset, ← hn]
          rfl
        have hm : ∀ a, memGet (State.modCluster { s with mem := memWrite s.mem (64 * l) 64 mask.toNat x.toNat } cl
            (fun c => { c with lines := tset c.lines l e' })).mem a =
            if a / 64 = l ∧ mask.getLsbD (a % 64) = true then lineByte x a else memGet s.mem a :=
          fun a => memGet_lineWrite h l mask x a
        have hkeep : ∀ a, ¬ maskBytes l mask a → a / 64 = l →
            (e.dirty &&& ~~~mask).getLsbD (a % 64) = e.dirty.getLsbD (a % 64) ∧
            (mergeBytes e.line x mask).extractLsb' (8 * (a % 64)) 8 = e.line.extractLsb' (8 * (a % 64)) 8 := by
          intro a ha hl
          have hmk : ¬ mask.getLsbD (a % 64) = true := fun q => ha ⟨hl, q⟩
          have hlt : a % 64 < 64 := Nat.mod_lt _ (by omega)
          rw [mergeBytes_byte _ _ _ _ hlt, if_neg hmk, BitVec.getLsbD_and, BitVec.getLsbD_not]
          simp only [Bool.not_eq_true] at hmk
          rw [hmk]
          exact ⟨by simp [BitVec.getLsbD_eq_getElem hlt]; omega, rfl⟩
        refine ⟨?_, ?_, ?_, ?_, memWrite_wf h _ _ _ _⟩
        · intro a ha
          left
          rw [hm, if_neg ha]
        · intro a b ha
          rw [hd]
          split
          · rename_i hl
            rw [(hkeep a ha hl).1, (hkeep a ha hl).2, hline a hl]
            exact id
          · exact id
        · intro a ha
          unfold State.seenByte
          rw [hd, hm, if_neg ha]
          split
          · rename_i hl
            rw [(hkeep a ha hl).1, (hkeep a ha hl).2, hline a hl]
          · rfl
        · intro a ha
          unfold State.seenByte
          rw [hd, hm, if_pos ha, if_pos ha.1, BitVec.getLsbD_and, BitVec.getLsbD_not, ha.2]
          simp
      · generalize hn : (Line.mk (mergeBytes e.line x mask) (e.dirty ||| mask) e.filled s.tick) = e'
        have hd : ∀ a, (s.modCluster cl (fun c => { c with lines := tset c.lines l e' })).dirtyByte cl a =
            if a / 64 = l then (if (e.dirty ||| mask).getLsbD (a % 64) then
              some ((mergeBytes e.line x mask).extractLsb' (8 * (a % 64)) 8) else none) else s.dirtyByte cl a := by
          intro a
          rw [dirtyByte_tset, ← hn]
        refine ⟨fun a _ => .inl rfl, ?_, ?_, ?_, h⟩
        · intro a b ha
          rw [hd]
          split
          · rename_i hl
            have hmk : mask.getLsbD (a % 64) = false := by
              cases q : mask.getLsbD (a % 64) with
              | false => rfl
              | true => exact absurd ⟨hl, q⟩ ha
            rw [hline a hl, mergeBytes_byte _ _ _ _ (Nat.mod_lt _ (by omega)), BitVec.getLsbD_or, hmk, Bool.or_false,
              if_neg (by decide : ¬ false = true)]
            exact id
          · exact id
        · intro a ha
          unfold State.seenByte
          rw [hd]
          split
          · rename_i hl
            have hmk : mask.getLsbD (a % 64) = false := by
              cases q : mask.getLsbD (a % 64) with
              | false => rfl
              | true => exact absurd ⟨hl, q⟩ ha
            rw [hline a hl, mergeBytes_byte _ _ _ _ (Nat.mod_lt _ (by omega)), BitVec.getLsbD_or, hmk, Bool.or_false,
              if_neg (by decide : ¬ false = true)]
            rfl
          · rfl
        · intro a ha
          unfold State.seenByte
          rw [hd, if_pos ha.1, BitVec.getLsbD_or, ha.2, Bool.or_true, if_pos rfl,
            mergeBytes_byte _ _ _ _ (Nat.mod_lt _ (by omega)), if_pos ha.2]
          rfl
    · rename_i he
      have hno : ∀ a, a / 64 = l → s.dirtyByte cl a = none := by
        intro a hl
        unfold State.dirtyByte
        rw [hl, he]
      split
      · exact sliceWrite_stored s cl l mask x h (fun o ho => hno _ (at_l o ho))
      · have k := makeRoom_bytes s cl l h
        have hno2 : ∀ a, a / 64 = l → (s.makeRoom cl l).dirtyByte cl a = none := by
          intro a hl
          cases q : (s.makeRoom cl l).dirtyByte cl a with
          | none => rfl
          | some b => exact absurd (k.dirty a b q) (by rw [hno a hl]; simp)
        apply k.stored
        generalize s.makeRoom cl l = u at hno2 k ⊢
        generalize hn : (Line.mk (mergeBytes 0 x mask) mask none u.tick) = e'
        have hd : ∀ a, (u.modCluster cl (fun c => { c with lines := tset c.lines l e' })).dirtyByte cl a =
            if a / 64 = l then (if mask.getLsbD (a % 64) then
              some ((mergeBytes 0 x mask).extractLsb' (8 * (a % 64)) 8) else none) else u.dirtyByte cl a := by
          intro a
          rw [dirtyByte_tset, ← hn]
        refine ⟨fun a _ => .inl rfl, ?_, ?_, ?_, k.wf⟩
        · intro a b ha
          rw [hd]
          split
          · rename_i hl
            rw [if_neg (fun q => ha ⟨hl, q⟩)]
            simp
          · exact id
        · intro a ha
          unfold State.seenByte
          rw [hd]
          split
          · rename_i hl
            rw [if_neg (fun q => ha ⟨hl, q⟩), hno2 a hl]
            rfl
          · rfl
        · intro a ha
          unfold State.seenByte
          rw [hd, if_pos ha.1, if_pos ha.2, mergeBytes_byte _ _ _ _ (Nat.mod_lt _ (by omega)), if_pos ha.2]
          rfl

/-- Bytes `a` to `a + n - 1` that a mask names, and the bytes of a value there. -/
abbrev rangeBytes (a n mask : Nat) (j : Nat) : Prop := a ≤ j ∧ j < a + n ∧ mask.testBit (j - a) = true
def rangeByte (a x : Nat) (j : Nat) : Byte := BitVec.ofNat 8 (x / 256 ^ (j - a))

theorem Stored.congr {cl : Nat} {own own' : Nat → Prop} {val val' : Nat → Byte} {s t : State} (h : Stored cl own val s t)
    (ho : ∀ a, own a ↔ own' a) (hv : ∀ a, own a → val a = val' a) : Stored cl own' val' s t :=
  ⟨fun a ha => h.bytes a (fun q => ha ((ho a).1 q)), fun a b ha => h.dirty a b (fun q => ha ((ho a).1 q)),
    fun a ha => h.seen a (fun q => ha ((ho a).1 q)), fun a ha => (h.val a ((ho a).2 ha)).trans (hv a ((ho a).2 ha)), h.wf⟩

/-- A store of bytes within one line of HBM. -/
theorem hbmWrite_stored (cl hint f : Nat) (s : State) (pa n mask x : Nat) (h : Memory.wf s.mem = true)
    (hl : pa % 64 + n ≤ 64) :
    Stored cl (rangeBytes pa n mask) (rangeByte pa x) s (State.hbmWrite cl hint (f + 1) s pa n mask x) := by
  unfold State.hbmWrite
  dsimp only
  have hk : min n (64 - pa % 64) = n := by omega
  rw [hk, if_pos (Nat.le_refl n)]
  have hbit : ∀ a, (mask % 2 ^ n * 2 ^ (pa % 64)).testBit (a % 64) = true ∧ a / 64 = pa / 64 ↔ rangeBytes pa n mask a := by
    intro a
    rw [Nat.testBit_mul_two_pow, Nat.testBit_mod_two_pow]
    simp only [Bool.and_eq_true, decide_eq_true_eq]
    constructor
    · rintro ⟨⟨h1, h2, h3⟩, h4⟩
      have e : a % 64 - pa % 64 = a - pa := by omega
      rw [e] at h2 h3
      exact ⟨by omega, by omega, h3⟩
    · rintro ⟨h1, h2, h3⟩
      have e : a % 64 - pa % 64 = a - pa := by omega
      rw [e]
      exact ⟨⟨by omega, by omega, h3⟩, by omega⟩
  split
  · rename_i h0
    have hno : ∀ a, ¬ rangeBytes pa n mask a := by
      intro a ha
      have := (hbit a).2 ha
      rw [h0] at this
      simp at this
    exact ⟨fun a _ => .inl rfl, fun a b _ q => q, fun a _ => rfl, fun a ha => absurd ha (hno a), h⟩
  · have hlt : mask % 2 ^ n * 2 ^ (pa % 64) < 2 ^ 64 := by
      have : mask % 2 ^ n < 2 ^ n := Nat.mod_lt _ (Nat.pow_pos (by omega))
      calc mask % 2 ^ n * 2 ^ (pa % 64) < 2 ^ n * 2 ^ (pa % 64) := Nat.mul_lt_mul_of_pos_right this (Nat.pow_pos (by omega))
        _ = 2 ^ (n + pa % 64) := by rw [Nat.pow_add]
        _ ≤ 2 ^ 64 := Nat.pow_le_pow_right (by omega) (by omega)
    have hmask : ∀ o, (BitVec.ofNat 64 (mask % 2 ^ n * 2 ^ (pa % 64))).getLsbD o =
        (mask % 2 ^ n * 2 ^ (pa % 64)).testBit o := by
      intro o
      rw [BitVec.getLsbD, BitVec.toNat_ofNat, Nat.mod_eq_of_lt hlt]
    apply (storeLine_stored s cl (pa / 64) hint _ _ h).congr
    · intro a
      unfold maskBytes
      rw [hmask, And.comm]
      exact hbit a
    · intro a ha
      unfold maskBytes at ha
      rw [hmask, And.comm] at ha
      obtain ⟨h1, h2, h3⟩ := (hbit a).1 ha
      unfold lineByte rangeByte
      rw [← byteOf_line]
      have hx : x % 2 ^ (8 * n) * 2 ^ (8 * (pa % 64)) < 2 ^ 512 := by
        have : x % 2 ^ (8 * n) < 2 ^ (8 * n) := Nat.mod_lt _ (Nat.pow_pos (by omega))
        calc x % 2 ^ (8 * n) * 2 ^ (8 * (pa % 64)) < 2 ^ (8 * n) * 2 ^ (8 * (pa % 64)) :=
              Nat.mul_lt_mul_of_pos_right this (Nat.pow_pos (by omega))
          _ = 2 ^ (8 * n + 8 * (pa % 64)) := by rw [Nat.pow_add]
          _ ≤ 2 ^ 512 := Nat.pow_le_pow_right (by omega) (by omega)
      rw [BitVec.toNat_ofNat, Nat.mod_eq_of_lt hx]
      have e : a % 64 = (a - pa) + pa % 64 := by omega
      have e2 : 256 ^ (a % 64) = 2 ^ (8 * (pa % 64)) * 256 ^ (a - pa) := by
        rw [e, Nat.pow_add, Nat.mul_comm, Nat.pow_mul]
      rw [e2, ← Nat.div_div_eq_div_mul, Nat.mul_div_cancel _ (Nat.pow_pos (by omega))]
      apply BitVec.eq_of_toNat_eq
      rw [BitVec.toNat_ofNat, BitVec.toNat_ofNat]
      have e3 : 2 ^ (8 * n) = 256 ^ (a - pa) * (256 * 256 ^ (n - (a - pa) - 1)) := by
        rw [Nat.pow_mul, ← Nat.mul_assoc, Nat.mul_comm (256 ^ (a - pa)) 256, ← Nat.pow_succ', ← Nat.pow_add]
        congr 1
        omega
      rw [e3, Nat.mod_mul_right_div_self, Nat.mod_mul_right_mod]

/-- A store to a place: the masked bytes of `x` are seen there, and every other byte is as before or written back. -/
structure PlaceStored (s t : State) (p : Place) (n mask x : Nat) : Prop where
  frame : ∀ j, ¬ rangeBytes p.flat n mask j →
    memGet t.mem j = memGet s.mem j ∨ s.dirtyByte s.clusterNo j = some (memGet t.mem j)
  bytes : ∀ k, k < n → mask.testBit k = true → t.byteAt p k = BitVec.ofNat 8 (x / 256 ^ k)
  wf : Memory.wf t.mem = true

theorem release_wroteBack (s : State) (ord scope : Nat) (h : Memory.wf s.mem = true) :
    WroteBack s.clusterNo s (s.released ord scope) := by
  unfold State.released
  split
  · exact release_bytes _ _ _ h
  · exact .refl h

theorem flushed_wroteBack (s : State) (p : Place) (n ord scope : Nat) (h : Memory.wf s.mem = true) :
    WroteBack s.clusterNo s (s.flushed p n ord scope) := by
  unfold State.flushed
  split
  · unfold State.flushPlace
    split
    · rename_i pa
      have : ∀ (l : List Nat) (t : State), t.clusterNo = s.clusterNo → Memory.wf t.mem = true →
          WroteBack s.clusterNo t (l.foldl (fun s i => s.writeBack s.clusterNo (pa / 64 + i)) t) := by
        intro l
        induction l with
        | nil => intro t _ ht; exact .refl ht
        | cons i l ih =>
          intro t hc ht
          rw [List.foldl_cons, hc]
          have k := (writeBack_bytes t s.clusterNo (pa / 64 + i) ht).1
          exact k.trans (ih _ (by rw [(writeBack_only t s.clusterNo (pa / 64 + i)).clusterNo, hc]) k.wf)
      exact this _ s rfl h
    · exact .refl h
  · exact .refl h

theorem acquired_mem (s : State) (ord scope : Nat) : (s.acquired ord scope).mem = s.mem := by
  unfold State.acquired; split
  · exact (dropAhead_mem _ _).trans (acquire_mem _ _ _)
  · rfl

theorem acquired_dirty (s : State) (ord scope cl a : Nat) : (s.acquired ord scope).dirtyByte cl a = s.dirtyByte cl a := by
  apply dirtyByte_congr
  unfold State.acquired; split
  · unfold State.acquireHere State.clusterAt; rw [dropAhead_clusters, acquire_clusters]
  · rfl

/-- R112, R222 to R224: a store of a thread to a place of its package. -/
theorem writeAt_stored (s : State) (p : Place) (n mask x hint ord scope : Nat) (h : Memory.wf s.mem = true) (hp : p.here = true)
    (hl : match p with | .hbm pa false => pa % 64 + n ≤ 64 | _ => True) :
    PlaceStored s (s.writeAt p n mask x hint ord scope) p n mask x := by
  have hplain : p.plain = true := by cases p <;> first | rfl | cases hp
  have rc : (s.refetch ord).clusterNo = s.clusterNo := by unfold State.refetch; split <;> rfl
  have hcl : (s.writeAt p n mask x hint ord scope).clusterNo = s.clusterNo :=
    (writeAt_memory s p n mask x hint ord scope hplain).clusterNo.trans rc
  have k := release_wroteBack s ord scope h
  have ec : (s.released ord scope).clusterNo = s.clusterNo := (released_memory s ord scope).clusterNo
  rw [writeAt_plain _ _ _ _ _ _ _ _ hplain] at hcl ⊢
  dsimp only at hcl ⊢
  have flat : ∀ q : Place, (∀ (t : State) cl, t.writePlace cl hint q n mask x = { t with mem := memWrite t.mem q.flat n mask x }) →
      (∀ (t : State) k, t.byteAt q k = memGet t.mem (q.flat + k)) → (∀ (t : State), t.flushed q n ord scope = t) →
      PlaceStored s ((((s.released ord scope).writePlace (s.released ord scope).clusterNo hint q n mask x).flushed q n ord scope).acquired
        ord scope) q n mask x := by
    intro q hw hb hf
    rw [hw, hf]
    refine ⟨?_, ?_, by rw [acquired_mem]; exact memWrite_wf k.wf _ _ _ _⟩
    · intro j hj
      rw [acquired_mem]
      show memGet (memWrite (s.released ord scope).mem q.flat n mask x) j = _ ∨
        _ = some (memGet (memWrite (s.released ord scope).mem q.flat n mask x) j)
      rw [memGet_memWrite k.wf, if_neg hj]
      exact k.bytes j
    · intro i hi hm
      rw [hb, acquired_mem]
      show memGet (memWrite (s.released ord scope).mem q.flat n mask x) (q.flat + i) = _
      rw [memGet_memWrite k.wf, if_pos ⟨by omega, by omega, by rw [Nat.add_sub_cancel_left]; exact hm⟩, Nat.add_sub_cancel_left]
  cases p with
  | scratch c o =>
    exact flat (.scratch c o) (fun _ _ => rfl) (fun _ _ => rfl) (fun t => by unfold State.flushed; split <;> rfl)
  | hbm pa tso =>
    cases tso with
    | true => exact flat (.hbm pa true) (fun _ _ => rfl) (fun _ _ => rfl) (fun t => by unfold State.flushed; split <;> rfl)
    | false =>
      simp only at hl
      have st := hbmWrite_stored s.clusterNo hint (n / 64 + 1) (s.released ord scope) pa n mask x k.wf hl
      have e : (s.released ord scope).writePlace (s.released ord scope).clusterNo hint (.hbm pa false) n mask x =
          State.hbmWrite s.clusterNo hint (n / 64 + 1 + 1) (s.released ord scope) pa n mask x := by rw [ec]; rfl
      have e2 := (hbmWrite_only s.clusterNo hint (n / 64 + 1 + 1) (s.released ord scope) pa n mask x).clusterNo
      rw [e] at hcl ⊢
      generalize State.hbmWrite s.clusterNo hint (n / 64 + 1 + 1) (s.released ord scope) pa n mask x = u at st hcl e2 ⊢
      have fl := flushed_wroteBack u (.hbm pa false) n ord scope st.wf
      rw [e2, ec] at fl
      have all := k.stored (st.wroteBack fl)
      generalize u.flushed (.hbm pa false) n ord scope = w at all fl hcl ⊢
      refine ⟨?_, ?_, by rw [acquired_mem]; exact all.wf⟩
      · intro j hj
        rw [acquired_mem]
        exact all.bytes j hj
      · intro i hi hm
        have v := all.val (pa + i) ⟨by omega, by omega, by rw [Nat.add_sub_cancel_left]; exact hm⟩
        unfold State.byteAt
        dsimp only
        rw [hcl, acquired_mem, acquired_dirty]
        unfold State.seenByte at v
        rw [v]
        unfold rangeByte
        rw [Nat.add_sub_cancel_left]
  | host pa tso => cases hp
  | held pa => cases hp
  | remote q => cases hp
  | link o => cases hp

/-! ### Checks of addresses and translations -/

theorem exactAddr_nat (va : W64) : exactAddr (va.toNat : Int) = some va := by
  unfold exactAddr
  rw [if_pos ⟨by omega, by have := va.isLt; omega⟩]
  simp

theorem checkAddr_some (i : Int) (va : W64) (size align : Nat) (h : exactAddr i = some va) :
    checkAddr i size align = if addrFault va size = true then .error (.trap .addr va)
      else if va.toNat % align ≠ 0 then .error (.trap (if inLink va then .perm else .align) va) else .ok va := by
  unfold checkAddr
  rw [h]

theorem checkAddr_ok (va : W64) (size align : Nat) (hr : addrFault va size = false) (ha : va.toNat % align = 0) :
    checkAddr (va.toNat : Int) size align = .ok va := by
  rw [checkAddr_some _ va _ _ (exactAddr_nat va), if_neg (by rw [hr]; exact Bool.false_ne_true), if_neg (fun q => q ha)]

theorem checkAddr_range (va : W64) (size align : Nat) (hr : addrFault va size = true) :
    checkAddr (va.toNat : Int) size align = .error (.trap .addr va) := by
  rw [checkAddr_some _ va _ _ (exactAddr_nat va), if_pos hr]

theorem checkAddr_align (va : W64) (size align : Nat) (hr : addrFault va size = false) (ha : va.toNat % align ≠ 0) :
    checkAddr (va.toNat : Int) size align = .error (.trap (if inLink va then .perm else .align) va) := by
  rw [checkAddr_some _ va _ _ (exactAddr_nat va), if_neg (by rw [hr]; exact Bool.false_ne_true), if_pos ha]

theorem checkAddr_outside (i : Int) (size align : Nat) (h : i < 0 ∨ 2 ^ 64 ≤ i) :
    checkAddr i size align = .error (.trap .addr (BitVec.ofInt 64 i)) := by
  unfold checkAddr exactAddr
  rw [if_neg (by omega)]

theorem place_ok (s : State) (acc : Acc) (va : W64) (n : Nat) (p : Place) (h : s.translate s.core s.slot.job acc va n = .ok p)
    (hd : vpnOf va ∉ s.slot.deny) (hh : s.hostHolds p n = false) : s.place acc va n = .ok p := by
  unfold State.place
  rw [h]
  simp [hd, hh]

/-- R311: an access to a page refused to the task traps, its translation present or not. -/
theorem place_denied (s : State) (acc : Acc) (va : W64) (n : Nat) (hd : vpnOf va ∈ s.slot.deny)
    (h : ∀ c, s.translate s.core s.slot.job acc va n ≠ .fault c) : s.place acc va n = .error (.trap .perm va) := by
  unfold State.place
  cases e : s.translate s.core s.slot.job acc va n with
  | ok p => simp [hd]
  | fault c => exact absurd e (h c)
  | miss => simp [State.pageRefused, hd]

theorem place_fault (s : State) (acc : Acc) (va : W64) (n : Nat) (c : Cause)
    (h : s.translate s.core s.slot.job acc va n = .fault c) : s.place acc va n = .error (.trap c va) := by
  unfold State.place
  rw [h]

theorem place_miss (s : State) (acc : Acc) (va : W64) (n : Nat) (h : s.translate s.core s.slot.job acc va n = .miss)
    (h1 : s.pageRefused va = false) : s.place acc va n = .error (.miss acc va) := by
  unfold State.place
  rw [h]
  simp [h1]

/-- A translation of an entry faults as PERM. -/
theorem useEntry_cause (s : State) (job : W32) (e : TlbEntry) (acc : Acc) (sup : Bool) (va : W64) (c : Cause)
    (h : s.useEntry job e acc sup va = .fault c) : c = .perm := by
  unfold State.useEntry at h
  dsimp only at h
  repeat' split at h
  all_goals cases h <;> rfl

/-- A translation faults as PERM, or as PAGE for a service core (R307, R393). -/
theorem translate_cause (s : State) (core : Nat) (job : W32) (acc : Acc) (va : W64) (n : Nat) (c : Cause)
    (h : s.translate core job acc va n = .fault c) : c = .perm ∨ c = .page := by
  unfold State.translate at h
  dsimp only at h
  repeat' split at h
  all_goals first
    | (cases h <;> simp; done)
    | exact .inl (useEntry_cause s job _ acc _ va c h)

theorem reach_ok (s : State) (acc : Acc) (va : W64) (n : Nat) (p : Place) (h : s.place acc va n = .ok p)
    (hs : acc ≠ .write → s.spoiled p n = false) : s.reach acc va n = .ok p := by
  unfold State.reach
  rw [h]
  by_cases ha : acc = .write <;> simp [Except.bind, ha, hs]

/-- R324: an uncorrectable block that an access other than a store consumes is MCHECK. -/
theorem reach_spoiled (s : State) (acc : Acc) (va : W64) (n : Nat) (p : Place) (h : s.place acc va n = .ok p)
    (ha : acc ≠ .write) (hs : s.spoiled p n = true) : s.reach acc va n = .error (.trap .mcheck va) := by
  unfold State.reach
  rw [h]
  simp [Except.bind, ha, hs]

theorem reach_error (s : State) (acc : Acc) (va : W64) (n : Nat) (e : Stop) (h : s.place acc va n = .error e) :
    s.reach acc va n = .error e := by
  unfold State.reach
  rw [h]
  rfl

theorem spoiled_nil (s : State) (p : Place) (n : Nat) (h : s.poison = []) : s.spoiled p n = false := by
  unfold State.spoiled
  rw [h]
  cases p <;> rfl

theorem relBlocked_ok (s : State) (ord scope : Nat) (h : ordRel ord = true → s.hostBlocks s.clusterNo scope = false) :
    s.relBlocked ord scope = .ok () := by
  unfold State.relBlocked waitIf
  cases ho : ordRel ord with
  | false => rfl
  | true => simp [h ho]

/-- A local HBM place has the offset of its address within a line. -/
theorem translate_line (s : State) (core : Nat) (job : W32) (acc : Acc) (va : W64) (n pa : Nat) (tso : Bool)
    (h : s.translate core job acc va n = .ok (.hbm pa tso)) : pa % 64 = va.toNat % 64 := by
  have key : ∀ (e : TlbEntry) (sup : Bool), s.useEntry job e acc sup va = .ok (.hbm pa tso) → pa % 64 = va.toNat % 64 := by
    intro e sup hu
    unfold State.useEntry at hu
    dsimp only at hu
    have hs : ∃ k, 2 ^ sizeLog (entSize e) = 64 * k := by
      unfold sizeLog
      split
      · exact ⟨2 ^ 10, by decide⟩
      · exact ⟨2 ^ 15, by decide⟩
      · exact ⟨2 ^ 24, by decide⟩
    obtain ⟨k, hk⟩ := hs
    have hf : entFrame e % 64 = 0 := by unfold entFrame; omega
    have hm : va.toNat % 2 ^ sizeLog (entSize e) % 64 = va.toNat % 64 := by
      rw [hk, Nat.mod_mul_right_mod]
    split at hu
    · split at hu
      · cases hu
      · split at hu
        · cases hu
        · split at hu
          · cases hu
          · cases hu
            omega
    · split at hu
      · cases hu
      · split at hu
        · cases hu
        · split at hu
          · cases hu
          · split at hu <;> cases hu
  unfold State.translate at h
  dsimp only at h
  split at h
  · split at h
    · cases h
    · split at h
      · cases h
      · split at h <;> cases h
  · split at h
    · cases h
    · split at h
      · split at h <;> cases h
      · split at h
        · cases h
        · split at h
          · split at h
            · cases h
            · exact key _ _ h
          · split at h
            · cases h
            · split at h
              · cases h
              · exact key _ _ h

theorem PlaceStored.memoryFrame {s t : State} {p : Place} {n mask x : Nat} (h : PlaceStored s t p n mask x) :
    MemoryFrame s t p.flat n := fun j hj => h.frame j (fun q => by have := q.1; have := q.2.1; omega)

end Sys2Proof.Machine
end

