-- ==== Sys2Proof/Laws/Vec.lean ====
section
/-! SUPPORT. What the shared end of vector instructions does: elements of bound registers, flags, the result. -/

namespace Sys2Proof.Machine

theorem firstIdx_spec (p : Nat → Bool) (n i k : Nat) (h : firstIdx p n i = some k) : p k = true ∧ i ≤ k ∧ k < i + n := by
  induction n generalizing i with
  | zero => simp [firstIdx] at h
  | succ n ih =>
    unfold firstIdx at h
    split at h
    · cases h; exact ⟨by assumption, Nat.le_refl _, by omega⟩
    · have := ih (i + 1) h; exact ⟨this.1, by omega, by omega⟩

theorem Slot.boundTo_reg (t : Slot) (r : BitVec 5) (k : BitVec 3) (h : t.boundTo r = some k) :
    (RegFile.read t.z k).reg = some r := by
  unfold Slot.boundTo at h
  cases e : firstIdx (fun k => (RegFile.read t.z (BitVec.ofNat 3 k)).reg == some r) 8 0 with
  | none => rw [e] at h; cases h
  | some j =>
    rw [e] at h
    have := (firstIdx_spec _ _ _ _ e).1
    simp only [Option.map_some, Option.some.injEq] at h
    rw [h] at this
    simpa using this

/-- Two slots whose streams are bound alike. -/
theorem Slot.boundTo_congr {t u : Slot} (h : ∀ k, (RegFile.read t.z k).reg = (RegFile.read u.z k).reg) (r : BitVec 5) :
    t.boundTo r = u.boundTo r := by
  unfold Slot.boundTo
  simp only [h]

theorem Stream.pop_reg (z : Stream) : z.pop.reg = z.reg := by
  unfold Stream.pop; split <;> rfl

theorem Slot.putZ_reg (t : Slot) (k j : BitVec 3) :
    (RegFile.read (t.putZ k (RegFile.read t.z k).pop).z j).reg = (RegFile.read t.z j).reg := by
  unfold Slot.putZ
  simp only [RegFile.read_write]
  split
  · subst j; exact Stream.pop_reg _
  · rfl

/-- One register of the list. -/
theorem takeElem_spec (s : State) (r : BitVec 5) (h : s.ElemsReady [r]) :
    ∃ s1, s.takeElem r = .ok s1 ∧ Near s s1 ∧ s1.view = { s.view with z := s.zAfter [r] } := by
  cases hb : s.slot.boundTo r with
  | none =>
    refine ⟨s, by simp [State.takeElem, hb], near_refl s, ?_⟩
    have : s.zAfter [r] = s.view.z := by funext k; simp [State.zAfter, hb, State.view, Slot.view]
    rw [this]
  | some k =>
    cases he : (RegFile.read s.slot.z k).ended with
    | true =>
      refine ⟨s, by simp [State.takeElem, hb, he], near_refl s, ?_⟩
      have : s.zAfter [r] = s.view.z := by
        funext j
        by_cases hj : k = j
        · subst hj; simp [State.zAfter, hb, State.view, Slot.view, he]
        · simp [State.zAfter, hb, State.view, Slot.view, hj]
      rw [this]
    | false =>
      have hr := h r (by simp) k hb
      rw [he] at hr
      cases hz : (RegFile.read s.slot.z k).buf with
      | nil => rw [hz] at hr; simp at hr
      | cons e rest =>
        rw [hz] at hr
        have hf : e.fault = none := by simpa using (hr.resolve_left (by simp)).1
        have hd : (RegFile.read s.slot.z k).headVa.any (fun a => s.elemRefused (RegFile.read s.slot.z k) a) = false := by
          cases ha : (RegFile.read s.slot.z k).headVa with
          | none => rfl
          | some a => simpa [State.elemRefused, hz, hf] using (hr.resolve_left (by simp)).2 a ha
        refine ⟨s.mod (fun t => t.putZ k (RegFile.read s.slot.z k).pop), by simp [State.takeElem, hb, he, hz, hf, hd],
          near_mod _ _ (Slot.onlyRegs_putZ _ _ _), ?_⟩
        unfold State.view
        rw [State.slot_mod, Slot.view_putZ]
        have : s.zAfter [r] = upd s.slot.view.z k (RegFile.read s.slot.z k).pop := by
          funext j
          by_cases hj : j = k
          · subst hj; simp [State.zAfter, hb, upd, he]
          · simp [State.zAfter, hb, upd, Ne.symm hj, hj, Slot.view]
        rw [this]

theorem zAfter_reg (s : State) (l : List (BitVec 5)) (k : BitVec 3) :
    (s.zAfter l k).reg = (RegFile.read s.slot.z k).reg := by
  unfold State.zAfter
  dsimp only
  split
  · exact Stream.pop_reg _
  · rfl

theorem takeFrom_spec (l : List (BitVec 5)) : ∀ (s : State) (seen : List (BitVec 5)),
    s.ElemsReady (l.filter (fun r => !seen.contains r)) →
    ∃ s1, s.takeFrom seen l = .ok s1 ∧ Near s s1 ∧
      s1.view = { s.view with z := s.zAfter (l.filter (fun r => !seen.contains r)) } := by
  induction l with
  | nil =>
    intro s seen _
    refine ⟨s, rfl, near_refl s, ?_⟩
    have : s.zAfter [] = s.view.z := by funext k; simp [State.zAfter, State.view, Slot.view]
    simp only [List.filter_nil, this]
  | cons r rs ih =>
    intro s seen h
    by_cases hs : seen.contains r = true
    · have e : (r :: rs).filter (fun r => !seen.contains r) = rs.filter (fun r => !seen.contains r) := by
        rw [List.filter_cons, if_neg (by rw [hs]; decide)]
      rw [e] at h ⊢
      obtain ⟨s1, h1⟩ := ih s seen h
      refine ⟨s1, ?_, h1.2⟩
      unfold State.takeFrom
      rw [if_pos hs]
      exact h1.1
    · have e : (r :: rs).filter (fun r => !seen.contains r) = r :: rs.filter (fun r => !seen.contains r) := by
        rw [List.filter_cons, if_pos (by rw [Bool.not_eq_true] at hs; rw [hs]; rfl)]
      rw [e] at h ⊢
      obtain ⟨s1, h1, n1, v1⟩ := takeElem_spec s r (fun q hq => h q (by simp at hq; simp [hq]))
      have hz : ∀ k, RegFile.read s1.slot.z k = s.zAfter [r] k := fun k => congrFun (congrArg Regs.z v1) k
      have hb : ∀ q, s1.slot.boundTo q = s.slot.boundTo q := fun q =>
        Slot.boundTo_congr (fun k => by rw [hz, zAfter_reg]) q
      have hother : ∀ q, q ≠ r → ∀ k, s.slot.boundTo q = some k → s.zAfter [r] k = RegFile.read s.slot.z k := by
        intro q hq k hk
        have : ¬ s.slot.boundTo r = some k := fun hr => by
          have a := Slot.boundTo_reg _ _ _ hk
          have b := Slot.boundTo_reg _ _ _ hr
          rw [a] at b
          exact hq (Option.some.inj b)
        simp [State.zAfter, this]
      have hr2 : s1.ElemsReady (rs.filter (fun q => !(r :: seen).contains q)) := by
        intro q hq k hk
        rw [hb] at hk
        simp only [List.mem_filter, List.contains_cons, Bool.not_or, Bool.and_eq_true, Bool.not_eq_true', beq_eq_false_iff_ne] at hq
        rw [hz, hother q hq.2.1 k hk, n1.deny]
        exact h q (List.mem_cons_of_mem _ (List.mem_filter.2 ⟨hq.1, by simpa using hq.2.2⟩)) k hk
      obtain ⟨s2, h2, n2, v2⟩ := ih s1 (r :: seen) hr2
      refine ⟨s2, ?_, n1.trans n2, ?_⟩
      · unfold State.takeFrom
        rw [if_neg hs, h1]
        exact h2
      · rw [v2, v1]
        have : s1.zAfter (rs.filter (fun q => !(r :: seen).contains q)) =
            s.zAfter (r :: rs.filter (fun q => !seen.contains q)) := by
          funext k
          have hany : ∀ (m : List (BitVec 5)), m.any (fun q => s1.slot.boundTo q == some k) =
              m.any (fun q => s.slot.boundTo q == some k) := fun m => by simp only [hb]
          by_cases hk : s.slot.boundTo r = some k
          · have hno : (rs.filter (fun q => !(r :: seen).contains q)).any (fun q => s.slot.boundTo q == some k) = false := by
              rw [List.any_eq_false]
              intro q hq
              simp only [List.mem_filter, List.contains_cons, Bool.not_or, Bool.and_eq_true, Bool.not_eq_true',
                beq_eq_false_iff_ne] at hq
              intro hc
              have hc := eq_of_beq hc
              have a := Slot.boundTo_reg _ _ _ hc
              have b := Slot.boundTo_reg _ _ _ hk
              rw [a] at b
              exact hq.2.1 (Option.some.inj b)
            rw [show s1.zAfter (rs.filter (fun q => !(r :: seen).contains q)) k = RegFile.read s1.slot.z k by
              unfold State.zAfter; rw [hany, hno]; rfl]
            rw [hz]
            simp [State.zAfter, hk]
          · have hz1 : RegFile.read s1.slot.z k = RegFile.read s.slot.z k := by
              rw [hz]; simp [State.zAfter, hk]
            have hsame : (rs.filter (fun q => !(r :: seen).contains q)).any (fun q => s.slot.boundTo q == some k) =
                (r :: rs.filter (fun q => !seen.contains q)).any (fun q => s.slot.boundTo q == some k) := by
              rw [Bool.eq_iff_iff]
              simp only [List.any_eq_true, List.mem_cons, List.mem_filter, List.contains_cons, Bool.not_or, Bool.and_eq_true,
                Bool.not_eq_true', beq_eq_false_iff_ne, beq_iff_eq]
              constructor
              · rintro ⟨q, hq, hb⟩; exact ⟨q, .inr ⟨hq.1, hq.2.2⟩, hb⟩
              · rintro ⟨q, hq | hq, hb⟩
                · subst hq; exact absurd hb hk
                · exact ⟨q, ⟨hq.1, fun e => hk (e ▸ hb), hq.2⟩, hb⟩
            unfold State.zAfter
            rw [hany, hsame, hz1]
        rw [this]

theorem takeElems_spec (s : State) (l : List (BitVec 5)) (h : s.ElemsReady l) :
    ∃ s1, s.takeElems l = .ok s1 ∧ Near s s1 ∧ s1.view = { s.view with z := s.zAfter l } := by
  have e : l.filter (fun r => !([] : List (BitVec 5)).contains r) = l := by simp
  have := takeFrom_spec l s [] (by rw [e]; exact h)
  rw [e] at this
  exact this

theorem fpTraps_congr {s t : State} (fl : Flags) (hv : t.slot.fen = s.slot.fen) :
    t.fpTraps fl = s.fpTraps fl := by unfold State.fpTraps; rw [hv]

/-- A vector instruction whose destinations are unbound, whose elements are ready and which raises no enabled flag: its
streams step on, its flags reach FSR, `f` writes the result, and it retires. -/
theorem vecEnd_spec (s : State) (dsts srcs : List (BitVec 5)) (fl : Flags) (f : State → State) (h : Slot → Slot)
    (hd : s.Unbound dsts) (hs : s.ElemsReady srcs) (hf : s.fpTraps fl = false)
    (hm : ∀ t, f t = t.mod h) (ho : ∀ t, Slot.OnlyRegs t (h t)) :
    ∃ t u, s.vecEnd dsts srcs fl f = .next t ∧ Retired s t 4 (h u).view ∧
      u.view = { s.view with z := s.zAfter srcs, fsr := s.slot.fsr ||| fl.setWidth 32 } := by
  obtain ⟨s1, h1, n1, v1⟩ := takeElems_spec s srcs hs
  have hfen : s1.slot.fen = s.slot.fen := congrArg Regs.fen v1
  have hb : dsts.any s.slot.isBound = false := by
    rw [List.any_eq_false]; intro r hr; simp [hd r hr]
  have n2 := n1.mod (fun t => t.orFlags fl) (Slot.onlyRegs_orFlags _ _)
  have n3 := n2.mod h (ho _)
  refine ⟨((s1.mod (fun t => t.orFlags fl)).mod h).retire 4, s1.slot.orFlags fl, ?_, ?_, ?_⟩
  · unfold State.vecEnd State.boundIf State.illegalIf trapIf
    rw [hb]
    simp only [Bool.false_eq_true, if_false]
    rw [show ((do (Except.ok () : Res Unit); let s1 ← s.takeElems srcs; s1.fpEnd fl f : Res State)) = s1.fpEnd fl f by
      rw [h1]; rfl]
    rw [fpEnd_ok _ _ _ (by rw [fpTraps_congr fl hfen]; exact hf), finish_ok, hm]
    rfl
  · have r := n3.retire 4
    have : ((s1.mod fun t => t.orFlags fl).mod h).view = (h (s1.slot.orFlags fl)).view := by
      unfold State.view; rw [State.slot_mod, State.slot_mod]
    rw [this] at r
    exact r
  · rw [Slot.view_orFlags]
    have hfsr : s1.slot.fsr = s.slot.fsr := congrArg Regs.fsr v1
    rw [hfsr]
    have : s1.slot.view = { s.view with z := s.zAfter srcs } := v1
    rw [this]

theorem vecEnd_setV (s : State) (dsts srcs : List (BitVec 5)) (fl : Flags) (d : BitVec 5) (v : Vec)
    (hd : s.Unbound dsts) (hs : s.ElemsReady srcs) (hf : s.fpTraps fl = false) :
    ∃ t, s.vecEnd dsts srcs fl (fun s' => s'.setV d v) = .next t ∧ Retired s t 4
      { s.view with v := upd s.v d v, z := s.zAfter srcs, fsr := s.slot.fsr ||| fl.setWidth 32 } := by
  obtain ⟨t, u, h1, h2, h3⟩ := vecEnd_spec s dsts srcs fl (fun s' => s'.setV d v) (fun t => t.putV d v) hd hs hf
    (fun _ => rfl) (fun _ => Slot.onlyRegs_putV _ _ _)
  refine ⟨t, h1, ?_⟩
  rw [Slot.view_putV, h3] at h2
  exact h2

theorem vecEnd_setX (s : State) (dsts srcs : List (BitVec 5)) (fl : Flags) (d : BitVec 5) (v : W64)
    (hd : s.Unbound dsts) (hs : s.ElemsReady srcs) (hf : s.fpTraps fl = false) :
    ∃ t, s.vecEnd dsts srcs fl (fun s' => s'.setX d v) = .next t ∧ Retired s t 4
      { s.view with x := updX s.x d v, z := s.zAfter srcs, fsr := s.slot.fsr ||| fl.setWidth 32 } := by
  obtain ⟨t, u, h1, h2, h3⟩ := vecEnd_spec s dsts srcs fl (fun s' => s'.setX d v) (fun t => t.putX d v) hd hs hf
    (fun _ => rfl) (fun _ => Slot.onlyRegs_putX _ _ _)
  refine ⟨t, h1, ?_⟩
  rw [Slot.view_putX, show u.getX = s.x from congrArg Regs.x h3, h3] at h2
  exact h2

theorem vecEnd_setP (s : State) (dsts srcs : List (BitVec 5)) (fl : Flags) (d : BitVec 3) (v : BitVec 16)
    (hd : s.Unbound dsts) (hs : s.ElemsReady srcs) (hf : s.fpTraps fl = false) :
    ∃ t, s.vecEnd dsts srcs fl (fun s' => s'.setP d v) = .next t ∧ Retired s t 4
      { s.view with p := updP s.p d v, z := s.zAfter srcs, fsr := s.slot.fsr ||| fl.setWidth 32 } := by
  obtain ⟨t, u, h1, h2, h3⟩ := vecEnd_spec s dsts srcs fl (fun s' => s'.setP d v) (fun t => t.putP d v) hd hs hf
    (fun _ => rfl) (fun _ => Slot.onlyRegs_putP _ _ _)
  refine ⟨t, h1, ?_⟩
  rw [Slot.view_putP, show u.getP = s.p from congrArg Regs.p h3, h3] at h2
  exact h2

end Sys2Proof.Machine
end

