-- ==== Sys2Proof/Tests/Slice0.lean ====
section
/-! SUPPORT. The model's own tests: ill-formed terms, words written out from the spec's encodings, single steps, and for
each statement with hypotheses a state and operands that meet them. -/

namespace Sys2Proof.Tests

open Sys2Proof Sys2Proof.Machine

-- Each test is checked by the kernel; one at a time they need one thread and no more memory.
set_option Elab.async false

/-! ### Well-formedness and decoding -/

theorem test_illFormed_mem :
    ([.ldLong 0 0 0 0 5 0 0 0, .ldLong 0 0 0 0 0 2 0 0, .ldLong 0 0 0 0 0 0 3 0, .ldnLong 0 0 0 0 5 0 0 0, .ldnLong 0
      0 0 0 0 2 0 0, .ldnLong 0 0 0 0 0 0 3 0, .stLong 0 0 0 0 5 0 0 0, .stLong 0 0 0 0 0 1 0 0, .stLong 0 0 0 0 0 0 3
      0, .ldvLong 0 0 0 5 0 0 0, .ldvLong 0 0 0 0 2 0 0, .ldvLong 0 0 0 0 0 3 0, .stvLong 0 0 0 5 0 0 0, .stvLong 0 0
      0 0 1 0 0, .stvLong 0 0 0 0 0 3 0, .vgather 0 0 0 0 0 0, .vgather 1 0 1 0 0 0, .vscatter 0 0 0 0 0 0, .vscatter
      1 0 1 0 0 0, .ldvsLong 0 0 0 0 5 0 0 0, .ldvsLong 0 0 0 0 0 2 0 0, .ldvsLong 0 0 0 0 0 0 3 0, .stvsLong 0 0 0 0
      5 0 0 0, .stvsLong 0 0 0 0 0 1 0 0, .stvsLong 0 0 0 0 0 0 3 0, .vgatherLong 0 0 0 0 0 0 0 0 0, .vgatherLong 1 0
      0 0 0 5 0 0 0, .vgatherLong 1 0 0 0 0 0 2 0 0, .vgatherLong 1 0 0 0 0 0 0 3 0, .vgatherLong 1 0 0 0 0 0 0 0 1,
      .vscatterLong 0 0 0 0 0 0 0 0 0, .vscatterLong 1 0 0 0 0 5 0 0 0, .vscatterLong 1 0 0 0 0 0 1 0 0, .vscatterLong
      1 0 0 0 0 0 0 3 0, .vscatterLong 1 0 0 0 0 0 0 0 1, .pref 0 2 0, .prefLong 0 0 2 0, .cflush 2 2 0 2, .cinv 2 2 0
      2, .cflush 0 0 1 7, .cflush 0 0 5 7, .cinv 0 0 5 7] : List Instr).all (fun i => !i.wf) = true := by
  decide

theorem test_illFormed_vector :
    ([.vcmp 0 0 0 0 7 0, .vicmp 0 0 0 0 0 6 0, .vcvt 0 0 0 5 0 0, .vpack 0 0 2 0 0, .vunpk 0 0 2 0 0, .vred 0 0 0 0 3
      0, .vscan 0 0 0 0 3 0, .voptu 1 0 0, .voptu 0 1 0, .sbind 0 0 8, .vcvt 1 2 16 0 1 7, .vcvt 1 2 0 5 0 7, .vpack 1
      2 2 0 7, .vpack 1 2 1 2 7, .vunpk 1 2 2 0 7, .vunpk 1 2 1 2 7, .vshuf 1 2 1 6 7, .vshuf 1 2 31 7 7, .voptu 4 25
      7, .voptu 6 24 7, .sbind 2 23 7] : List Instr).all (fun i => !i.wf) = true := by
  decide

theorem test_illFormed_atomics :
    ([.aadd 0 0 0 0 5 0, .aand 0 0 0 0 5 0, .aor 0 0 0 0 5 0, .axor 0 0 0 0 5 0, .amin 0 0 0 0 5 0, .amax 0 0 0 0 5 0,
      .aminn 0 0 0 0 5 0, .amaxn 0 0 0 0 5 0, .aswap 0 0 0 0 5 0, .acas 0 0 0 0 5 0, .aaddf 0 0 0 0 5 0, .afaddF64 0 0
      0 0 5 0, .afmaxF64 0 0 0 0 5 0, .afaddF32 0 0 0 0 5 0, .afmaxF32 0 0 0 0 5 0] : List Instr).all (fun i => !i.wf)
      = true := by
  decide

theorem test_illFormed_system :
    ([.send 0 0 0 5 0 0, .sendl 0 0 0 5 0, .hop 0 0 0 5 0, .hopV 0 0 0 5 0, .spawn 0 0 5 0, .spawnn 0 0 0 5 0, .fence
      5 2 2, .fence 2 0 2, .drain 3 0, .srd 0 12 0 0, .srd 0 0 1 0, .swr 0 12 0 0, .swr 0 0 1 0, .fence 2 5 2, .srd 0
      31 7 0, .srd 0 0 9 0, .swr 0 12 8 0] : List Instr).all (fun i => !i.wf) = true := by
  decide

theorem test_illFormed_scalar :
    ([.bswap 2 2 0 0 2, .extf 0 0 0 0 57 0, .insf 0 0 0 0 57 0, .sext 0 0 3 0, .zext 0 0 3 0, .cmp 0 0 0 0 0 6 0,
      .cmpi 0 0 0 6 0 0, .fadd 0 0 0 2 0, .fsub 0 0 0 2 0, .fmul 0 0 0 2 0, .ffma 0 0 0 2 0, .fdiv 0 0 0 2 0, .fsqrt 0
      0 2 0, .fmin 0 0 0 2 0, .fmax 0 0 0 2 0, .fcmp 0 0 0 0 7 0, .fcvt 0 0 0 0 0, .fcvt 0 0 1 1 0, .extf 0 0 3 0 1 0,
      .insf 0 0 3 0 1 0] : List Instr).all (fun i => !i.wf) = true := by
  decide
theorem test_decode_alu :
    decode 0x05DB8F07 0 = some (.add 14 27 17 3 1 7) ∧
    decode 0x042A6A17 0 = some (.sub 1 10 13 1 0 7) ∧
    decode 0x054FCD27 0 = some (.and 10 15 25 2 1 7) ∧
    decode 0x06134537 0 = some (.or 16 19 8 2 1 7) ∧
    decode 0x04F37F47 0 = some (.xor 7 19 15 3 1 7) ∧
    decode 0x07426C57 0 = some (.andn 26 2 13 2 0 7) ∧
    decode 0x053C9867 0 = some (.shl 9 28 19 0 0 7) ∧
    decode 0x072CFB77 0 = some (.shr 25 12 31 1 1 7) ∧
    decode 0x078DCA87 0 = some (.sra 28 13 25 1 0 7) ∧
    decode 0x0671A497 0 = some (.rol 19 17 20 2 0 7) ∧
    decode 0x04A790A7 0 = some (.min 5 7 18 0 0 7) ∧
    decode 0x056B00B7 0 = some (.max 11 11 0 0 0 7) ∧
    decode 0x07E17FC7 0 = some (.minn 31 1 15 3 1 7) ∧
    decode 0x054357D7 0 = some (.maxn 10 3 10 3 1 7) ∧
    decode 0x063106E7 0 = some (.clz 17 17 3 0 7) ∧
    decode 0x07DE02F7 0 = some (.ctz 30 30 1 0 7) := by decide

theorem test_decode_muldiv :
    decode 0x099B1307 0 = some (.mul 12 27 2 1 1 7) ∧
    decode 0x08605017 0 = some (.mulh 3 0 10 0 0 7) ∧
    decode 0x0AD47A27 0 = some (.mulhn 22 20 15 1 0 7) ∧
    decode 0x09CDFE37 0 = some (.div 14 13 31 3 0 7) ∧
    decode 0x0B0F0547 0 = some (.divn 24 15 0 2 1 7) ∧
    decode 0x08CB6F57 0 = some (.rem 6 11 13 3 1 7) ∧
    decode 0x0A567167 0 = some (.remn 18 22 14 0 1 7) ∧
    decode 0x09730477 0 = some (.popc 11 19 2 0 7) ∧
    decode 0x09330487 0 = some (.bswap 9 19 2 0 7) := by decide

theorem test_decode_addi :
    decode 0x0C8EFB67 0 = some (.addi 4 14 4022 7) := by decide

theorem test_decode_logi :
    decode 0x128706F7 0 = some (.andi 20 7 111 7) ∧
    decode 0x10016267 0 = some (.ori 0 1 550 7) ∧
    decode 0x104DBCC7 0 = some (.xori 2 13 972 7) := by decide

theorem test_decode_shifti :
    decode 0x14920027 0 = some (.shli 4 18 2 7) ∧
    decode 0x14744397 0 = some (.shri 3 20 57 7) ∧
    decode 0x16CC83A7 0 = some (.srai 22 12 58 7) := by decide

theorem test_decode_field :
    decode 0x1BF41A37 0 = some (.extf 31 20 1 1 35 7) ∧
    decode 0x1B9D4953 0 = some (.insf 28 29 0 1 21 3) ∧
    decode 0x1B0C8007 0 = some (.sext 24 12 0 7) ∧
    decode 0x1835D803 0 = some (.zext 1 21 1 3) := by decide

theorem test_decode_liu :
    decode 0x1D119D37 0 = some (.liu 8 72147 7) := by decide

theorem test_decode_cmp :
    decode 0x206BEE83 0 = some (.cmp 3 11 29 3 0 4 3) := by decide

theorem test_decode_cmpi :
    decode 0x256929D7 0 = some (.cmpi 1 3 9 1 157 7) := by decide

theorem test_decode_pred :
    decode 0x28833007 0 = some (.pand 4 3 6 7) ∧
    decode 0x28631887 0 = some (.por 3 3 3 7) ∧
    decode 0x28C03107 0 = some (.pxor 6 0 6 7) ∧
    decode 0x28E70187 0 = some (.pnot 7 7 7) ∧
    decode 0x2B150237 0 = some (.sel 24 21 0 3 7) ∧
    decode 0x2B270287 0 = some (.pmovx 25 7 7) ∧
    decode 0x28470307 0 = some (.xmovp 2 7 7) := by decide

theorem test_decode_sfp :
    decode 0x2F6A3007 0 = some (.fadd 27 10 6 0 7) ∧
    decode 0x2CEBD89C 0 = some (.fsub 7 11 27 1 12) ∧
    decode 0x2C1C0103 0 = some (.fmul 0 28 0 0 3) ∧
    decode 0x2D04C187 0 = some (.ffma 8 4 24 0 7) ∧
    decode 0x2EFDF203 0 = some (.fdiv 23 29 30 0 3) ∧
    decode 0x2F1E0297 0 = some (.fsqrt 24 30 1 7) ∧
    decode 0x2E990B07 0 = some (.fmin 20 25 1 0 7) ∧
    decode 0x2C2FBB87 0 = some (.fmax 1 15 23 0 7) ∧
    decode 0x2C572427 0 = some (.fcmp 0 2 23 4 2 7) ∧
    decode 0x2C462497 0 = some (.fcvt 2 6 4 1 7) := by decide

theorem test_decode_br :
    decode 0x306F0167 0 = some (.br 454678 7) := by decide

theorem test_decode_call :
    decode 0x34E7E707 0 = some (.call 949872 7) := by decide

theorem test_decode_jr :
    decode 0x38100007 0 = some (.jr 16 7) := by decide

theorem test_decode_addpc :
    decode 0x3DC0FB47 0 = some (.addpc 14 4020 7) := by decide

theorem test_decode_ld :
    decode 0x42034DF7 0 = some (.ld 16 3 311 3 7) := by decide

theorem test_decode_ldn :
    decode 0x466FCC37 0 = some (.ldn 19 15 816 3 7) := by decide

theorem test_decode_st :
    decode 0x498C3AF7 0 = some (.st 12 12 235 3 7) := by decide

theorem test_decode_ldv :
    decode 0x4CE3D507 0 = some (.ldv 7 3 852 7) := by decide

theorem test_decode_stv :
    decode 0x53877CC7 0 = some (.stv 28 7 499 7) := by decide

theorem test_decode_vmem :
    decode 0x55E8A107 0 = some (.ldvs 15 8 20 1 7) ∧
    decode 0x54D74B07 0 = some (.stvs 6 23 9 1 7) ∧
    decode 0x5474F447 0 = some (.vgather 3 20 30 0 1 7) ∧
    decode 0x571E4747 0 = some (.vscatter 24 30 8 1 1 7) := by decide

theorem test_decode_cache :
    decode 0x581B000C 0 = some (.pref 27 0 12) ∧
    decode 0x58189A89 0 = some (.cflush 24 19 2 9) ∧
    decode 0x58004507 0 = some (.cinv 0 8 4 7) := by decide

theorem test_decode_atoma :
    decode 0x62848207 0 = some (.aadd 20 4 16 1 0 7) ∧
    decode 0x607FA117 0 = some (.aand 3 31 20 0 4 7) ∧
    decode 0x63B20427 0 = some (.aor 29 18 0 2 0 7) ∧
    decode 0x61150873 0 = some (.axor 8 21 1 0 1 3) := by decide

theorem test_decode_atomb :
    decode 0x67781843 0 = some (.amin 27 24 3 0 1 3) ∧
    decode 0x65D4EE17 0 = some (.amax 14 20 29 3 0 7) ∧
    decode 0x667B26A7 0 = some (.aminn 19 27 4 3 2 7) ∧
    decode 0x67A6A0BC 0 = some (.amaxn 29 6 20 0 2 12) := by decide

theorem test_decode_atomc :
    decode 0x6B5C1EC9 0 = some (.aswap 26 28 3 3 3 9) ∧
    decode 0x6AA48D17 0 = some (.acas 21 4 17 2 4 7) ∧
    decode 0x68000027 0 = some (.aaddf 0 0 0 0 0 7) := by decide

theorem test_decode_atomf :
    decode 0x6C632A07 0 = some (.afaddF64 3 3 5 1 0 7) ∧
    decode 0x6DFE0013 0 = some (.afmaxF64 15 30 0 0 0 3) ∧
    decode 0x6C60F227 0 = some (.afaddF32 3 0 30 1 0 7) ∧
    decode 0x6DBB14F3 0 = some (.afmaxF32 13 27 2 2 3 3) := by decide

theorem test_decode_wread :
    decode 0x732B9007 0 = some (.wread 25 11 18 7) := by decide

theorem test_decode_wupd :
    decode 0x767CC807 0 = some (.wadd 19 28 25 7) ∧
    decode 0x76D0B207 0 = some (.wset 22 16 22 7) ∧
    decode 0x7541E407 0 = some (.wmax 10 1 28 7) := by decide

theorem test_decode_wlap :
    decode 0x7AD60007 0 = some (.wlap 22 22 7) := by decide

theorem test_decode_vfa :
    decode 0x833A8007 0 = some (.vadd 25 26 16 0 7) ∧
    decode 0x83744187 0 = some (.vsub 27 20 8 1 7) ∧
    decode 0x820F8A87 0 = some (.vmul 16 15 17 1 7) ∧
    decode 0x83933B87 0 = some (.vmin 28 19 7 1 7) ∧
    decode 0x81630407 0 = some (.vmax 11 3 0 0 7) ∧
    decode 0x80E27D87 0 = some (.vdiv 7 2 15 1 7) := by decide

theorem test_decode_vfu :
    decode 0x844FF807 0 = some (.vfma 2 15 31 0 7) ∧
    decode 0x864D2987 0 = some (.vfms 18 13 5 1 7) ∧
    decode 0x85E69207 0 = some (.vfnma 15 6 18 0 7) ∧
    decode 0x84A40307 0 = some (.vabs 5 4 0 7) ∧
    decode 0x84570487 0 = some (.vneg 2 23 1 7) ∧
    decode 0x84BE0507 0 = some (.vsqrt 5 30 0 7) := by decide

theorem test_decode_vsf :
    decode 0x8B4F0007 0 = some (.vrcp 26 15 7) ∧
    decode 0x8A5E0107 0 = some (.vrsqrt 18 30 7) ∧
    decode 0x8ABB0207 0 = some (.vexp2 21 27 7) ∧
    decode 0x89090307 0 = some (.vlog2 8 9 7) ∧
    decode 0x8BE50407 0 = some (.vsin 31 5 7) ∧
    decode 0x8B340507 0 = some (.vcos 25 20 7) := by decide

theorem test_decode_via :
    decode 0x8C5ED087 0 = some (.viadd 2 30 26 1 7) ∧
    decode 0x8EE62187 0 = some (.visub 23 6 4 1 7) ∧
    decode 0x8E2B5A87 0 = some (.vimul 17 11 11 1 7) ∧
    decode 0x8ECA33C7 0 = some (.vimin 22 10 6 1 1 7) ∧
    decode 0x8C3C6C87 0 = some (.vimax 1 28 13 1 0 7) := by decide

theorem test_decode_vls :
    decode 0x92B0F087 0 = some (.vand 21 16 30 1 7) ∧
    decode 0x90E5F187 0 = some (.vor 7 5 30 1 7) ∧
    decode 0x923C0A07 0 = some (.vxor 17 28 1 0 7) ∧
    decode 0x93914387 0 = some (.vshl 28 17 8 1 7) ∧
    decode 0x90EAB407 0 = some (.vshr 7 10 22 0 7) ∧
    decode 0x90DA4587 0 = some (.vsra 6 26 8 1 7) := by decide

theorem test_decode_vcmp :
    decode 0x94D99097 0 = some (.vcmp 6 25 18 1 1 7) ∧
    decode 0x9479B103 0 = some (.vicmp 0 3 25 22 0 0 3) ∧
    decode 0x9441AAF7 0 = some (.vsel 2 1 21 1 7 7) := by decide

theorem test_decode_vcvt :
    decode 0x9AE5E047 0 = some (.vcvt 23 5 28 2 0 7) := by decide

theorem test_decode_vq :
    decode 0x9EC7D857 0 = some (.vqdec 22 7 27 5 7) ∧
    decode 0x9FBE7127 0 = some (.vqenc 29 30 14 2 7) := by decide

theorem test_decode_vpk :
    decode 0xA1750057 0 = some (.vpack 11 21 1 1 7) ∧
    decode 0xA1350149 0 = some (.vunpk 9 21 1 0 9) := by decide

theorem test_decode_vmov :
    decode 0xA7DA0007 0 = some (.vbcast 30 26 0 7) ∧
    decode 0xA48B0167 0 = some (.vmovx 4 11 6 7) ∧
    decode 0xA69E6A07 0 = some (.vperm 20 30 13 7) ∧
    decode 0xA42CB327 0 = some (.vshuf 1 12 22 2 7) := by decide

theorem test_decode_vrs :
    decode 0xA9D70017 0 = some (.vred 14 23 0 0 1 7) ∧
    decode 0xA92E01A7 0 = some (.vscan 9 14 1 0 2 7) := by decide

theorem test_decode_vsel :
    decode 0xAD46A847 0 = some (.vtopk 10 6 21 4 7) ∧
    decode 0xAC202107 0 = some (.vpairk 1 0 4 0 7) := by decide

theorem test_decode_voptu :
    decode 0xB3980009 0 = some (.voptu 28 24 9) := by decide

theorem test_decode_strm :
    decode 0xB4920007 0 = some (.scfg 4 18 7) ∧
    decode 0xB400D907 0 = some (.sbind 0 27 7) ∧
    decode 0xB4400207 0 = some (.sstop 2 7) := by decide

theorem test_decode_mmem :
    decode 0xC0081007 0 = some (.mlda 8 2 7) ∧
    decode 0xC0112207 0 = some (.mldb 17 4 7) ∧
    decode 0xC0C00407 0 = some (.mzero 6 7) ∧
    decode 0xC0530607 0 = some (.mst 2 19 7) ∧
    decode 0xC0710707 0 = some (.mstW 3 17 7) := by decide

theorem test_decode_mma :
    decode 0xC4652807 0 = some (.mmaE4e4 3 5 5 7) ∧
    decode 0xC4E20087 0 = some (.mmaE4e5 7 2 0 7) ∧
    decode 0xC4821107 0 = some (.mmaE5e4 4 2 2 7) ∧
    decode 0xC4803187 0 = some (.mmaE5e5 4 0 6 7) ∧
    decode 0xC4030A07 0 = some (.mmaQ4e4 0 3 1 7) ∧
    decode 0xC4600287 0 = some (.mmaBf 3 7) ∧
    decode 0xC4800307 0 = some (.mmaHf 4 7) ∧
    decode 0xC4400387 0 = some (.mmaF32 2 7) ∧
    decode 0xC4600407 0 = some (.mmaF64 3 7) ∧
    decode 0xC4200487 0 = some (.mmaI8 1 7) := by decide

theorem test_decode_rmma :
    decode 0xC8032007 0 = some (.rmmaE4e4 3 4 7) ∧
    decode 0xC8062887 0 = some (.rmmaE4e5 6 5 7) ∧
    decode 0xC8023107 0 = some (.rmmaE5e4 2 6 7) ∧
    decode 0xC8030987 0 = some (.rmmaE5e5 3 1 7) ∧
    decode 0xC8020207 0 = some (.rmmaQ4e4 2 0 7) ∧
    decode 0xC8000287 0 = some (.rmmaBf 7) ∧
    decode 0xC8000307 0 = some (.rmmaHf 7) ∧
    decode 0xC8000387 0 = some (.rmmaF32 7) ∧
    decode 0xC8000487 0 = some (.rmmaI8 7) := by decide

theorem test_decode_mctl :
    decode 0xCC000007 0 = some (.mgang 7) ∧
    decode 0xCC000107 0 = some (.mwait 7) ∧
    decode 0xCDE39207 0 = some (.mrd 15 3 18 7) ∧
    decode 0xCCF74B07 0 = some (.mwr 7 23 9 7) ∧
    decode 0xCCA00407 0 = some (.mclaim 5 7) ∧
    decode 0xCC200507 0 = some (.mfree 1 7) ∧
    decode 0xCC510607 0 = some (.eset 2 17 7) ∧
    decode 0xCF020707 0 = some (.erd 24 2 7) := by decide

theorem test_decode_que :
    decode 0xD0680007 0 = some (.qpush 3 8 7) ∧
    decode 0xD2830207 0 = some (.qpop 20 3 7) ∧
    decode 0xD2803407 0 = some (.qnpush 20 0 6 7) ∧
    decode 0xD2210607 0 = some (.qcnt 17 1 7) := by decide

theorem test_decode_msg :
    decode 0xDBCD3077 0 = some (.send 30 13 6 3 1 7) ∧
    decode 0xD864C1E7 0 = some (.sendl 3 4 24 7 7) ∧
    decode 0xDA5ACA47 0 = some (.hop 18 26 25 2 7) ∧
    decode 0xDB92E369 0 = some (.hopV 28 18 28 3 9) := by decide

theorem test_decode_spawn :
    decode 0xDC125887 0 = some (.spawn 18 11 4 7) ∧
    decode 0xDDAF9147 0 = some (.spawnn 13 15 18 2 7) := by decide

theorem test_decode_task :
    decode 0xE0000007 0 = some (.commit 7) ∧
    decode 0xE0000087 0 = some (.done 7) ∧
    decode 0xE0000107 0 = some (.yield 7) ∧
    decode 0xE0000197 0 = some (.prio 1 7) ∧
    decode 0xE0000207 0 = some (.umask 7) ∧
    decode 0xE0000287 0 = some (.unmask 7) ∧
    decode 0xE0040307 0 = some (.cntadd 4 7) ∧
    decode 0xE00C0387 0 = some (.cancel 12 7) := by decide

theorem test_decode_wait :
    decode 0xE5490007 0 = some (.waitc 10 9 7) ∧
    decode 0xE5671A07 0 = some (.waitm 11 7 3 7) := by decide

theorem test_decode_sync :
    decode 0xE8200049 0 = some (.fence 1 1 9) ∧
    decode 0xE8000207 0 = some (.drain 0 7) ∧
    decode 0xE8030407 0 = some (.bar 3 7) := by decide

theorem test_decode_eng :
    decode 0xEC1F0007 0 = some (.twalk 31 0 7) ∧
    decode 0xEC010107 0 = some (.twb 1 0 7) ∧
    decode 0xEC080217 0 = some (.tdeal 8 1 7) ∧
    decode 0xEC160317 0 = some (.permit 22 1 7) ∧
    decode 0xEF0E5C07 0 = some (.pklook 24 14 11 7) ∧
    decode 0xECFB2507 0 = some (.pkres 7 27 4 7) ∧
    decode 0xED450E07 0 = some (.pkscore 10 5 1 7) ∧
    decode 0xEFB7D707 0 = some (.pkgw 29 23 26 7) := by decide

theorem test_decode_sysa :
    decode 0xF0404089 0 = some (.srd 2 8 8 9) ∧
    decode 0xF01A0187 0 = some (.swr 26 0 8 7) ∧
    decode 0xF0120207 0 = some (.trap 18 7) ∧
    decode 0xF01A3B07 0 = some (.eret 26 7 7) := by decide

theorem test_decode_sysb :
    decode 0xF4145807 0 = some (.tlbwWrite 0 20 11 7) ∧
    decode 0xF55AB017 0 = some (.tlbwAbsent 10 26 22 7) ∧
    decode 0xF6C9D027 0 = some (.tlbwDeny 22 9 26 7) ∧
    decode 0xF41C0107 0 = some (.tlbiPage 28 7) ∧
    decode 0xF41B0117 0 = some (.tlbiAsid 27 7) ∧
    decode 0xF4000127 0 = some (.tlbiAll 0 7) ∧
    decode 0xF4706207 0 = some (.tlbp 3 16 12 7) ∧
    decode 0xF40A0307 0 = some (.idle 10 7) ∧
    decode 0xF5EB0407 0 = some (.wfm 15 11 7) ∧
    decode 0xF4180507 0 = some (.haltcFence 24 7) ∧
    decode 0xF4000517 0 = some (.haltcUnfence 0 7) ∧
    decode 0xF5250607 0 = some (.selft 9 5 7) := by decide
/-- R93: the long forms, with their second words. -/
theorem test_decode_long :
    decode 0xFC0B8007 0x00007F01 = some (.liw 23 7 0x7F01) ∧
    decode 0xFC100003 0xFFFFFFFE = some (.calll 3 0xFFFFFFFE) ∧
    decode 0xFC219307 0x44FFFFF8 = some (.ldLong 3 4 3 7 2 1 0 0xFFFFF8) ∧
    decode 0xFC3A5207 0x00000004 = some (.ldnLong 20 20 2 7 0 0 0 4) ∧
    decode 0xFC4FFC05 0x88000001 = some (.stLong 31 31 0 5 4 2 0 1) ∧
    decode 0xFC500807 0x71000040 = some (.ldvLong 0 2 7 3 4 1 0x40) ∧
    decode 0xFC60CC07 0x48000000 = some (.stvLong 1 19 7 2 2 0 0) ∧
    decode 0xFC711487 0x00000006 = some (.ldvsLong 2 5 1 7 0 0 0 6) ∧
    decode 0xFC811401 0x02000007 = some (.stvsLong 2 5 0 1 0 0 2 7) ∧
    decode 0xFC9114C7 0x44000003 = some (.vgatherLong 2 5 1 2 7 2 1 0 3) ∧
    decode 0xFCA11467 0x28000004 = some (.vscatterLong 2 5 0 3 7 1 2 0 4) ∧
    decode 0xFCB02C07 0x01800000 = some (.prefLong 11 7 1 0x800000) ∧
    decode 0xFC0B8017 0x00007F01 = none ∧ decode 0xFC0BBC07 0 = none ∧ decode 0xFC219307 0x4CFFFFF8 = none := by decide

/-! ### Single steps -/

/-- The package right after reset with an instruction at the place its next step fetches, slot 0 changed by `f`. -/
def placed (i : Instr) (f : Slot → Slot) : State :=
  let w := (encode i).foldr (fun x n => x.toNat + 2 ^ 32 * n) 0
  (State.reset.withFetchWord 64 w).mod f

/-- The state a step leaves; the state itself where it leaves none. -/
def after (s : State) : State :=
  match step s with
  | .next t => t
  | _ => s

def one (i : Instr) (f : Slot → Slot) : State := after (placed i f)

def setX (l : List (BitVec 5 × W64)) (t : Slot) : Slot := l.foldl (fun t p => { t with x := RegFile.write t.x p.1 p.2 }) t
def setP (l : List (BitVec 3 × BitVec 16)) (t : Slot) : Slot := l.foldl (fun t p => { t with p := RegFile.write t.p p.1 p.2 }) t
/-- Every 32-bit lane `i` of V[r] is `f i`. -/
def setV32 (r : BitVec 5) (f : Nat → BitVec 32) (t : Slot) : Slot :=
  { t with v := RegFile.write t.v r (BitVec.ofNat 512 (packDigits 32 f 16)) }
/-- The trap the step took: the cause and TRAPVAL of the saved task. -/
def trapOf (s : State) : Option (Cause × W64) := (tfind s.saved 1).bind (·.trap)
def x5 (i : Instr) (l : List (BitVec 5 × W64)) : W64 := (one i (setX l)).x 5

/-- R99's table. -/
theorem test_div_table :
    x5 (.div 5 6 7 2 0 7) [(6, 7)] = 0xFFFFFFFFFFFFFFFF ∧ x5 (.divn 5 6 7 2 1 7) [(6, 7)] = 0x00000000FFFFFFFF ∧
    x5 (.rem 5 6 7 2 0 7) [(6, 7)] = 7 ∧
    x5 (.div 5 6 7 2 0 7) [(6, 0x80000000), (7, 0xFFFFFFFF)] = 0xFFFFFFFF80000000 ∧
    x5 (.rem 5 6 7 3 0 7) [(6, -7), (7, 2)] = -1 := by decide +kernel

/-- R99's table. -/
theorem test_shift_table :
    x5 (.shl 5 6 7 2 0 7) [(6, 1), (7, 33)] = 2 ∧ x5 (.sra 5 6 7 1 1 7) [(6, 0x8000), (7, 1)] = 0xC000 ∧
    x5 (.clz 5 6 2 0 7) [(6, 0)] = 32 := by decide +kernel

/-- R98: an addition that wraps at W = 32 and is widened by the sign, and by zeros. -/
theorem test_add_wraps :
    x5 (.add 5 6 7 2 0 7) [(6, 0x7FFFFFFF), (7, 1)] = 0xFFFFFFFF80000000 ∧
    x5 (.add 5 6 7 2 1 7) [(6, 0xFFFFFFFF), (7, 0x80000001)] = 0x0000000080000000 ∧
    (one (.add 5 6 7 2 0 7) id).pc = 0x10004 := by decide +kernel

/-- R98: source and destination the same; high products of −2 × 3. -/
theorem test_mul :
    (one (.mul 6 6 6 3 0 7) (setX [(6, 0x100000001)])).x 6 = 0x200000001 ∧
    x5 (.mulh 5 6 7 3 0 7) [(6, -2), (7, 3)] = -1 ∧ x5 (.mulhn 5 6 7 3 0 7) [(6, -2), (7, 3)] = 2 := by decide +kernel

/-- R98: signed and unsigned minimum, byte reversal, rotation, counts. -/
theorem test_alu_rest :
    x5 (.min 5 6 7 3 0 7) [(6, -1), (7, 1)] = -1 ∧ x5 (.minn 5 6 7 3 0 7) [(6, -1), (7, 1)] = 1 ∧
    x5 (.bswap 5 6 1 1 7) [(6, 0x1234)] = 0x3412 ∧ x5 (.rol 5 6 7 0 1 7) [(6, 0x81), (7, 1)] = 0x03 ∧
    x5 (.popc 5 6 1 0 7) [(6, 0x1FF03)] = 10 ∧ x5 (.ctz 5 6 3 0 7) [(6, 0x50)] = 4 ∧
    x5 (.andn 5 6 7 3 0 7) [(6, 0xFF), (7, 0x0F)] = 0xF0 := by decide +kernel

/-- R73, R83: x0 discards a write; a guard bit of 0 leaves the register. -/
theorem test_guard_and_zero :
    (one (.addi 0 0 5 7) id).x 0 = 0 ∧ (one (.addi 5 0 5 1) (setX [(5, 9)])).x 5 = 9 ∧
    (one (.addi 5 0 5 9) (setX [(5, 9)])).x 5 = 5 ∧ (one (.addi 5 0 5 1) id).pc = 0x10004 := by decide +kernel

/-- R100, R101: immediates and fields. -/
theorem test_immediates_and_fields :
    x5 (.addi 5 6 0xFF8 7) [(6, 3)] = -5 ∧ x5 (.andi 5 6 0x3FF 7) [(6, -1)] = 0x3FF ∧
    x5 (.liu 5 0x1FFFF 7) [] = 0xFFFFFFFFFFFF8000 ∧ x5 (.addpc 5 3 7) [] = 0x1000C ∧
    x5 (.srai 5 6 63 7) [(6, -1)] = -1 ∧ x5 (.extf 5 6 1 0 8 7) [(6, 0x900000)] = 0xFFFFFFFFFFFF9000 ∧
    x5 (.insf 5 6 0 1 56 7) [(5, 1), (6, 0xABCD)] = 0xCD00000000000001 ∧
    x5 (.sext 5 6 0 7) [(6, 0x80)] = 0xFFFFFFFFFFFFFF80 ∧ x5 (.zext 5 6 2 7) [(6, -1)] = 0xFFFFFFFF := by decide +kernel

/-- R84, R102, R103: compares fill sixteen bits; a lane-guarded predicate keeps the bits its guard leaves out; p7 stays. -/
theorem test_predicates :
    (one (.cmp 1 6 7 3 0 2 7) (setX [(6, -1), (7, 1)])).p 1 = 0xFFFF ∧
    (one (.cmp 1 6 7 3 1 2 7) (setX [(6, -1), (7, 1)])).p 1 = 0 ∧
    (one (.cmpi 0 2 6 5 0x1FF 7) (setX [(6, -1)])).p 2 = 0xFFFF ∧
    (one (.pand 2 0 1 2) (setP [(0, 0xFFFF), (1, 0x0F0F), (2, 0x00FF)])).p 2 = 0x000F ∧
    (one (.pnot 7 0 7) id).p 7 = 0xFFFF ∧ (one (.pmovx 5 1 7) (setP [(1, 0x8001)])).x 5 = 0x8001 ∧
    (one (.sel 5 6 7 1 7) (fun t => setX [(6, 1), (7, 2)] (setP [(1, 0xFFFE)] t))).x 5 = 2 := by decide +kernel

/-- R105 to R109: 1 + 2, 1 / 0 with DZ, −0 below +0, a NaN comparison, a conversion with its flag, an enabled flag traps. -/
theorem test_scalar_float :
    x5 (.fadd 5 6 7 0 7) [(6, 0x3FF0000000000000), (7, 0x4000000000000000)] = 0x4008000000000000 ∧
    x5 (.fdiv 5 6 7 1 7) [(6, 0x3F800000)] = 0x7F800000 ∧
    (one (.fdiv 5 6 7 1 7) (setX [(6, 0x3F800000)])).slot.fsr = 0x08 ∧
    x5 (.fmin 5 6 7 1 7) [(6, 0x80000000)] = 0x80000000 ∧
    (one (.fcmp 1 1 6 7 1 7) (setX [(6, 0x7FC00000)])).p 1 = 0xFFFF ∧
    x5 (.fcvt 5 6 1 4 7) [(6, 0x40200000)] = 2 ∧
    trapOf (one (.fdiv 5 6 7 1 7) (fun t => { setX [(6, 0x3F800000)] t with fen := 0x08 })) = some (.fp, 0x08) := by
  decide +kernel

/-- R110: targets count from the first word; the calls leave the address behind them in x31; JR off a word traps ALIGN. -/
theorem test_control_flow :
    (one (.br 0x3FFFFE 7) id).pc = 0xFFF8 ∧ (one (.call 2 7) id).x 31 = 0x10004 ∧ (one (.call 2 7) id).pc = 0x10008 ∧
    (one (.calll 7 0xFFFFFFFF) id).x 31 = 0x10008 ∧ (one (.calll 7 0xFFFFFFFF) id).pc = 0xFFFC ∧
    (one (.jr 6 7) (setX [(6, 0x10040)])).pc = 0x10040 ∧
    trapOf (one (.jr 6 7) (setX [(6, 0x10042)])) = some (.align, 0x10042) ∧
    x5 (.liw 5 7 0xFFFEEE90) [] = -70000 ∧ (one (.liw 5 7 0) id).pc = 0x10008 := by decide +kernel

/-- R86: the all-zero word and a worker's SRD of a system register trap with the word as TRAPVAL. -/
theorem test_traps :
    trapOf (after (State.reset.withFetchWord 64 0)) = some (.illegal, 0) ∧
    trapOf (one (.srd 5 0 8 7) id) = some (.priv, 0xF0A00087) ∧ trapOf (one (.trap 6 7) (setX [(6, 77)])) = some (.brk, 77) ∧
    trapOf (one (.idle 6 0) id) = some (.priv, 0xF4060300) := by decide +kernel

/-- R77, R78: the source number of slot 0 of core 0; RNRLIM stores 1 for 0; LAUNCH is read only. -/
theorem test_special_registers :
    x5 (.srd 5 0 0 7) [] = 0 ∧ x5 (.srd 5 8 0 7) [] = 8 ∧ (one (.swr 6 8 0 7) id).slot.rnrlim = 1 ∧
    (one (.swr 6 5 0 7) (setX [(6, -1)])).slot.fsr = 0x33F ∧ (trapOf (one (.swr 6 2 0 7) id)).map (·.1) = some .perm := by
  decide +kernel

/-- A store and what it leaves in the cluster's view of memory. -/
def stored (i : Instr) (l : List (BitVec 5 × W64)) (a : Nat) : BitVec 8 := (one i (setX l)).seenByte 0 a

/-- R8, R111, R112: little-endian stores and widened loads; a misaligned address traps ALIGN, one outside the space ADDR. -/
theorem test_loads_and_stores :
    stored (.st 5 6 1 2 7) [(5, 0x11223344), (6, 0x11000)] 0x11004 = 0x44 ∧
    stored (.st 5 6 1 2 7) [(5, 0x11223344), (6, 0x11000)] 0x11007 = 0x11 ∧
    x5 (.ld 5 6 0 1 7) [(6, 0x10000)] = 0x17 ∧
    x5 (.ldn 5 6 0x3FF 0 7) [(6, 0x10004)] = 0x44 ∧
    trapOf (one (.ld 5 6 0 3 7) (setX [(6, 0x10004)])) = some (.align, 0x10004) ∧
    trapOf (one (.ld 5 6 0x3FF 3 7) (setX [(6, 0)])) = some (.addr, -8) := by decide +kernel

/-- R116: the old value goes to X[d] and the sum stands in memory; ACAS compares with X[d]. -/
theorem test_atomics :
    x5 (.aadd 5 6 7 0 2 7) [(6, 0x11000), (7, 5)] = 0 ∧ stored (.aadd 5 6 7 0 2 7) [(6, 0x11000), (7, 5)] 0x11000 = 5 ∧
    stored (.acas 5 6 7 0 2 7) [(5, 0), (6, 0x11000), (7, 9)] 0x11000 = 9 ∧
    stored (.acas 5 6 7 0 2 7) [(5, 1), (6, 0x11000), (7, 9)] 0x11000 = 0 := by decide +kernel

/-- R181, R184, R187, R188: lanes under a predicate guard. -/
theorem test_vector_lanes :
    laneOf 32 ((one (.vadd 1 2 3 0 7) (fun t => setV32 2 (fun _ => 0x3F800000) (setV32 3 (fun _ => 0x40000000) t))).v 1) 15
      = 0x40400000 ∧
    (let t := one (.viadd 1 2 3 0 1) (fun t => setP [(1, 2)] (setV32 1 (fun _ => 9) (setV32 2 (fun i => BitVec.ofNat 32 i) t)))
     laneOf 32 (t.v 1) 0 = 9 ∧ laneOf 32 (t.v 1) 1 = 1) ∧
    (one (.vcmp 1 2 3 0 2 7) (setV32 3 (fun i => if i = 3 then 0x3F800000 else 0))).p 1 = 8 ∧
    laneOf 32 ((one (.vbcast 1 6 0 7) (setX [(6, 7)])).v 1) 15 = 7 := by decide +kernel

/-- R195, R197, R199: movement, and the sum of sixteen ones. -/
theorem test_vector_moves :
    (let t := one (.vshuf 1 2 3 0 7) (fun t => setV32 2 (fun i => BitVec.ofNat 32 i) (setV32 3 (fun i => BitVec.ofNat 32 (16 + i)) t))
     laneOf 32 (t.v 1) 0 = 0 ∧ laneOf 32 (t.v 1) 1 = 16 ∧ laneOf 32 (t.v 1) 15 = 23) ∧
    (one (.vred 5 6 0 0 0 7) (setV32 6 (fun _ => 0x3F800000))).x 5 = 0x41800000 ∧
    (one (.vmovx 5 6 15 7) (setV32 6 (fun i => BitVec.ofNat 32 (100 + i)))).x 5 = 115 := by decide +kernel

/-- R143's example: S = 3.0 and code 127: index 13 decodes to 0x3F5C8000, index 1 to 0xBF870000. -/
theorem test_vqdec :
    (let t := one (.vqdec 1 2 6 0 7) (fun t => setX [(6, 0x7F40400000)] (setV32 2 (fun _ => 0x1D) t))
     laneOf 32 (t.v 1) 0 = 0x3F5C8000 ∧ laneOf 32 (t.v 1) 1 = 0xBF870000) := by decide +kernel

/-- R253, R258: a block store under a guard, and a gather of bytes by an index. -/
theorem test_vector_memory :
    (let t := one (.stv 1 6 1 1) (fun t => setX [(6, 0x11000)] (setP [(1, 2)] (setV32 1 (fun i => BitVec.ofNat 32 (i + 1)) t)))
     t.seenByte 0 0x11040 = 0 ∧ t.seenByte 0 0x11044 = 2 ∧ t.seenByte 0 0x11048 = 0) ∧
    laneOf 32 ((one (.vgather 1 6 3 0 2 7) (fun t => setX [(6, 0x10000)] (setV32 3 (fun i => if i = 2 then 0 else 1) t))).v 1) 2
      = 0x54261C87 := by decide +kernel

/-- R122, R123: a push and what QPOP waits for; R376: a command queues; R380: scale registers. -/
theorem test_queues_and_matrix :
    RegFile.read ((one (.qpush 1 6 7) (setX [(6, 42)])).coreAt 0).q 1 = [42] ∧
    ((one (.qpop 5 1 7) id).slot.wait.map (·.kind)) = some 3 ∧
    (one (.eset 1 6 7) (setX [(6, 0x40000000)])).e 1 = 0x40000000 ∧
    trapOf (one (.mzero 0 7) id) = some (.illegal, 0xC0000407) := by decide +kernel

/-- R42: DONE ends the task; R132: YIELD with no other ready slot goes on; R46: PRIO sets the class. -/
theorem test_tasks :
    (one (.done 7) id).slot.task.isNone ∧ (one (.yield 7) id).pc = 0x10004 ∧ (one (.prio 3 7) id).slot.prio = 3 ∧
    ((one (.umask 7) id).coreAt 0).opener = some 0 := by decide +kernel

/-- R133, R224, R268: a WAITC tag of more than 16 bits traps; FENCE retires; a barrier of one retires at once. -/
theorem test_waits :
    (trapOf (one (.waitc 5 6 7) (setX [(6, 0x10000)]))).map (·.1) = some .illegal ∧ (one (.fence 2 3 7) id).pc = 0x10004 ∧
    (one (.bar 6 7) (setX [(6, 0x100)])).pc = 0x10004 := by decide +kernel

/-! ### Witnesses: a state and operands that meet the hypotheses of each statement, clause by clause -/

/-- A worker slot of core 0 with a started, committed task; the page at 0x10000 is mapped. -/
def wk : State := State.reset.withFetchWord 64 0
def wx (l : List (BitVec 5 × W64)) : State := wk.mod (setX l)
/-- The same with every floating-point event enabled. -/
def wtrap (l : List (BitVec 5 × W64)) : State := (wx l).mod (fun t => { t with fen := 0x3F })
/-- The same with stream 2 bound to v24 and its next element at hand, or a fault in its place. -/
def wbound (f : Option (Cause × W64)) : State :=
  wk.mod (fun t => { t with z := RegFile.write t.z 2 ⟨some ⟨0x10000, 1, 1, 1, 64, 64, 64, 0⟩, 0, 0, 0, some 24, true, [⟨0, f⟩]⟩ })

theorem witness_IntegerResults : (wx [(6, 1)]).runs 7 = true ∧ wk.runs 9 = true := by decide +kernel

theorem witness_ImmediateAndFieldResults : wk.runs 7 = true ∧ (wx [(6, -1)]).runs 15 = false := by decide +kernel

theorem witness_CompareAndPredicateResults : wk.runs 7 = true ∧ (5 : BitVec 3).toNat < 6 ∧ (0 : BitVec 3).toNat < 6 := by
  decide +kernel

theorem witness_ScalarFloatResults : wk.runs 7 = true ∧ (0 : BitVec 3).toNat < 2 ∧ (1 : BitVec 3).toNat < 2 ∧
    wk.fpTraps (faddR fp64 wk.rm 0 0).2 = false ∧
    (wtrap []).fpTraps (fdivR fp32 .rne (unpack fp32 0x3F800000) (unpack fp32 0)).2 = true ∧
    wk.fpTraps (fcmpR fp32 0 0 0).2 = false ∧ (wtrap []).fpTraps (fcmpR fp64 2 0x7FF8000000000000 0).2 = true := by
  decide +kernel

theorem witness_ControlFlow : (wx [(6, 0x10040)]).runs 7 = true ∧ ((wx [(6, 0x10040)]).x 6).toNat % 4 = 0 ∧
    (wx [(6, 0x10043)]).runs 7 = true ∧ ((wx [(6, 0x10043)]).x 6).toNat % 4 ≠ 0 := by decide +kernel

/-- The last aligned double word of the mapped page. -/
def ld0 : ScalarAccess := ⟨true, true, 5, 6, 0, 8, 0, 0, 0, 4, 7⟩
def st0 : ScalarAccess := ⟨false, false, 5, 6, 0, 8, 0, 0, 0, 4, 7⟩
def topWord : State := wx [(6, 0x1FFF8)]

theorem witness_ScalarLoads : scalarAccess (.ld 5 6 0 3 7) = some ld0 ∧ ld0.load = true ∧ Memory.wf topWord.mem = true ∧
    Allowed topWord ld0 0x1FFF8 (.hbm 0x1FFF8 false) ∧ (Place.hbm 0x1FFF8 false).away = none ∧ ld0.ord = 0 ∧ ld0.hint = 0 ∧
    (Place.hbm 0x1FFF8 false).here = true := by
  refine ⟨rfl, rfl, by decide +kernel, ?_, rfl, rfl, rfl, rfl⟩
  constructor <;> decide +kernel

theorem witness_ScalarStores : scalarAccess (.st 5 6 0 3 7) = some st0 ∧ st0.load = false ∧ Memory.wf topWord.mem = true ∧
    Allowed topWord st0 0x1FFF8 (.hbm 0x1FFF8 false) ∧ (Place.hbm 0x1FFF8 false).here = true := by
  refine ⟨rfl, rfl, by decide +kernel, ?_, rfl⟩
  constructor <;> decide +kernel

/-- The page of that word was refused to the task; or its block was found uncorrectable. -/
def refused : State := topWord.mod (fun t => { t with deny := [vpnOf 0x1FFF8] })
def spoilt : State := topWord.input (.poison (0x1FFF8 / 64))

/-- A placement names package 1 as the home of the 2 MiB at 0x200000. -/
def away : State := (wx [(6, 0x200038)]).modCore 0 (fun c => { c with
  tlb := tlbInsert 16 64 c.tlb ⟨BitVec.ofNat 64 (2 ^ 63 + 2 ^ 60 + 0x200000), BitVec.ofNat 64 (2 ^ 62 + 2 ^ 16), 0⟩ })
def ldBack : ScalarAccess := ⟨true, true, 5, 6, -8, 8, 0, 0, 0, 4, 7⟩

theorem witness_ScalarAccessOutcomes :
    (scalarAccess (.ld 5 6 0x3FF 3 7) = some ldBack ∧ (wx [(6, 7)]).runs 7 = true ∧ (((wx [(6, 7)]).x 6).toNat : Int) + (-8) < 0) ∧
    (scalarAccess (.ld 5 6 0 3 7) = some ld0 ∧ (wx [(6, 0x0100000000000000)]).runs 7 = true ∧
      addrFault 0x0100000000000000 8 = true) ∧
    (addrFault 0x1FFF9 8 = false ∧ (0x1FFF9 : W64).toNat % 8 ≠ 0 ∧ (wx [(6, 0x1FFF9)]).runs 7 = true) ∧
    (addrFault 0x7F0000070000 8 = false ∧ (0x7F0000070000 : W64).toNat % 8 = 0 ∧ (0 : Int) % 8 = 0 ∧
      (wx [(6, 0x7F0000070000)]).translate 0 0 .read 0x7F0000070000 8 = .fault .perm) ∧
    ((wx [(6, 0x20000)]).translate 0 0 .read 0x20000 8 = .miss ∧ (wx [(6, 0x20000)]).pageRefused 0x20000 = false ∧
      vpnOf 0x1FFF8 ∈ refused.slot.deny ∧ ∀ c, refused.translate 0 0 .read 0x1FFF8 8 ≠ .fault c) ∧
    (spoilt.translate 0 0 .read 0x1FFF8 8 = .ok (.hbm 0x1FFF8 false) ∧ vpnOf 0x1FFF8 ∉ spoilt.slot.deny ∧
      spoilt.hostHolds (.hbm 0x1FFF8 false) 8 = false ∧ spoilt.spoiled (.hbm 0x1FFF8 false) 8 = true) ∧
    (Allowed away ld0 0x200038 (.remote 1) ∧ (Place.remote 1).away = some (none, 1) ∧ ld0.ord = 0) := by
  refine ⟨⟨rfl, by decide +kernel⟩, ⟨rfl, by decide +kernel⟩, by decide +kernel, by decide +kernel,
    ⟨by decide +kernel, by decide +kernel, by decide +kernel, ?_⟩, by decide +kernel, ?_, rfl, rfl⟩
  · intro c
    have h : refused.translate 0 0 .read 0x1FFF8 8 = .ok (.hbm 0x1FFF8 false) := by decide +kernel
    rw [h]; nofun
  constructor <;> decide +kernel

def aadd0 : Atomic := ⟨.int .add, 5, 6, 7, 0, 2, 7⟩
def aaddf0 : Atomic := ⟨.int .addf, 5, 6, 7, 3, 2, 7⟩

/-- A record at 0x11000 whose counter is 1 and whose handler is 0x10000, and an operand of −1 or of 1: it fires or not. -/
def record (b : W64) : State :=
  let s := wx [(6, 0x11000), (7, b)]
  { s with mem := memWrite (memWrite s.mem 0x11000 8 255 1) 0x11008 8 255 0x10000 }

theorem witness_Atomics :
    (atomicOf (.aadd 5 6 7 0 2 7) = some aadd0 ∧ aadd0.kind ≠ .int .addf ∧ Memory.wf topWord.mem = true ∧
      AtomicAllowed topWord topWord aadd0 (.hbm 0x1FFF8 false)) ∧
    (Memory.wf (record (-1)).mem = true ∧ AtomicAllowed (record (-1)) (record (-1)) aaddf0 (.hbm 0x11000 false) ∧
      imageBad 0x10000 = false ∧ (1 : W64) + (record (-1)).x 7 = 0 ∧ (record (-1)).x 7 ≠ 0 ∧
      (record (-1)).isCancelled 0 0 = false) ∧
    (AtomicAllowed (record 1) (record 1) aaddf0 (.hbm 0x11000 false) ∧ ¬ ((1 : W64) + (record 1).x 7 = 0)) := by
  have commits : ∀ s : State, s.slot.cmtd = true → s.commit = .ok s := by
    intro s h; unfold State.commit; simp [h]
  refine ⟨⟨rfl, by decide +kernel, by decide +kernel, ?_⟩, ⟨by decide +kernel, ?_, by decide +kernel⟩, ?_, by decide +kernel⟩
  all_goals
    constructor
    all_goals first | decide +kernel | exact commits _ (by decide +kernel)

/-- A completion of tag 5 with status 9 waits at the task. -/
def completed : State := (wx [(6, 5)]).mod (fun t => { t with compl := [(4, 1), (5, 9)] })

theorem witness_WaitResults :
    ((wx [(6, 0x10000)]).runs 7 = true ∧ 2 ^ 16 ≤ ((wx [(6, 0x10000)]).x 6).toNat) ∧
    (completed.runs 7 = true ∧ (completed.x 6).toNat < 2 ^ 16 ∧
      completed.slot.compl.find? (fun e => e.1 == (completed.x 6).setWidth 16) = some (5, 9)) ∧
    (((wx [(6, 0xFFFF)]).x 6).toNat < 2 ^ 16 ∧
      (wx [(6, 0xFFFF)]).slot.compl.find? (fun e => e.1 == ((wx [(6, 0xFFFF)]).x 6).setWidth 16) = none) ∧
    (topWord.runs 7 = true ∧ Memory.wf topWord.mem = true ∧ addrFault (topWord.x 6) 8 = false ∧ (topWord.x 6).toNat % 8 = 0 ∧
      topWord.translate 0 0 .read (topWord.x 6) 8 = .ok (.hbm 0x1FFF8 false) ∧
      topWord.hostHolds (.hbm 0x1FFF8 false) 8 = false ∧ topWord.spoiled (.hbm 0x1FFF8 false) 8 = false ∧
      vpnOf (topWord.x 6) ∉ topWord.slot.deny ∧
      (let t := ((topWord.touchTlb 0 0 (topWord.x 6)).acquire 0 2).dropAhead 0
       BitVec.ofNat 64 (t.readPlace 0 (t.coreAt 0).stale 0 (.hbm 0x1FFF8 false) 8).1 = topWord.x 7)) ∧
    (let s := wx [(6, 0x10000)]
     s.runs 7 = true ∧ s.translate 0 0 .read (s.x 6) 8 = .ok (.hbm 0x10000 false) ∧
      (let t := ((s.touchTlb 0 0 (s.x 6)).acquire 0 2).dropAhead 0
       BitVec.ofNat 64 (t.readPlace 0 (t.coreAt 0).stale 0 (.hbm 0x10000 false) 8).1 ≠ (1 : W64))) := by decide +kernel

/-- A failure mark stands at the task. -/
def failed : State := wk.mod (fun t => { t with failCause := 9, failAddr := 0x11000 })
/-- Barrier 3 with a generation of COUNT 2 that task 9 has arrived at. -/
def barOpen : State := (wx [(6, 0x203)]).modCluster 0 (fun c => { c with bars := RegFile.write c.bars 3 (some ⟨0, 2, [9], 0, []⟩) })

/-- The same barrier with another generation: of launch 9, of COUNT 3, or of COUNT 3 with an arrival withdrawn in this cycle. -/
def barAt (b : Bar) : State := (wx [(6, 0x203)]).modCluster 0 (fun c => { c with bars := RegFile.write c.bars 3 (some b) })

theorem witness_FencesAndBarriers :
    (wk.runs 7 = true ∧ Memory.wf wk.mem = true ∧ wk.hostBlocks 0 2 = false ∧ ordRel 3 = true ∧ ordAcq 3 = true) ∧
    (wk.draining.isSome = false ∧ wk.drainSp wk.drainTiles = false ∧ wk.drainGl wk.drainMark = false ∧ wk.drainWg wk.drainMark = false ∧ wk.slot.failCause = 0) ∧
    (failed.runs 7 = true ∧ failed.drainWg failed.drainMark = false ∧ failed.slot.failCause ≠ 0) ∧
    ((wx [(6, 0x11F)]).worker = true ∧ barBad ((wx [(6, 0x11F)]).x 6) = false ∧ barCount ((wx [(6, 0x11F)]).x 6) = 1 ∧
      RegFile.read ((wx [(6, 0x11F)]).clusterAt 0).bars (barNum ((wx [(6, 0x11F)]).x 6)) = none) ∧
    (barBad ((wx [(6, 0xFF00)]).x 6) = false ∧ 1 < barCount ((wx [(6, 0xFF00)]).x 6) ∧
      RegFile.read ((wx [(6, 0xFF00)]).clusterAt 0).bars (barNum ((wx [(6, 0xFF00)]).x 6)) = none) ∧
    (barOpen.runs 7 = true ∧ (RegFile.read (barOpen.clusterAt 0).bars (barNum (barOpen.x 6))).filter (·.inUse barOpen.cyc) =
        some ⟨0, 2, [9], 0, []⟩ ∧ (0 : W32) = barOpen.slot.launch ∧ 2 = barCount (barOpen.x 6) ∧
      2 ≤ (⟨0, 2, [9], 0, []⟩ : Bar).counted barOpen.cyc + 1) ∧
    (let b : Bar := ⟨9, 2, [9], 0, []⟩
     (RegFile.read ((barAt b).clusterAt 0).bars (barNum ((barAt b).x 6))).filter (·.inUse 0) = some b ∧ b.launch ≠ (barAt b).slot.launch) ∧
    (let b : Bar := ⟨0, 3, [9], 0, []⟩
     (RegFile.read ((barAt b).clusterAt 0).bars (barNum ((barAt b).x 6))).filter (·.inUse 0) = some b ∧
      b.launch = (barAt b).slot.launch ∧ b.count ≠ barCount ((barAt b).x 6)) ∧
    (let b : Bar := ⟨0, 3, [9], 0, []⟩
     let s := (barAt b).mod (setX [(6, 0x303)])
     (RegFile.read (s.clusterAt 0).bars (barNum (s.x 6))).filter (·.inUse s.cyc) = some b ∧ b.count = barCount (s.x 6) ∧
      b.counted s.cyc + 1 < b.count ∧ s.cyc = 0) ∧
    (let b : Bar := ⟨0, 2, [], 0, [(8, 0)]⟩
     (RegFile.read ((barAt b).clusterAt 0).bars (barNum ((barAt b).x 6))).filter (·.inUse 0) = some b ∧
      b.count ≤ b.counted 0 + 1 ∧ b.inUse 1 = false) := by decide +kernel

theorem witness_CacheMaintenance :
    wk.runs 7 = true ∧ Memory.wf wk.mem = true ∧
    (let s := wx [(6, 0x1FFFF), (7, 1)]
     s.runs 7 = true ∧ (s.x 7).toNat ≤ 0x100000 ∧ addrFault (s.x 6) 1 = false ∧ s.rangePerm (s.x 6) 1 = false ∧
      (s.rangeLines [0x1FFC0]).toOption = some [] ∧ (s.x 6).toNat / 64 * 64 = 0x1FFC0 ∧ ((s.x 6).toNat % 64 + 1 + 63) / 64 = 1) ∧
    (let s := wx [(6, 0x20000), (7, 1)]
     addrFault (s.x 6) 1 = false ∧ s.translate 0 0 .read 0x20000 1 = .miss ∧ (s.pageReqOf 0 (vpnOf 0x20000)).isSome = false ∧
      s.pageRefused 0x20000 = false ∧
      (match s.rangeLines [0x20000] with | .error (.miss .read va) => va == 0x20000 | _ => false) = true) ∧
    (wx [(6, 0x1FFFF)]).translate 0 0 .read 0x1FFFF 1 = .ok (.hbm 0x1FFFF false) ∧
    (wx [(6, 0x1FFFF)]).hostHolds (.hbm 0x1FFFF false) 1 = false := by
  decide +kernel

/-! Vector instructions. -/

theorem unbound_wk (l : List (BitVec 5)) : wk.Unbound l := by
  have h : ∀ r, wk.slot.isBound r = false := by decide +kernel
  exact fun r _ => h r

theorem ready_wk (l : List (BitVec 5)) : wk.ElemsReady l := by
  have h : ∀ r k, wk.slot.boundTo r ≠ some k := by decide +kernel
  intro r _ k e; exact absurd e (h r k)

theorem ready_bound (l : List (BitVec 5)) : (wbound none).ElemsReady l := by
  have h : ∀ r k, (wbound none).slot.boundTo r = some k → k = 2 := by decide +kernel
  have d : (wbound none).slot.deny = [] := by decide +kernel
  intro r _ k e; rw [h r k e, d]; exact .inr ⟨by decide +kernel, fun _ _ => by simp⟩

theorem witness_VectorFloatResults :
    ((floatOp wk (.vadd 1 2 3 0 7)).isSome = true ∧ (floatOp wk (.vcvt 1 2 31 4 0 7)).isSome = true ∧ wk.Unbound [1] ∧
      wk.ElemsReady [2, 3] ∧ wk.fpTraps 0x3F = false) ∧
    ((floatOp (wbound none) (.vadd 1 24 24 0 7)).isSome = true ∧ (wbound none).Unbound [1] ∧ (wbound none).ElemsReady [24, 24]) ∧
    (wtrap []).fpTraps 0x08 = true := by
  refine ⟨⟨rfl, rfl, unbound_wk _, ready_wk _, by decide +kernel⟩, ⟨rfl, ?_, ready_bound _⟩, by decide +kernel⟩
  unfold State.Unbound; decide +kernel

theorem witness_VectorLaneResults :
    (plainOp wk (.viadd 1 2 3 1 7)).isSome = true ∧ (plainOp wk (.vqdec 1 2 3 7 7)).isSome = true ∧ wk.Unbound [1] ∧
    wk.ElemsReady [2, 3] := ⟨rfl, rfl, unbound_wk _, ready_wk _⟩

theorem witness_PackingAndIndexes : wk.Unbound [1] ∧ wk.ElemsReady [2] ∧
    (∃ m e, unpack fp32 (0x3F800000 : W32).toNat = .fin false (m + 1) e) ∧ (unpack fp32 0).isNan = false ∧
    (unpack fp32 0x7FC00000).isNan = true := by
  refine ⟨unbound_wk _, ready_wk _, ⟨2 ^ 23 - 1, -23, by decide +kernel⟩, by decide +kernel, by decide +kernel⟩

theorem witness_VectorCompares : wk.ElemsReady [1, 2] ∧ wk.fpTraps 0x10 = false ∧ (wtrap []).fpTraps 0x10 = true ∧
    (5 : BitVec 3).toNat < 6 := ⟨ready_wk _, by decide +kernel⟩

theorem witness_ReductionsAndScans : wk.ElemsReady [2] ∧ wk.Unbound [1] ∧ (wk.guard 7).getLsbD 15 = true ∧
    (wk.guard 1).getLsbD 0 = false ∧ wk.fpTraps (treeNode (redNode 0 0 0) (fun _ => 0x3F800000) 4 0).2 = false ∧
    (wtrap []).fpTraps (treeNode (redNode 0 0 0) (fun _ => 0x7F7FFFFF) 4 0).2 = true ∧
    wk.fpTraps (running (redNode 1 0 0) (fun _ => 0) 7).2 = false ∧
    (wtrap []).fpTraps (running (redNode 0 0 0) (fun _ => 0x7F7FFFFF) 15).2 = true :=
  ⟨ready_wk _, unbound_wk _, by decide +kernel⟩

theorem witness_SelectionAndOptimiser : wk.Unbound [1] ∧ wk.ElemsReady [2] ∧ wk.ElemsReady [2, 3] ∧ wk.Unbound [4, 5, 6] ∧
    wk.ElemsReady [24, 25, 26, 27] ∧ wk.fpTraps 0x01 = false ∧ (wtrap []).fpTraps 0x01 = true :=
  ⟨unbound_wk _, ready_wk _, ready_wk _, unbound_wk _, ready_wk _, by decide +kernel⟩

def ldv0 : BlockAccess := ⟨true, 1, 6, 0, 0, 0, 0, 4, 7⟩
def stv0 : BlockAccess := ⟨false, 1, 6, 0, 0, 2, 2, 8, 1⟩
/-- The last line of the mapped page, and one enabled lane of p1. -/
def topLine : State := (wx [(6, 0x1FFC0)]).mod (setP [(1, 1)])

theorem unbound_top (l : List (BitVec 5)) : topLine.Unbound l := by
  have h : ∀ r, topLine.slot.isBound r = false := by decide +kernel
  exact fun r _ => h r

theorem witness_VectorBlocks :
    (blockAccess (.ldv 24 6 0 7) = some { ldv0 with d := 24 } ∧ Memory.wf (wbound none).mem = true ∧
      (wbound none).slot.isBound 24 = true) ∧
    (wk.slot.isBound 1 = false ∧ wk.guard 1 = 0) ∧
    (blockAccess (.ldv 1 6 0 7) = some ldv0 ∧ BlockAllowed topLine ldv0 0x1FFC0 (.hbm 0x1FFC0 false)) ∧
    (blockAccess (.stvLong 1 6 1 2 2 0 0) = some stv0 ∧ BlockAllowed topLine stv0 0x1FFC0 (.hbm 0x1FFC0 false)) := by
  refine ⟨⟨rfl, by decide +kernel⟩, by decide +kernel, ⟨rfl, ?_⟩, ⟨rfl, ?_⟩⟩
  all_goals
    constructor
    all_goals first | decide +kernel | exact unbound_top _

/-- LDVS of sixteen words from x6 up with stride 4, and the same of STVS; VGATHER with a bound index. -/
def lanes : State := wx [(6, 0x1FFC0), (7, 4)]
def ldvs0 : LaneAccess := ⟨true, 1, [1], 32, fun i => (lanes.x 6).toNat + i * (lanes.x 7).toInt, 0, 0, 0, 4, 7⟩
def stvs0 : LaneAccess := ⟨false, 1, [1], 32, fun i => (lanes.x 6).toNat + i * (lanes.x 7).toInt, 0, 0, 0, 4, 7⟩
def laneVa (i : Nat) : W64 := BitVec.ofNat 64 (0x1FFC0 + 4 * i)

theorem unbound_lanes (l : List (BitVec 5)) : lanes.Unbound l := by
  have h : ∀ r, lanes.slot.isBound r = false := by decide +kernel
  exact fun r _ => h r

theorem lanes_allowed (q : LaneAccess) (h : q = ldvs0 ∨ q = stvs0) :
    LanesAllowed lanes q laneVa (fun i => .hbm (0x1FFC0 + 4 * i) false) false := by
  have all : ∀ i, i < 16 → ldvs0.addr i = (laneVa i).toNat ∧ addrFault (laneVa i) 4 = false ∧ (laneVa i).toNat % 4 = 0 ∧
      (lanes.translate 0 0 .read (laneVa i) 4 = .ok (.hbm (0x1FFC0 + 4 * i) false) ∧
       lanes.translate 0 0 .write (laneVa i) 4 = .ok (.hbm (0x1FFC0 + 4 * i) false)) ∧
      vpnOf (laneVa i) ∉ lanes.slot.deny ∧ lanes.hostHolds (.hbm (0x1FFC0 + 4 * i) false) 4 = false := by decide +kernel
  have on0 : q.on lanes 0 := by rcases h with rfl | rfl <;> (unfold LaneAccess.on; decide +kernel)
  have lt : ∀ i, q.on lanes i → i < 16 := by rcases h with rfl | rfl <;> exact fun i o => o.1
  rcases h with rfl | rfl
  all_goals exact {
    unbound := unbound_lanes _, exact := fun i o => (all i (lt i o)).1, range := fun i o => (all i (lt i o)).2.1
    aligned := fun i o => (all i (lt i o)).2.2.1
    place := fun i o => by first | exact (all i (lt i o)).2.2.2.1.1 | exact (all i (lt i o)).2.2.2.1.2
    here := fun i _ => rfl, granted := fun i o => (all i (lt i o)).2.2.2.2.1, free := fun i o => (all i (lt i o)).2.2.2.2.2
    sound := fun _ i _ => spoiled_nil _ _ _ (by decide +kernel)
    shared := ⟨nofun, fun ⟨_, _, h⟩ => h⟩, release := by decide +kernel, some := ⟨0, on0⟩ }

theorem witness_LaneAccesses :
    (laneAccess lanes (.ldvs 1 6 7 0 7) = some ldvs0 ∧ ldvs0.load = true ∧ Memory.wf lanes.mem = true ∧
      LanesAllowed lanes ldvs0 laneVa (fun i => .hbm (0x1FFC0 + 4 * i) false) false) ∧
    (laneAccess lanes (.stvs 1 6 7 0 7) = some stvs0 ∧ stvs0.load = false ∧
      LanesAllowed lanes stvs0 laneVa (fun i => .hbm (0x1FFC0 + 4 * i) false) false ∧
      ∀ j : Nat, (Place.hbm (0x1FFC0 + 4 * j) false).cached = true) :=
  ⟨⟨rfl, rfl, by decide +kernel, lanes_allowed _ (.inl rfl)⟩, rfl, rfl, lanes_allowed _ (.inr rfl), fun _ => rfl⟩

/-- Lane 0 lies in the mapped page and lane 1 in the reserved range above the window, where it traps PERM. -/
def laneFault : State := (wx [(6, 0x7F000006FFFC), (7, 4)]).mod (setP [(1, 3)])

theorem witness_LaneFaults :
    ((laneAccess (wbound none) (.vgather 1 6 24 0 2 7)).map (fun q => q.vecs.any (wbound none).slot.isBound) = some true) ∧
    ((laneAccess wk (.ldvs 1 6 7 0 1)).map (·.vecs) = some [1] ∧ wk.Unbound [1] ∧ wk.guard 1 = 0) ∧
    ((laneAccess laneFault (.ldvs 1 6 7 0 1)).map (·.vecs) = some [1] ∧ laneFault.guard 1 = 3 ∧ laneFault.slot.isBound 1 = false ∧
      (∀ pa : Nat, (Place.scratch 0 pa).tso = false) ∧ ordRel (vecOrd true false 0) = false ∧
      laneFault.laneCheck .read 4 0 0x7F000006FFFC 15 = .ok ⟨0, 0x7F000006FFFC, 15, .ok (.scratch 0 0x6FFFC)⟩ ∧
      laneFault.laneCheck .read 4 1 0x7F0000070000 15 = .ok ⟨1, 0x7F0000070000, 15, .error (.perm, 0x7F0000070000)⟩) := by
  refine ⟨by decide +kernel, ⟨rfl, unbound_wk _, by decide +kernel⟩, rfl, by decide +kernel, by decide +kernel, fun _ => rfl, rfl, rfl, rfl⟩

/-- A configured, unbound stream 2; eight engines in use on the core. -/
def configured : State := (wx [(6, 0x10000)]).mod (fun t => { t with z := RegFile.write t.z 2 { Stream.none with cfg := some ⟨0x10000, 1, 1, 1, 64, 64, 64, 0⟩ } })
def busyEngines : State := configured.setSlot 1 { Slot.start fetchImage 2 with
  z := Vector.replicate 8 { Stream.none with reg := some 25, engine := true } }

theorem witness_StreamRules :
    ((floatOp (wbound none) (.vadd 24 1 2 0 7)).isSome = true ∧ (wbound none).slot.isBound 24 = true) ∧
    (let s := (wbound none).mod (fun t => { t with z := RegFile.write t.z 2 { RegFile.read t.z 2 with buf := [] } })
     s.slot.isBound 1 = false ∧ s.slot.boundTo 24 = some 2 ∧ (RegFile.read s.slot.z 2).ended = false ∧
      (RegFile.read s.slot.z 2).buf.length = 0) ∧
    (let s := (wbound none).mod (fun t => { t with deny := [vpnOf 0x10000] })
     (RegFile.read s.slot.z 2).headVa = some 0x10000 ∧ s.elemRefused (RegFile.read s.slot.z 2) 0x10000 = true ∧
      (RegFile.read (wbound none).slot.z 2).headVa = some 0x10000 ∧
      (wbound none).elemRefused (RegFile.read (wbound none).slot.z 2) 0x10000 = false) ∧
    ((RegFile.read (wbound (some (.perm, 0x40000))).slot.z 2).buf.map (·.fault) = [some (.perm, 0x40000)]) ∧
    ((RegFile.read (wbound (some (.page, 0x40000))).slot.z 2).buf.map (·.fault) = [some (.page, 0x40000)] ∧
      (RegFile.read (wbound (some (.page, 0x40000))).slot.z 2).ended = false) ∧
    (configured.runs 7 = true ∧ configured.worker = true ∧ (RegFile.read configured.slot.z 3).reg = none ∧
      addrFault (configured.x 6) 64 = false ∧ (configured.x 6).toNat % 64 = 0 ∧
      configured.translate 0 0 .read (configured.x 6) 64 = .ok (.hbm 0x10000 false) ∧
      configured.hostHolds (.hbm 0x10000 false) 64 = false ∧ vpnOf (configured.x 6) ∉ configured.slot.deny ∧
      configured.spoiled (.hbm 0x10000 false) 64 = false ∧
      blockBad ((configured.touchTlb 0 0 (configured.x 6)).readAt (.hbm 0x10000 false) 64 0 0 0).1 = false) ∧
    (let block := fun (a : Nat) (v : Nat) =>
       let s : State := { configured with mem := memWrite configured.mem a 8 255 v }
       ((s.touchTlb 0 0 (s.x 6)).readAt (.hbm 0x10000 false) 64 0 0 0).1
     blockBad (block 0x10030 3) = true ∧ blockBad (block 0x10000 0x20020) = false ∧ blockAlign (block 0x10000 0x20020) = true) ∧
    ((RegFile.read (wbound none).slot.z 2).reg.isSome = true) ∧
    ((RegFile.read configured.slot.z 2).cfg.isSome = true ∧ (RegFile.read configured.slot.z 2).reg = none ∧
      configured.slot.isBound 31 = false ∧ configured.enginesHeld 0 < 8 ∧ 8 ≤ busyEngines.enginesHeld 0) ∧
    (RegFile.read configured.slot.z 0).cfg = none := by decide +kernel

/-! The matrix unit. -/

/-- Core 0 with every accumulator claimed by task 1, its latches loaded in this run in the formats of pair `p`, and commands. -/
def matrix (p : Nat) (cmds : List MCmd) (l : List (BitVec 5 × W64)) : State :=
  (wx l).modCore 0 (fun c => { c with
    claim := Vector.replicate 8 (some 1), ownA := some (pairA p, 0, 1), ownB := some (pairB p, 0, 1)
    ownBhi := some (pairB p, 0, 1), cmds := cmds })
def cmd (op : MOp) : MCmd := ⟨op, 0, 1, 1, 0⟩
def zero0 : MCmd := cmd (.zero 0)

theorem witness_MatrixCommands :
    ((queuedOp (matrix 8 [zero0] []) (.mmaF64 6 7)).isSome = true ∧ (matrix 8 [zero0] []).worker = true ∧
      (matrix 8 [zero0] []).runs 7 = true ∧ (∀ d : BitVec 3, (matrix 8 [zero0] []).holds d = true) ∧
      (6 : BitVec 3).getLsbD 0 = false ∧ (matrix 8 [zero0] []).latchesOk 8 = true ∧
      ((matrix 8 [zero0] []).coreAt 0).cmds.length < 2) ∧
    ((matrix 0 [zero0, zero0] []).holds 0 = true ∧ 2 ≤ ((matrix 0 [zero0, zero0] []).coreAt 0).cmds.length) ∧
    (wk.worker = true ∧ ¬ wk.holds 0 = true) ∧
    ((matrix 0 [] [(7, 63)]).slot.isBound 1 = false ∧ ((matrix 0 [] [(7, 63)]).x 7).toNat < 64 ∧
      ¬ ((matrix 0 [] [(7, 64)]).x 7).toNat < 64) ∧
    (let s := matrix 0 [] [(6, 0x1E000)]
     s.worker = true ∧ s.runs 7 = true ∧ (s.coreAt 0).cmds.length < 2 ∧ layoutBad false 0 = false ∧ layoutBad true 0 = false ∧
      addrFault (s.x 6) (loadBytes 0) = false ∧ (s.x 6).toNat % 64 = 0 ∧
      (s.cmdPages .read 3 (s.x 6).toNat (loadBytes 0)).toOption = some [.hbm 0x1E000 false] ∧
      s.holds 2 = true ∧ s.holds 3 = true ∧ (2 : BitVec 3).getLsbD 0 = false ∧ addrFault (s.x 6) 8192 = false ∧
      (s.cmdPages .write 3 (s.x 6).toNat 4096).toOption = some [.hbm 0x1E000 false] ∧
      (s.cmdPages .write 3 (s.x 6).toNat 8192).toOption = some [.hbm 0x1E000 false]) ∧
    (wk.holds 7 = false ∧ layoutBad false 0x80 = true) := by decide +kernel

/-- Eight members of troupe 0's gang, tasks 1 to 8 on cores 0 to 7; all but the one of core 0 stand at RMMA.E4E4. -/
def ring8 : State :=
  (List.range 8).foldl (fun s p =>
    (s.setSlot (8 * p) { Slot.start fetchImage (p + 1) with pend := if p = 0 then none else some (.ring 0 0 1 0) }).modCore p
      (fun c => { c with claim := Vector.replicate 8 (some (p + 1)), ownA := some (0, 8 * p, p + 1), ownB := some (0, 8 * p, p + 1) }))
    (wk.setGang 0 ⟨(List.range 8).map (fun p => (p, p + 1)), true, 0, false⟩)
def ringStands (s : State) : List (Nat × Nat × BitVec 3 × BitVec 3 × W32) :=
  ((s.startWait 13 0 0).mod (fun t => { t with pend := some (.ring 0 0 1 s.ir) })).standing s.troupe
/-- Seven seats of troupe 0 taken, positions 1 to 7. -/
def seats7 : State :=
  (List.range 7).foldl (fun s p => s.setSlot (8 * (p + 1)) { Slot.start fetchImage (p + 2) with pend := some .gang })
    (wk.setGang 0 ⟨(List.range 7).map (fun p => (p + 1, p + 2)), false, 0, false⟩)

theorem witness_GangAndRing :
    (ringOp (.rmmaE4e4 0 1 7) = some (0, 0, 1, 7) ∧ wk.runs 7 = true ∧ wk.worker = true ∧ ¬ (wk.gangAt 0).formed = true) ∧
    (ring8.runs 7 = true ∧ ring8.worker = true ∧ (ring8.gangAt ring8.troupe).formed = true ∧
      (ring8.position, ring8.slot.tid) ∈ (ring8.gangAt ring8.troupe).seats ∧ (∀ d : BitVec 3, ring8.holds d = true) ∧
      ring8.latchesOk 0 = true ∧ (ringStands ring8).length = 8 ∧ ((ringStands ring8).map (fun m => sidCore m.1)).Nodup ∧
      (ringStands ring8).any (fun m => m.1 == ring8.cur) = true ∧ (∀ m ∈ ringStands ring8, m.2.1 = 0) ∧
      ∀ m ∈ ringStands ring8, (ring8.coreAt (sidCore m.1)).cmds.length < 2) ∧
    ((ringStands (ring8.modSlot 8 (fun t => { t with pend := none }))).length ≠ 8) ∧
    (let s := wk.mod (fun t => { t with cmtd := false })
     s.runs 7 = true ∧ s.slot.cmtd = false) ∧
    (wk.slot.cmtd = true ∧ ((wk.setGang 0 ⟨[(0, 9)], false, 0, false⟩).gangAt 0).seats.any (fun e => e.1 == wk.position) = true) ∧
    ((∀ e ∈ (wk.gangAt 0).seats, e.1 ≠ wk.position) ∧ (wk.gangAt 0).seats.length ≠ 7) ∧
    (seats7.slot.cmtd = true ∧ (∀ e ∈ (seats7.gangAt 0).seats, e.1 ≠ seats7.position) ∧ (seats7.gangAt 0).seats.length = 7 ∧
      (let gang := seats7.gangAt 0
       let u := ((seats7.startWait 13 0 0).mod (fun t => { t with pend := some .gang })).setGang 0
        { gang with seats := gang.seats ++ [(0, 1)], formed := true }
       (gang.seats.foldl (fun s e => s.retireTask e.2 4 id) u).slotOfTid seats7.slot.tid = some seats7.cur)) := by
  decide +kernel

def badA : Latch := ⟨0, 0, 1, 0, [], 0, some 0x11000⟩

theorem witness_MatrixRegisters :
    (wk.runs 7 = true ∧ wk.worker = true ∧ (∀ m ∈ (wk.coreAt 0).cmds, m.tid ≠ wk.slot.tid) ∧ wk.slot.latchErr = none) ∧
    ((wk.noteLatch 1 badA.bad).slot.latchErr = some 0x11000) ∧ wk.claimTurn 3 = false ∧
    ((wk.setSlot 1 { Slot.start fetchImage 2 with wait := some ⟨12, 3, 0, 0⟩ }) |> fun s => ({ s with cyc := 1 } : State).claimTurn 3) = true ∧
    (∃ m ∈ ((matrix 0 [zero0] []).coreAt 0).cmds, m.tid = (matrix 0 [zero0] []).slot.tid) ∧
    (((matrix 0 [] [(7, 63)]).x 7).toNat < 64 ∧ (matrix 0 [] [(7, 63)]).holds 7 = true ∧
      ((matrix 0 [] [(7, 63)]).gangAt 0).running = false) ∧
    (64 ≤ ((matrix 0 [] [(7, 64)]).x 7).toNat ∧ wk.holds 0 = false) ∧
    (RegFile.read ((matrix 0 [] []).coreAt 0).claim 7 = some (matrix 0 [] []).slot.tid) ∧
    (let s := wk.mod (fun t => { t with ext := 0x40000 })
     RegFile.read (s.coreAt 0).claim 0 = none ∧ s.slot.ext ≠ 0) ∧
    (RegFile.read ((wk.modCore 0 (fun c => { c with claim := Vector.replicate 8 (some 9) })).coreAt 0).claim 3 = some 9 ∧
      9 ≠ wk.slot.tid) := by
  refine ⟨by decide +kernel, by decide +kernel, by decide +kernel, by decide +kernel, ⟨zero0, ?_, ?_⟩, by decide +kernel⟩ <;> decide +kernel

def okA : Latch := ⟨0, 0, 1, 0, List.replicate 32 0, 0, none⟩
def runs1 (op : MOp) : State := (matrix 0 [cmd op, zero0] []).modCore 0 (fun c => { c with latchA := some okA, latchB := some okA })

theorem witness_MatrixExecutes :
    (((runs1 (.zero 7)).coreAt 0).cmds = [cmd (.zero 7), zero0] ∧ isRmma (cmd (.zero 7)) = false ∧
      ((runs1 (.zero 7)).gangAt (coreTroupe 0)).formed = false) ∧
    (((runs1 (.row 3 0 63)).coreAt 0).cmds = [cmd (.row 3 0 63), zero0] ∧ 63 < 64) ∧
    (((runs1 (.mma 0 1 0 0)).coreAt 0).latchA = some okA ∧ okA.bad = none ∧ ((runs1 (.mma 0 1 0 0)).coreAt 0).latchB = some okA ∧
      ((runs1 (.mma 0 1 0 0)).coreAt 0).latchBhi = none ∧ 9 ≠ 8) ∧
    (((runs1 (.mma 8 2 0 0)).coreAt 0).cmds = [cmd (.mma 8 2 0 0), zero0] ∧ ((runs1 (.mma 8 2 0 0)).coreAt 0).latchA = some okA) ∧
    (((runs1 (.store true 6 0x1E000 [.hbm 0x1E000 false])).coreAt 0).cmds = [cmd (.store true 6 0x1E000 [.hbm 0x1E000 false]), zero0]) ∧
    (((runs1 (.store false 7 0x11000 [.hbm 0x11000 false])).coreAt 0).cmds.map (·.op) =
      [.store false 7 0x11000 [.hbm 0x11000 false], .zero 0]) ∧
    (((runs1 (.load true 0 0x11000 [.hbm 0x11000 false])).coreAt 0).cmds.map (·.op) =
      [.load true 0 0x11000 [.hbm 0x11000 false], .zero 0]) := by decide +kernel

/-! Queues, messages and tasks. -/

theorem commits (s : State) (h : s.slot.cmtd = true) : s.commit = .ok s := by unfold State.commit; simp [h]

def queue (l : List W64) (w : List Nat) : State :=
  wk.modCore 0 (fun c => { c with q := RegFile.write c.q 3 l, qWait := RegFile.write c.qWait 3 w })

theorem witness_QueueResults :
    (wk.runs 7 = true ∧ wk.worker = true ∧ wk.commit = .ok wk ∧ wk.queueTurn 3 1 = true) ∧
    ((RegFile.read ((queue (List.replicate 7 1) []).coreAt 0).q 3).length < 8 ∧ (queue (List.replicate 7 1) []).queueTurn 3 1 = true) ∧
    (¬ ((RegFile.read ((queue (List.replicate 8 1) []).coreAt 0).q 3).length < 8) ∧
      8 ≤ (RegFile.read ((queue (List.replicate 8 1) []).coreAt 0).q 3).length) ∧
    ((queue [7, 8] [2]).queueTurn 3 0 = false ∧ (queue [7, 8] [3]).queueTurn 3 1 = false) ∧
    (RegFile.read ((queue [7, 8] []).coreAt 0).q 3 = [7, 8] ∧ (queue [7, 8] []).queueTurn 3 0 = true) ∧
    (RegFile.read ((queue [] []).coreAt 0).q 3 = []) := by
  refine ⟨⟨by decide +kernel, by decide +kernel, commits _ (by decide +kernel), by decide +kernel⟩, by decide +kernel⟩

/-- An image block at 0x11000 with handler 0x10000; x3 names core 1, x5 the block, x7 a payload descriptor of none. -/
def sends (l : List (BitVec 5 × W64)) : State :=
  let s := wx ([(3, 8), (5, 0x11000)] ++ l)
  { s with mem := memWrite s.mem 0x11000 8 255 0x10000 }

theorem witness_MessagesSent :
    (sends []).runs 7 = true ∧ Memory.wf (sends []).mem = true ∧ TargetHere (sends []) ((sends []).x 3) ∧
    BlockReadable (sends []) 0x11000 (.hbm 0x11000 false) ∧
    (let r := ((sends []).touchTlb 0 0 0x11000).readAt (.hbm 0x11000 false) 64 0 0 0
     recWord ((List.range 8).map (word64 r.1)) 0 = 0x10000 ∧
     CanSend r.2 r.2 1 0x10000 (scopeFor (sends []) 7 1)) ∧
    ((sends []).x 5).toNat + ((0 : BitVec 1).toNat * 32 + (0 : BitVec 5).toNat) * 64 = (0x11000 : W64).toNat ∧
    (sends []).x 5 = 0x11000 ∧ payloadBad ((sends []).x 7) = false := by
  refine ⟨by decide +kernel, by decide +kernel, ?_, ?_, ⟨by decide +kernel, ?_⟩, by decide +kernel⟩
  · constructor <;> decide +kernel
  · constructor
    all_goals first | decide +kernel | nofun
  · constructor
    all_goals first | decide +kernel | exact commits _ (by decide +kernel)

/-- The same for a core of package 1. -/
theorem witness_MessagesSentAway :
    TargetAway (sends [(3, 0x10008)]) ((sends [(3, 0x10008)]).x 3) ∧
    (let r := (sends [(3, 0x10008)]).blockRead 0x11000 (.hbm 0x11000 false)
     recWord ((List.range 8).map (word64 r.1)) 0 = 0x10000 ∧ imageBad 0x10000 = false ∧ (0x10000 : W64).getLsbD 3 = false ∧
      r.2.slot.cmtd = true ∧ r.2.hostBlocks 0 3 = false) ∧
    (sends []).reserve = .ok (sends []) := by
  refine ⟨?_, by decide +kernel, ?_⟩
  · constructor <;> decide +kernel
  · unfold State.reserve; simp [show (sends []).slot.cmtd = true by decide +kernel]

theorem witness_SpawnsAndHops :
    ((sends [(3, 2)]).runs 7 = true ∧ ((sends [(3, 2)]).x 5).toNat + (0 : BitVec 5).toNat * 64 = (0x11000 : W64).toNat ∧
      BlockReadable (sends [(3, 2)]) 0x11000 (.hbm 0x11000 false) ∧
      (let r := ((sends [(3, 2)]).touchTlb 0 0 0x11000).readAt (.hbm 0x11000 false) 64 0 0 0
       recWord ((List.range 8).map (word64 r.1)) 0 = 0x10000 ∧ imageBad 0x10000 = false ∧ r.2.commit = .ok r.2 ∧
        r.2.hostBlocks 0 2 = false ∧ (sends [(3, 2)]).ordBehind 0x10000 = false ∧ (0x10000 : W64).getLsbD 4 = false ∧ ((sends [(3, 2)]).coreAt 0).deque.length < 512) ∧
      (sends [(3, 2)]).x 3 ≠ 0 ∧ ((sends [(3, 2)]).x 3).toNat ≤ 2 ^ 32) ∧
    ((0x10010 : W64).getLsbD 4 = true ∧ (sends []).hasRoom 0 0 = true ∧ (sends [(3, 0)]).x 3 = 0) ∧
    ((wx [(3, 8), (5, 0x10000)]).runs 7 = true ∧ payloadBad ((wx [(3, 8), (5, 0x10000)]).x 7) = false ∧
      CanSend (wx [(3, 8), (5, 0x10000)]) (wx [(3, 8), (5, 0x10000)]) 1 ((wx [(3, 8), (5, 0x10000)]).x 5) 2 ∧
      TargetHere (wx [(3, 8), (5, 0x10000)]) ((wx [(3, 8), (5, 0x10000)]).x 3) ∧
      targetCore ((wx [(3, 8), (5, 0x10000)]).x 3) = 1) ∧
    (canonical ((wx [(3, 0x7F0100080000)]).x 3) = true ∧
      (wx [(3, 0x7F0100080000)]).homeOfVa ((wx [(3, 0x7F0100080000)]).x 3) = .ok (.here 1)) := by
  refine ⟨⟨by decide +kernel, by decide +kernel, ?_, ⟨by decide +kernel, by decide +kernel, commits _ (by decide +kernel),
    by decide +kernel⟩, by decide +kernel⟩, by decide +kernel, ⟨by decide +kernel, by decide +kernel, ?_, ?_, by decide +kernel⟩,
    by decide +kernel, by rfl⟩
  · constructor
    all_goals first | decide +kernel | nofun
  · constructor
    all_goals first | decide +kernel | exact commits _ (by decide +kernel)
  · constructor <;> decide +kernel

/-- Launch 0 with two images of work; an uncommitted task; a second ready slot. -/
def launched : State := { wk with launches := [(0, ⟨0, 2, 0, false, none, none⟩)] }
def uncommitted : State := wk.mod (fun t => { t with cmtd := false })
def framed : State := uncommitted.mod (fun t => { t with frame := 0x40000 })
def two : State := wk.setSlot 1 (Slot.start fetchImage 2)

theorem witness_TaskEndsAndCancels :
    (wk.runs 7 = true ∧ wk.commit = .ok wk ∧ (∃ s1, framed.commit = .ok s1) ∧ framed.slot.cmtd = false) ∧
    (uncommitted.slot.cmtd = false ∧ uncommitted.slot.frame = 0 ∧ uncommitted.freeFrame 0 = 0) ∧
    (tfind launched.launches launched.slot.launch.toNat = some ⟨0, 2, 0, false, none, none⟩ ∧
      (∀ m ∈ (launched.coreAt 0).cmds, m.tid ≠ launched.slot.tid) ∧
      ∀ e ∈ (launched.gangAt launched.troupe).seats, e.2 ≠ launched.slot.tid) ∧
    (wk.yieldSet = [] ∧ two.yieldSet ≠ []) ∧
    (wk.worker = true ∧ sidNum wk.cur < 4 ∧ (wk.coreAt 0).opener = none ∧ (wk.coreAt 0).heldHeads = []) ∧
    ((wk.modCore 0 (fun c => { c with opener := some 1 })).coreAt 0).opener ≠ none ∧
    ((wx [(6, 0xC000000000000000)]).worker = true ∧ ((wx [(6, 0xC000000000000000)]).x 6).toNat / 2 ^ 62 = 3) ∧
    (((wx [(6, 0x100000000)]).x 6).toNat / 2 ^ 62 ≠ 3 ∧ ((wx [(6, 0x100000000)]).x 6).toNat / 2 ^ 32 % 2 ^ 30 ≠ 0) ∧
    (((wx [(6, 0x00400001)]).x 6).toNat / 2 ^ 32 % 2 ^ 30 = 0 ∧ (wx [(6, 0x00400001)]).decidedAway 0x00400001 = true) ∧
    (wk.decidedAway 1 = false ∧ wk.nameJobs 1 = [] ∧
      ((tfind (wk.cancelName 1 (fun j => !wk.worker || j == wk.slot.job)).launches 0).any (·.cancelled)) = false) ∧
    (launched.decidedAway 0 = false ∧ launched.nameJobs 0 = [0] ∧ (!launched.worker || (0 : W32) == launched.slot.job) = true ∧
      launched.runs 7 = true ∧ ((tfind (launched.cancelName 0 (fun j => !launched.worker || j == launched.slot.job)).launches
        launched.slot.launch.toNat).any (·.cancelled)) = true) ∧
    (let s : State := { wk with launches := [(1, ⟨5, 2, 0, false, none, none⟩)] }
     s.worker = true ∧ s.decidedAway 1 = false ∧ s.nameJobs 1 = [5] ∧ (!s.worker || (5 : W32) == s.slot.job) = false) := by
  refine ⟨⟨by decide +kernel, commits _ (by decide +kernel), ⟨_, by unfold State.commit; rw [if_neg (by decide +kernel)]; rfl⟩, by decide +kernel⟩, by decide +kernel⟩

/-! Whirligig regions, engines and lookups. -/

def region0 : Region := ⟨2 ^ 36, 1, 0, 1, 1, 1, 0, 100, 2, false, 0, none, [], []⟩
/-- The last row block's 64 bytes of a region of 1 GiB, at lap 10. -/
def regional (l : List (BitVec 5 × W64)) : State :=
  { wx ([(6, BitVec.ofNat 64 (2 ^ 36 + 2 ^ 30 - 64))] ++ l) with regions := [region0], gts := Vector.replicate 4 1050 }
/-- A service core, with a task of its firmware: core `c` of cluster 0 (32 and 33 TSC and ESC, 34 a steward). -/
def service (c : Nat) (l : List (BitVec 5 × W64)) : State :=
  { State.reset.setSlot (8 * c) (setX l (Slot.start fetchImage 1)) with cur := 8 * c }

theorem witness_WhirligigRequests :
    ((regional []).runs 7 = true ∧ RowOk (regional []) ((regional []).x 6) region0 ∧ lapNow (regional []) region0 = 10 ∧
      tagOf (regional [(7, 265)]) region0 265 ≤ lapNow (regional []) region0 + 255 ∧
      lapNow (regional []) region0 + 255 < tagOf (regional [(7, 266)]) region0 266) ∧
    ((regional []).slot.isBound 1 = false ∧ (∀ r k, (regional []).slot.boundTo r ≠ some k) ∧
      (∃ s1, (regional []).takeElems [2] = .ok s1 ∧ ∃ s2, s1.commit = .ok s2)) ∧
    ((regional []).worker = true ∧ canonical ((regional []).x 6) = true ∧
      (regional []).regionOf (regional []).slot.job ((regional []).x 6) = some region0) ∧
    ((service 32 []).worker = false ∧ (service 32 []).runs 7 = true) ∧
    (canonical ((wx [(6, 0x0080000000000000)]).x 6) = false) ∧
    (((wx [(6, 0x1000000020)]).x 6).toNat % 64 ≠ 0 ∧ canonical ((wx [(6, 0x1000000020)]).x 6) = true) ∧
    (wk.regionOf wk.slot.job (wk.x 6) = none ∧ (wk.x 6).toNat % 64 = 0) ∧ (wbound none).slot.isBound 24 = true := by
  refine ⟨⟨by decide +kernel, ?_, by decide +kernel⟩, ⟨by decide +kernel, by decide +kernel, regional [], rfl,
    _, commits _ (by decide +kernel)⟩, by decide +kernel⟩
  constructor <;> decide +kernel

/-- A command of task 1 in slot 0, as it arrived. -/
def engCmd (id kind : Nat) (w1 w2 w3 w4 : W64) : EngCmd :=
  ⟨id, kind, w1, w2, w3, w4, 0, 1, 0, 8, 0, 0, 127, 0, false, false, 0, [], [], none, [], false, [], none⟩

/-- R266: a DRAIN.sp issued while TWALK 3 of the core's buffer 0 holds a credit waits for its tile. -/
theorem witness_drainWaits :
    (let s := wk.modEngine 0 0 (fun g => { g with cmds := [engCmd 3 0 0x11000 0 0x0001000100000000 0x100], bufs := [(0, ⟨64, 4, 64, 1, 0, 0⟩)] })
     s.draining.isSome = false ∧ s.drainSp s.drainTiles = true ∧ s.runs 7 = true) := by decide +kernel

/-- A walk block at 0x11000 whose word 3 names handler code `h`. -/
def walkBlock (h : Nat) : State :=
  let s := wx [(6, 0x11000)]
  { s with mem := memWrite s.mem 0x11018 8 255 (h * 2 ^ 8) }

theorem witness_EngineAndLookupCommands :
    ((walkBlock 0x100).runs 7 = true ∧ (walkBlock 0x100).worker = true ∧ Memory.wf (walkBlock 0x100).mem = true ∧
      addrFault ((walkBlock 0x100).x 6) 32 = false ∧ ((walkBlock 0x100).x 6).toNat % 32 = 0 ∧
      (walkBlock 0x100).translate 0 0 .read ((walkBlock 0x100).x 6) 32 = .ok (.hbm 0x11000 false) ∧
      (walkBlock 0x100).hostHolds (.hbm 0x11000 false) 32 = false ∧
      vpnOf ((walkBlock 0x100).x 6) ∉ (walkBlock 0x100).slot.deny ∧ (walkBlock 0x100).spoiled (.hbm 0x11000 false) 32 = false ∧
      (let r := ((walkBlock 0x100).touchTlb 0 0 0x11000).readAt (.hbm 0x11000 false) 32 0 0 0
       (word64 r.1 3).toNat / 2 ^ 8 = 256 ∧ (word64 r.1 3).toNat % 64 = 0 ∧ ∃ s1, r.2.commit = .ok s1) ∧
      (walkBlock 0x100).engFull 1 = false) ∧
    (let r := ((walkBlock 255).touchTlb 0 0 0x11000).readAt (.hbm 0x11000 false) 32 0 0 0
     2 ≤ (word64 r.1 3).toNat / 2 ^ 8 ∧ (word64 r.1 3).toNat / 2 ^ 8 ≤ 255) ∧
    (((wx [(6, 0x8000000000000000)]).x 6).toNat / 2 ^ 59 % 16 = 0 ∧ permBase ((wx [(6, 0x8000000000000000)]).x 6) = 0) ∧
    (let x : W64 := BitVec.ofNat 64 (2 ^ 63 + 255 * 2 ^ 40 + 511 * 2 ^ 28 + 0x40)
     x.toNat / 2 ^ 59 % 16 = 0 ∧ x.toNat / 2 ^ 19 % 2 ^ 9 = 0 ∧ x.toNat % 64 = 0 ∧ permBase x ≠ 0 ∧
      0x70000 < permBase x + permSlots x * permLen x) ∧
    (let x : W64 := BitVec.ofNat 64 (2 ^ 63 + 0x40)
     ¬ 0x70000 < permBase x + permSlots x * permLen x) ∧
    ((wk.modEngine 0 1 (fun g => { g with cmds := List.replicate 16 (engCmd 0 0 0 0 0 0) })).engFull 1 = true) ∧
    ((wx [(5, 0x10000)]).runs 7 = true ∧ 2 ^ 16 ≤ ((wx [(5, 0x10000)]).x 5).toNat) ∧
    (let s := wx [(5, 0xFFFF), (6, 0x11000), (7, 0x12000)]
     (s.x 5).toNat < 2 ^ 16 ∧ addrFault (s.x 6) 64 = false ∧ (s.x 6).toNat % 64 = 0 ∧ addrFault (s.x 7) 128 = false ∧
      (s.x 7).toNat % 128 = 0 ∧ s.translate 0 0 .write (s.x 6) 64 = .ok (.hbm 0x11000 false) ∧
      s.translate 0 0 .read (s.x 7) 128 = .ok (.hbm 0x12000 false) ∧ s.hostHolds (.hbm 0x11000 false) 64 = false ∧
      s.hostHolds (.hbm 0x12000 false) 128 = false ∧ vpnOf (s.x 6) ∉ s.slot.deny ∧ vpnOf (s.x 7) ∉ s.slot.deny ∧ (s.pklu 0).look.length < 256 ∧ s.hostBlocks 0 2 = false) ∧
    (let s := (walkBlock 0x100).modEngine 0 1 (fun g => { g with cmds := List.replicate 16 (engCmd 0 0 0 0 0 0) })
     s.engFull 1 = true ∧ s.translate 0 0 .read (s.x 6) 32 = .ok (.hbm 0x11000 false) ∧
      (word64 ((s.touchTlb 0 0 0x11000).readAt (.hbm 0x11000 false) 32 0 0 0).1 3).toNat / 2 ^ 8 = 256) ∧
    (away.translate 0 0 .write 0x200000 64 = .ok (.remote 1) ∧ away.translate 0 0 .read 0x200080 128 = .ok (.remote 1)) := by
  refine ⟨⟨by decide +kernel, by decide +kernel, by decide +kernel, by decide +kernel, by decide +kernel, by decide +kernel,
    by decide +kernel, by decide +kernel, by decide +kernel, ⟨by decide +kernel, by decide +kernel, _, commits _ (by decide +kernel)⟩, by decide +kernel⟩,
    by decide +kernel⟩

/-! System instructions and exceptions. -/

theorem witness_SpecialRegisters :
    (wk.runs 7 = true ∧ wk.worker = true ∧ 0x100 ≤ 32 * (8 : BitVec 4).toNat + (0 : BitVec 5).toNat) ∧
    (isEsc (service 33 []).core = true ∧ isTsc (service 32 []).core = true ∧ isSteward (service 34 []).core = true ∧
      (service 34 []).worker = false ∧ (service 34 []).runs 7 = true) ∧
    (32 * (8 : BitVec 4).toNat + (11 : BitVec 5).toNat = 0x10B ∧ 32 * (0 : BitVec 4).toNat + (11 : BitVec 5).toNat = 11) ∧
    (500 ≤ ((service 34 [(6, 500)]).x 6).toNat % 4096 ∧ ((service 34 [(6, 2000)]).x 6).toNat % 4096 ≤ 2000 ∧
      ((service 34 [(6, 499)]).x 6).toNat % 4096 < 500 ∧ 2000 < ((service 34 [(6, 2001)]).x 6).toNat % 4096) ∧
    (((service 34 [(6, 17)]).x 6).toNat % 32 < 18 ∧ 18 ≤ ((service 34 [(6, 18)]).x 6).toNat % 32) := by decide +kernel

theorem witness_TrapEntry :
    wk.runs 7 = true ∧ wk.worker = true ∧ wk.slot.cmtd = true ∧ (wk.coreAt wk.core).claim.any (· == some wk.slot.tid) = false ∧
    (service 34 []).worker = false ∧ (service 32 []).worker = false := by decide +kernel

/-- Every accumulator of core 0 is held, the seventh written; its extension lies in the mapped page. -/
def holding : State :=
  { (matrix 0 [zero0] []).mod (fun t => { t with ext := 0x10000, frame := 0x18000, dirty := { t.dirty with a := 0x80 } }) with tables := [fetchLeaf 0] }

theorem witness_TrapEntryOthers :
    (framed.slot.cmtd = false ∧ trapFrame framed ≠ 0 ∧ framed.slot.image.marked = false ∧ framed.worker = true ∧
      (framed.coreAt framed.core).cmds = []) ∧
    (uncommitted.slot.cmtd = false ∧ trapFrame uncommitted = 0 ∧ (uncommitted.coreAt 0).cmds = [] ∧
      (uncommitted.gangAt uncommitted.troupe).seats = []) ∧
    (Memory.wf holding.mem = true ∧ trapFrame holding = 0x18000 ∧ holding.slot.cmtd = true ∧
      (let d := State.drainCmds 16 (holding.mod (fun t => { t with pend := none, starting := none, forced := none, wait := none })) 0 1
       (∀ i, i < 8 → d.agentPlace d.slot.job (BitVec.ofNat 64 (d.slot.ext + 4096 * i)) = some (.hbm (0x10000 + 4096 * i) false)) ∧
        RegFile.read (d.coreAt 0).claim 7 = some 1 ∧ (d.coreAt 0).freeing.getLsbD 7 = false ∧ d.slot.dirty.a.getLsbD 7 = true)) := by
  decide +kernel

/-- Task 9, trapped on core 3, whose frame is at 0x40000. -/
def trapped (cm : Bool) (b : W64) : State :=
  { service 33 [(4, 0x40000), (5, b)] with
    saved := [(9, ⟨4, 3, 0, { Slot.start fetchImage 9 with frame := 0x40000, cmtd := cm }, some (.page, 0x5000), false, 0, 0⟩)] }

theorem witness_TrapReturn :
    ((service 33 [(4, 1)]).runs 7 = true ∧ (service 33 []).worker = false ∧ isTsc (service 33 []).core = false ∧
      ((service 33 [(4, 1)]).x 4).toNat % 4096 ≠ 0) ∧
    (((service 33 [(5, 1)]).x 5).toNat % 2 ^ 62 ≠ 0 ∧ ((service 33 [(5, 0xC000000000000000)]).x 5).toNat / 2 ^ 62 = 3) ∧
    ((service 33 []).trappedAt 0 0 = none ∧ (service 33 []).hostBlocks 0 2 = false) ∧
    ((trapped true 0).trappedAt 0 0x40000 = some (9, (tfind (trapped true 0).saved 9).getD ⟨0, 0, 0, Slot.reset, none, false, 0, 0⟩) ∧
      (tfind (trapped true 0).saved 9).map (fun w => (w.st, w.slot.cmtd)) = some (4, true) ∧ ((trapped true 0).x 5).toNat / 2 ^ 62 = 0) ∧
    (((trapped true 0x4000000000000000).x 5).toNat / 2 ^ 62 = 1 ∧ ((trapped true 0x8000000000000000).x 5).toNat / 2 ^ 62 = 2) ∧
    ((tfind (trapped false 0x8000000000000000).saved 9).map (fun w => (w.st, w.slot.cmtd)) = some (4, false)) := by decide +kernel

/-- A leaf for page 0x10000 of address space 0, and a walk of that page for core 3. -/
def tag0 : W64 := BitVec.ofNat 64 (2 ^ 62 + 0x10000)
def tsc (l : List (BitVec 5 × W64)) : State := service 32 ([(6, tag0)] ++ l)
def walk0 : Walk := ⟨0, 1, 0, 127, 1, 3, 24, [(3, 24, 1)]⟩

/-- Nothing uses the entries, and no dirty line of their pages is held by the host. -/
def idleFor (s : State) (hit : TlbEntry → Bool) (walk : W32 → Nat → Bool) : Bool :=
  !s.pageBusy walk && !s.walkBusy walk && !(s.entryLines (s.allEntries.filter hit)).any (fun x => s.hostHeld.contains x.2)

theorem witness_TlbInstructions :
    ((tsc []).runs 7 = true ∧ (tsc []).worker = false ∧ isTsc (tsc []).core = true ∧ ((tsc [(5, 31)]).x 5).toNat < 32 ∧
      entryBad tag0 ((tsc [(7, 0x10700)]).x 7) = false ∧ entryBad tag0 ((tsc [(7, 1)]).x 7) = true ∧
      32 ≤ ((tsc [(5, 32)]).x 5).toNat ∧ ((tsc [(5, 62)]).x 5).toNat ≠ 63) ∧
    ((tsc []).x 7 = 0 ∧ (tsc [(7, 1)]).x 7 ≠ 0) ∧
    idleFor (tsc []) (fun e => entOverlap e ⟨tag0, 0, 0⟩) (fun job vpn => (tsc []).tagCovers tag0 job vpn) = true ∧
    idleFor (tsc []) (fun e => entAsid e == tag0.toNat % 2 ^ 16) (fun job _ => (tsc []).asid job == tag0.toNat % 2 ^ 16) = true ∧
    ((service 32 []).x 6 = 0 ∧ idleFor (service 32 []) (fun _ => true) (fun _ _ => true) = true ∧ Memory.wf (service 32 []).mem = true) ∧
    ((tsc [(7, 31)]).x 7).toNat < 32 ∧
    (let s : State := { tsc [] with walks := [walk0] }
     (∀ q ∈ s.pageReqs, s.tagCovers tag0 q.job q.vpn = false) ∧ s.outstanding 127 < 1024 ∧ s.tagCovers tag0 0 1 = true ∧
      (s.absentReq tag0 0 [walk0, walk0]).map (fun r => (r.fn, r.vpn)) = some (127, 1)) := by decide +kernel

theorem witness_ServiceControl :
    ((service 33 []).runs 7 = true ∧ (service 33 []).worker = false ∧ ((service 33 []).x 6).toNat ≤ (service 33 []).gtsNow) ∧
    ((service 33 [(6, 1)]).coreAt 33).waiting = 0 ∧ ¬ ((service 33 [(6, 1)]).x 6).toNat ≤ (service 33 [(6, 1)]).gtsNow ∧
    (isSteward (service 34 []).core = true ∧ (service 34 []).haltBad 0 = false ∧ (service 34 []).haltBad (BitVec.allOnes 64) = true ∧
      ((service 34 []).coreAt 0).fenced = false ∧
      (((service 34 []).modCore 0 (fun c => { c with fenced := true })).coreAt 0).fenced = true) ∧
    (((service 34 [(6, 0)]).x 6).toNat / 2 ^ 56 = 0 ∧ 7 ≤ ((service 34 [(6, 0x0700000000000000)]).x 6).toNat / 2 ^ 56) ∧
    (((service 34 [(6, 0x0100000000000000)]).x 6).toNat / 2 ^ 56 = 1 ∧
      (service 34 []).unitResult 0x0100000000000000 ≠ none ∧
      ((service 34 []).modCore 0 (fun c => { c with fenced := true })).unitResult 0x0100000000000000 = none) := by decide +kernel

theorem witness_GuardsAndPrivileges :
    (guardOf (.add 1 2 3 0 0 1) = some (1, 4) ∧ wk.runs 1 = false ∧ guardOf (.liw 1 9 5) = some (9, 8)) ∧
    (guardOf (.qpush 0 1 7) = some (7, 4) ∧ workerOnly (.qpush 0 1 7) = true ∧ (service 32 []).runs 7 = true ∧
      (service 32 []).worker = false) ∧
    (wk.worker = true ∧ isTsc wk.core = false ∧ isSteward wk.core = false ∧ isTsc (service 32 []).core = true ∧
      isTsc (service 33 []).core = false ∧ isSteward (service 33 []).core = false) := by
  refine ⟨⟨rfl, by decide +kernel, rfl⟩, ⟨rfl, rfl, by decide +kernel⟩, by decide +kernel⟩

/-! Events. -/

/-- The running slice of job 0, long enough to bind in. -/
def running0 : State :=
  { wk with sched := { wk.sched with slice := some ⟨0, [0x10000, 0x10000, 0x40000, 0x400000000, 0, 0, 0, 0], 0, 0, 2 ^ 40, 0, none⟩
                                     records := [(0, [0x10000, 0x10000, 0x40000, 0x400000000, 0, 0, 0, 0])] } }
def msg0 : Msg := ⟨1, fetchImage, false, none⟩
def full (n : Nat) (s : State) : State :=
  s.modCore 1 (fun c => { c with mail := RegFile.write c.mail 0 (List.replicate n ⟨fetchImage, none, 0, 0⟩) })

theorem witness_MessageDelivery :
    (let s := full 63 { running0 with flight := [msg0] }
     Memory.wf s.mem = true ∧ nth s.flight 0 = some msg0 ∧ msg0.ans = none ∧ inOrder s.liveCore s.flight msg0 0 = true ∧
      inOrder s.liveCore s.held msg0 s.held.length = true ∧ s.liveCore msg0.dest = msg0.dest ∧ isWorkerCore msg0.dest = true ∧
      s.isCancelled msg0.dest msg0.img.launch = false ∧ s.jobIn msg0.img.job = true ∧ msg0.agent = false ∧
      (subQueue (s.coreAt msg0.dest) msg0.img.cls).length < 64) ∧
    (let s := running0.modCore 1 (fun c => { c with cancelled := [0] })
     s.isCancelled msg0.dest msg0.img.launch = true) ∧
    (let m : Msg := { msg0 with agent := true }
     let s := full 64 { running0 with flight := [m] }
     nth s.flight 0 = some m ∧ m.agent = true ∧ 64 ≤ (subQueue (s.coreAt m.dest) m.img.cls).length) ∧
    (let s : State := { running0 with held := [msg0] }
     nth s.held 0 = some msg0 ∧ s.liveCore msg0.dest = msg0.dest ∧ inOrder s.liveCore s.held msg0 0 = true ∧ s.isCancelled msg0.dest msg0.img.launch = false ∧
      s.jobIn msg0.img.job = true ∧ s.takes msg0 = true) := by decide +kernel

theorem witness_CompletionsAndMarks :
    (let s : State := { wk.mod (fun t => { t with compl := List.replicate 15 (0, 0) }) with compls := [⟨0, 1, 7, 3⟩] }
     Memory.wf s.mem = true ∧ nth s.compls 0 = some ⟨0, 1, 7, 3⟩ ∧ s.slotOfTid 1 = some 0 ∧ (s.slotAt 0).compl.length < 16) ∧
    (let s := wk.mod (fun t => { t with pend := some (.waitm 5 0), wait := some ⟨1, 0x11000, 0, 0⟩ })
     (s.slotAt 0).pend = some (.waitm 5 0) ∧ ((s.slotAt 0).wait.map (fun w => (w.kind, w.operand, w.expect))) = some (1, 0x11000, 0) ∧
      s.translate (sidCore 0) (s.slotAt 0).job .read 0x11000 8 = .ok (.hbm 0x11000 false) ∧
      s.hostHolds (.hbm 0x11000 false) 8 = false ∧ s.spoiled (.hbm 0x11000 false) 8 = false ∧
      vpnOf 0x11000 ∉ (s.slotAt 0).deny) ∧
    (let s := wk.mod (fun t => { t with pend := some (.cancel 1) })
     s.slotOfTid (s.slotAt 0).tid = some 0 ∧ (s.slotAt 0).pend = some (.cancel 1) ∧ (s.slotAt 0).cmtd = true ∧
      (1 : W64).setWidth 32 ≠ (s.slotAt 0).launch) ∧
    (let s : State := { wk with launches := [(5, ⟨0, 1, 0, true, none, none⟩)] }
     (tfind s.launches (5 : W32).toNat).map (·.cancelled) = some true) := by decide +kernel

/-- An urgent entry and a plain one in the mailbox of core 1. -/
def urgentImage : Image := { fetchImage with w0 := 0x10010 }
def mailed (e : Image) : State := { running0.modCore 1 (fun c => { c with mail := RegFile.write c.mail 0 [⟨e, none, 0, 0⟩] }) with cyc := 100 }

theorem witness_BindingAndIssue :
    (((mailed fetchImage).coreAt 1).fenced = false ∧ (mailed fetchImage).freeSlot 1 = some 8 ∧
      tfind ((mailed fetchImage).coreAt 1).parkTo (sidNum 8) = none ∧ ((mailed fetchImage).promote 1).resumable 1 false = none ∧
      ((mailed fetchImage).promote 1).normalCands 1 ≠ []) ∧
    (isWorkerCore 1 = true ∧ ((mailed urgentImage).slotAt 12).task = none ∧ (mailed urgentImage).resumable 1 true = none ∧
      ((mailed urgentImage).coreAt 1).opener = none ∧
      (((mailed urgentImage).modCore 1 (fun c => { c with opener := some 8, opened := some (8, 100) })).coreAt 1).opened = some (8, (mailed urgentImage).cyc) ∧ ((mailed urgentImage).promote 1).urgentCands 1 ≠ []) ∧
    (((mailed urgentImage).coreAt 1).closedAt ≠ some (mailed urgentImage).cyc ∧
      ((mailed { fetchImage with handOver := some 1 }).promote 1).normalCands 1 ≠ []) ∧
    (∀ k, k < 3 → ((wk.modSlot 0 (fun t => { t with starting := some k })).slotAt 0).starting = some k) ∧
    (let s := wk.mod (fun t => { t with wait := some ⟨2, 0, 0, 0⟩ })
     s.mayIssue 4 = false ∧ ∀ j, j < 4 → s.mayIssue j = false) ∧
    (let s := (service 33 []).modSlot 264 (fun t => { t with starting := some 2 })
     isWorkerCore (sidCore 264) = false ∧ isTsc (sidCore 264) = false ∧ (s.slotAt 264).image.fromDevice = true) ∧
    (({ running0 with idle := 1 } : State).mayIssue 4 = false ∧ ({ running0 with idle := 1 } : State).mayIssue 0 = true) ∧
    (({ running0.setSlot 4 (Slot.start fetchImage 2) with idle := 1 } : State).mayIssue 4 = true) ∧
    (let s := wk.modCore 0 (fun c => { c with opener := some 0, retired := 64 })
     (s.coreAt 0).opener = some 0 ∧ sidCore 0 = 0 ∧ 64 ≤ (s.coreAt 0).retired) ∧
    (let s := wk.modCore 0 (fun c => { c with opener := some 0, retired := 63 })
     (s.coreAt 0).retired < 64 ∧ (s.slotAt 0).task ≠ none ∧ (s.slotAt 0).wait = none) ∧
    (let s : State := { wk.mod (fun t => { t with yielding := some ([1], 10) }) with cyc := 74 }
     (s.slotAt 0).yielding = some ([1], 10) ∧ 10 + 64 ≤ s.cyc ∧ (73 : Nat) < 10 + 64) := by decide +kernel

/-- Core 1 has a deque entry to steal and core 0, with a free slot, has asked it; the launch of four waiting tasks parks. -/
def stealing (v : Steal) (d : List QEntry) : State :=
  (running0.modCore 0 (fun c => { c with steal := v })).modCore 1 (fun c => { c with deque := d })
def twoEntries : List QEntry := [⟨fetchImage, none, 0, 0⟩, ⟨fetchImage, none, 0, 0⟩]
def parking (p : List (W32 × Nat)) : State :=
  (List.range 4).foldl (fun s k => s.setSlot k { Slot.start fetchImage (k + 1) with
      wait := some ⟨2, 0, 0, 10 + k⟩, frame := 0x40000 + 0x1000 * k })
    { (running0.modCore 0 (fun c => { c with parks := p, mail := RegFile.write c.mail 0 [⟨fetchImage, none, 0, 0⟩] })) with cyc := 5000 }

theorem witness_StealingAndParking :
    (let s := stealing ⟨0, none, none, none⟩ twoEntries
     (s.coreAt 0).steal.victim = none ∧ (s.coreAt 0).steal.backoff = none ∧ s.maySteal 0 = true ∧
      (nth (victims 0) (s.coreAt 0).steal.pos).isSome = true) ∧
    (let s := stealing ⟨0, some 5, none, none⟩ []
     (s.coreAt 0).steal.victim = some 5 ∧ s.granter 5 = none ∧ 0 + 1 < (victims 0).length) ∧
    ((victims 0).length ≤ ((stealing ⟨(victims 0).length - 1, some 5, none, none⟩ []).coreAt 0).steal.pos + 1) ∧
    (let s := stealing ⟨0, some 1, none, none⟩ twoEntries
     s.granter 1 = some 1 ∧ 1 ≠ 0 ∧ (s.coreAt 1).deque = twoEntries ∧ (s.coreAt 0).fenced = false ∧ s.isCancelled 0 fetchImage.launch = false ∧ s.hostBlocks (coreCluster 1) (scopeBetween 1 0) = false ∧
      s.freeSlot 0 = some 1 ∧ (s.release (coreCluster 1) (scopeBetween 1 0)).canFrame 0 fetchImage = true) ∧
    (let s : State := { stealing ⟨0, none, some 10, none⟩ [] with cyc := 1034 }
     (s.coreAt 0).steal.backoff = some 10 ∧ 10 + 1024 ≤ s.cyc) ∧
    ((parking []).parkable 0 0 = true ∧ ((parking []).coreAt 0).parks.find? (fun e => e.1 == 0) = none) ∧
    (let s := parking [(0, 904)]
     s.parkLaunch 0 = some 0 ∧
      ∀ k, k < 4 → (s.slotAt (0 * 8 + k)).frame ≠ 0 ∧ ∀ m ∈ (s.coreAt 0).cmds, m.tid ≠ (s.slotAt (0 * 8 + k)).tid) ∧
    (let s := stealing ⟨0, some 1, none, none⟩ [⟨fetchImage, none, 0, 0⟩]
     (s.coreAt 0).fenced = false ∧ s.granter 1 = some 1 ∧ (s.coreAt 1).deque = [⟨fetchImage, none, 0, 0⟩]) ∧
    (let d : List QEntry := [⟨{ fetchImage with handOver := some 4 }, none, 0, 0⟩, ⟨fetchImage, none, 0, 0⟩]
     let s := stealing ⟨0, some 1, none, none⟩ d
     s.granter 1 = some 1 ∧ s.hostBlocks 0 (scopeBetween 1 0) = false ∧ scopeBetween 1 0 = 1) ∧
    (((stealing ⟨0, some 1, none, none⟩ twoEntries).modCore 0 (fun c => { c with fenced := true })).coreAt 0).fenced = true := by
  decide +kernel

/-- Queue 5 of function 127, enabled, for core 1 of job 0 and ring 3; ring `r` enabled with 64 entries. -/
def wqWord : W64 := BitVec.ofNat 64 (2 ^ 63 + 127 * 2 ^ 56 + 1 * 2 ^ 44 + 3 * 2 ^ 32)
def ringWord : W64 := BitVec.ofNat 64 (2 ^ 63 + 127 * 2 ^ 56 + 6 * 2 ^ 51)
def host0 (slots : Tbl WqSlot) (seq : Nat) : State :=
  { running0 with
    host := { running0.host with queues := [(5, ⟨wqWord, seq, slots⟩)], rings := [(0, ⟨0x1000, ringWord, 0, 0, []⟩), (3, ⟨0x10000, ringWord, 0, 0, []⟩)] }
    health := { running0.health with step := 9 } }

theorem witness_HostQueues :
    (Memory.wf (host0 [] 0).mem = true ∧ 5 ≤ (host0 [] 0).health.step ∧ State.reset.health.step < 5 ∧ (host0 [] 0).host.graphs = [] ∧ (host0 [] 0).wqBound 127 5 = true ∧
      (host0 [] 0).wqReady wqWord = true ∧ ((host0 [] 0).queue 5).freeSlot = some 0 ∧ (host0 [] 0).wqBound 3 5 = false) ∧
    (let s := host0 [(63, .reserved 0 0)] 1
     s.wqBound 127 5 = true ∧ tfind (s.queue 5).slots 63 = some (.reserved 0 0) ∧ imageBad 0x10000 = false ∧
      (0x1000 + 64 * 63 + 8) / 64 = 0x40 + 63 ∧ (0x1000 + 64 * 63 + 8) % 64 ≠ 0 ∧ RingReady s 3) ∧
    (let s : State := { host0 [(63, .reserved 0 0)] 1 with gts := Vector.replicate 4 100000 }
     0 + 100000 ≤ s.gtsOf 0 ∧ RingReady s 3) ∧
    (let s := host0 [(0, .filled 0 [0x10000] none)] 1
     (s.queue 5).nextSlot = some (0, .filled 0 [0x10000] none) ∧ CoreOpen s wqWord ∧ 1 ≤ s.nextLaunch ∧ s.nextLaunch < 2 ^ 22 ∧
      tfind s.launches (s.pkg.toNat * 2 ^ 22 + s.nextLaunch) = none) ∧
    (let i : Image := { fetchImage with w5 := 0x100000000 }
     let s := { host0 [(0, .admitted i)] 1 with launches := [(1, ⟨0, 1, 0, false, some 3, none⟩)] }
     (s.queue 5).nextSlot = some (0, .admitted i) ∧ i.job = wqWord.setWidth 32 ∧
      (tfind s.launches i.launch.toNat).any (·.cancelled) = false ∧ s.isCancelled (queueCore wqWord) i.launch = false) ∧
    (wqcfgBad wqWord = false ∧ ((host0 [] 0).queue 6).cfg.getLsbD 63 = false ∧ ((host0 [] 0).queue 5).cfg.getLsbD 63 = true ∧
      wqWord.getLsbD 63 = true ∧ (wqWord ^^^ 0x8000000000000000).getLsbD 63 = false) ∧
    (((host0 [] 0).ring 1023).held = [] ∧ ((host0 [] 0).ring 1023).on = false ∧ ((host0 [] 0).ring 3).held = []) ∧
    (((host0 [] 0).ring 3).on = true ∧ ringWord.getLsbD 63 = true ∧ (ringWord ^^^ 0x8000000000000000).getLsbD 63 = false ∧ 1023 < 1024) ∧
    (6 ≤ (ringWord.extractLsb' 51 5).toNat ∧ (ringWord.extractLsb' 51 5).toNat ≤ 16 ∧ ringWord.getLsbD 63 = true) := by
  unfold RingReady CoreOpen; decide +kernel

/-- Host memory with the words of a graph descriptor at 0x2000: one launch of handler 0x10000 on queue 5. -/
def graphed (w0 w1 : Nat) : State :=
  let s := host0 [] 0
  let m := memWrite (memWrite s.mem (hostBase + 0x2000) 8 255 w0) (hostBase + 0x2008) 8 255 w1
  { s with mem := memWrite m (hostBase + 0x2040) 8 255 0x10000 }

theorem witness_HostControl :
    (Memory.wf (graphed 0 0).mem = true ∧ 5 ≤ (graphed 0 0).health.step ∧ (graphed 0 0).graphFault 127 0x2000 ≠ none ∧ RingReady (graphed 0 0) 0) ∧
    (let s := { graphed (9 * 2 ^ 32 + 4) (3 * 2 ^ 32 + 5) with host := { (graphed (9 * 2 ^ 32 + 4) (3 * 2 ^ 32 + 5)).host with phases := [⟨4, 0, 3, 1, false, false⟩] } }
     s.graphFault 127 0x2000 = none ∧ s.host.graphs = [] ∧ (s.queue 5).freeSlot = some 0 ∧
      (s.hostWord 0x2000 1).toNat % 2 ^ 13 = 5) ∧
    ((BitVec.ofNat 64 (2 ^ 63 + 3 * 2 ^ 48 + 2 ^ 32 + 4)).extractLsb' 58 5 = 0#5 ∧ ∀ p ∈ (host0 [] 0).host.phases, ¬ (p.id = 4 ∧ p.job = 0)) ∧
    (let p : Phase := ⟨4, 0, 3, 0, false, true⟩
     let s := { host0 [] 0 with host := { (host0 [] 0).host with phases := [p] } }
     s.host.phases.find? (fun p => p.id == 4 && p.left == 0) = some p ∧ p.last = false ∧ RingReady s p.ring) ∧
    (let s := { host0 [] 0 with launches := [(1, ⟨0, 1, 0, false, some 3, none⟩)] }
     (1 : W64).extractLsb' 32 32 = 0#32 ∧ (tfind s.launches 1).map (·.work) = some 1 ∧
      s.host.queues.any (fun q => q.2.cfg != 0 && (q.2.cfg.extractLsb' 56 7).toNat == 127 && q.2.cfg.setWidth 32 == (0 : W32)) = true) ∧
    (let r : PageReq := ⟨127, 6, 2, 0, 0, 0, 1, 0, 0, [], false⟩
     let s := { wk with pageReqs := [r] }
     (6 : W64).extractLsb' 32 30 = 0#30 ∧ s.pageReqs.find? (fun r => r.fn.toNat == 127 && r.prid == 6 && !r.answered) = some r ∧
      (6 : W64).extractLsb' 62 2 = 0#2 ∧ (0x4000000000000006 : W64).extractLsb' 62 2 = 1#2) ∧
    (wk.host.attstat ≠ 2 ∧ ({ wk with host := { wk.host with attstat := 2 } } : State).host.attstat = 2) := by
  unfold RingReady; decide +kernel

/-- The block of `sends` and ring 3 of this package as its target, with `n` entries in the ring. -/
def toRing (n : Nat) : State :=
  let s := host0 [] 0
  let s := { s with host := { s.host with rings := [(3, ⟨0x10000, ringWord, n, 0, []⟩)] }, mem := memWrite s.mem 0x11000 8 255 0x10000 }
  s.mod (setX [(3, BitVec.ofNat 64 (2 ^ 62 + 3)), (5, 0x11000)])

theorem witness_MessagesSentRing :
    RingHere (toRing 63) ((toRing 63).x 3) ∧ targetRing ((toRing 63).x 3) = 3 ∧ ((toRing 63).ring 3).full = false ∧
    ((toRing 64).ring 3).full = true ∧ BlockReadable (toRing 63) 0x11000 (.hbm 0x11000 false) ∧
    (let r := (toRing 63).blockRead 0x11000 (.hbm 0x11000 false)
     r.2.slot.cmtd = true ∧ r.2.hostBlocks 0 4 = false) ∧ Memory.wf (toRing 63).mem = true := by
  refine ⟨?_, by decide +kernel, by decide +kernel, by decide +kernel, ?_, by decide +kernel⟩
  · constructor <;> decide +kernel
  · constructor
    all_goals first | decide +kernel | nofun

/-- R323, R335: an uncommitted task of the running job that finds no frame; completions of two tasks. -/
theorem witness_OrderAndDiscard :
    (let s := (({ running0 with sched := { running0.sched with records := [] } } : State).mod (fun t => { t with cmtd := false }))
     s.worker = true ∧ trapFrame s = 0 ∧ s.isCancelled (s.liveCore s.core) s.slot.launch = false ∧ s.jobIn s.slot.job = true) ∧
    (let l : List Compl := [⟨8, 2, 7, 3⟩, ⟨0, 1, 7, 3⟩]
     nth l 1 = some ⟨0, 1, 7, 3⟩ ∧ ∀ o ∈ l.take 1, o.tid ≠ 1) := by decide +kernel

/-- A slice table at 0x30000 of the supervisor's space with one entry: job 0, record at 0x30100, from 1,000 to 100,000. -/
def tabled : State :=
  let m := memWrite running0.mem 0x30000 8 255 (2 ^ 48)
  let m := memWrite m 0x30048 8 255 0x30100
  let m := memWrite m 0x30050 8 255 1000
  let m := memWrite m 0x30058 8 255 100000
  let m := memWrite m 0x30100 8 255 0x10000
  let m := memWrite m 0x30108 8 255 0x10000
  let m := memWrite m 0x30118 8 255 (2 ^ 32)
  { running0 with
    mem := m, gts := Vector.replicate 4 1000
    tables := [⟨BitVec.ofNat 64 (2 ^ 62 + 0x30000), BitVec.ofNat 64 (0x30000 + 0x300), 0⟩]
    sched := { running0.sched with slice := none, slicetab := 0x30000 }
    health := { running0.health with step := 9, inSync := true } }

/-- The request of a SEND of task 1 whose answer is outstanding. -/
def asked : Req := ⟨1, 7, 0, 1, 0, none, 1, 8, 0, [], none, 0, 0, 0, 127, 8, 0, 0, .sent, 0, false, none, 0, .msg false⟩

theorem witness_SlicesAndErrors :
    (let s : State := { running0 with gts := Vector.replicate 4 (2 ^ 40) }
     Memory.wf s.mem = true ∧ s.sched.slice.map (·.stop) = some (2 ^ 40) ∧ 2 ^ 40 ≤ s.gtsOf 0 ∧ isWorkerCore (sidCore 0) = true ∧
      (s.slotAt 0).task.isSome = true ∧ (s.slotAt 0).cmtd = true ∧
      (s.slots.filter (fun e => e.2.task.isSome && e.2.tid == (s.slotAt 0).tid)).map (·.1) = [0] ∧
      ∀ m ∈ (s.coreAt (sidCore 0)).cmds, m.tid ≠ (s.slotAt 0).tid) ∧
    (tabled.sched.slice = none ∧ tabled.sched.pending = none ∧
      tabled.entryAt tabled.sched.slicetab (tabled.gtsOf 0) = some (0, ⟨0, 0x30100, 1000, 100000⟩) ∧ tabled.mayStart 1000 = true ∧
      recordBad ((List.range 8).map (tabled.sysWord 0x30100)) = false) ∧
    (5 ≤ tabled.health.step ∧ tabled.tableFault 0x30000 = none ∧ (host0 [] 0).tableFault 0x30000 = some 0 ∧ RingReady (host0 [] 0) 0) ∧
    (let s : State := { wk.mod (fun t => { t with wait := some ⟨2, 0, 0, 10⟩ }) with cyc := 2 ^ 30 + 10 }
     s.slotOfTid (s.slotAt 0).tid = some 0 ∧ (s.slotAt 0).wait = some ⟨2, 0, 0, 10⟩ ∧ 10 + 2 ^ 30 ≤ s.cyc ∧
      tfind s.saved (s.slotAt 0).tid = none ∧ s.reqs = []) ∧
    ((matrix 0 [] []).regions = [] ∧ (({ wk with reqs := [asked] } : State).reqs.map (fun r => (r.tid, r.num, r.st))) = [((wk.slotAt 0).tid, 0, .sent)]) ∧
    ({ wk with regions := [region0] } : State).regions.any (fun r => r.has (2 ^ 36)) = true ∧
    ((∀ r ∈ wk.regions, r.has 0x11000 = false) ∧ (wk.slotAt 0).task ≠ none) ∧
    (let s : State := { service 33 [] with gts := Vector.replicate 4 7 }
     let t := s.modSlot 264 (fun t => { t with pend := some (.idle 7) })
     let u := s.modSlot 264 (fun t => { t with pend := some (.wfm 5 7) })
     (t.slotAt 264).pend = some (.idle 7) ∧ (7 : W64).toNat ≤ t.gtsOf (coreDie (sidCore 264)) ∧
      (u.slotAt 264).pend = some (.wfm 5 7) ∧
      ((s.modSlot 272 (fun t => { t with pend := some (.selft 5 9) })).slotAt 272).pend = some (.selft 5 9) ∧ 1 < 2) := by
  unfold RingReady; decide +kernel

def upPort : Port :=
  { Port.reset with st := .up, slotA := { KeySlot.empty with ready := true }, lanes := 8 }

/-- The package with one unit to be tested, a port of each state, and the rings of `host0`. -/
def health0 (f : Health → Health) : State := { host0 [] 0 with health := f (host0 [] 0).health }

theorem witness_TimeAndHealth :
    (let s := health0 (fun h => { h with todo := [0x0100000000000008] })
     Memory.wf s.mem = true ∧ (0x0100000000000008 : W64) ∈ s.health.todo ∧ RingReady s 0 ∧
      s.unitResult 0x0100000000000008 = some 2 ∧ (s.modCore 1 (fun c => { c with fenced := true })).unitResult 0x0100000000000008 = none ∧
      (0x0100000000000008 : W64).toNat / 2 ^ 56 = 1) ∧
    (let s := health0 (fun h => { h with corr := List.replicate 15 (7, 0) })
     15 ≤ (s.health.corr.filter (fun e => decide (e.1 = 7) && decide (s.gtsOf 0 < e.2 + 86400 * 10 ^ 9))).length ∧
      (s.health.corr.filter (fun e => decide (e.1 = 8) && decide (s.gtsOf 0 < e.2 + 86400 * 10 ^ 9))).length < 15) ∧
    ((health0 id).health.step = 9 ∧ (health0 id).health.eolBelow = false ∧ RingReady (health0 id) 0 ∧
      (health0 id).gtsOf 0 / (3600 * 10 ^ 9) ≤ (health0 id).health.eolHour ∧
      (let s := { health0 id with gts := Vector.replicate 4 (3600 * 10 ^ 9) }
       s.health.eolHour < s.gtsOf 0 / (3600 * 10 ^ 9))) ∧
    (wk.health.step ≤ 3 ∧ firmwareCode none ≠ 0 ∧ (8 : Nat) ≤ 8) ∧
    ((health0 (fun h => { h with step := 4 })).health.step = 4 ∧ (health0 (fun h => { h with step := 5 })).health.step = 5 ∧
      5 ≤ (health0 id).health.step ∧ 63 < 64 ∧ 127 = 127) ∧
    (let s := health0 (fun h => { h with todo := [0x040000000000008F] })
     (0x040000000000008F : W64) ∈ s.health.todo ∧ s.unitResult 0x040000000000008F = none ∧ (0x040000000000008F : W64).toNat / 2 ^ 56 = 4) ∧
    (let s := health0 (fun h => { h with todo := [0x0500000000000005] })
     0x0500000000000005 ∈ s.health.todo ∧ (0x0500000000000005 : W64) = BitVec.ofNat 64 (5 * 2 ^ 56 + 5) ∧ s.unitResult 0x0500000000000005 = none) ∧
    ((health0 id).health.inSync = false ∧ 49 < 50 ∧ 7 ≤ (health0 id).health.step ∧ ((health0 id).setPort 17 upPort).port 17 = upPort ∧
      upPort.st = .up ∧ (∀ n, n < 18 → ((health0 id).port n).st ≠ .up)) ∧
    ((health0 (fun h => { h with inSync := true })).health.inSync = true ∧ 80 < 81) ∧
    (let s := { health0 (fun h => { h with inSync := true, grandmaster := 1 }) with gts := Vector.replicate 4 250000000 }
     s.health.offset = 0 ∧ s.isMaster = false ∧ s.health.lastSync + 250000000 ≤ s.gtsOf 0 ∧
      (health0 (fun h => { h with inSync := true })).gtsOf 0 < 0 + 250000000) ∧
    ((wk.fnAt 63).prcfg.getLsbD 63 = false ∧ (wk.fnAt 127).prcfg.getLsbD 63 = false ∧ 17 < 18 ∧ (1 : W64).getLsbD 0 = true) := by
  unfold RingReady; decide +kernel

/-- A stream bound to v24 whose configuration reads one line at 0x10000 and holds no element yet. -/
def fetching : State :=
  wk.mod (fun t => { t with z := RegFile.write t.z 2 ⟨some ⟨0x10000, 1, 1, 1, 64, 64, 64, 0⟩, 0, 0, 0, some 24, true, []⟩ })

theorem witness_MemorySide :
    (5 ≤ (host0 [] 0).health.step ∧ (host0 [] 0).heldFrom = 2 ^ 39 ∧ (host0 [] 0).poison = []) ∧
    (Memory.wf wk.mem = true ∧ wk.heldFrom = 2 ^ 39 ∧ 2 ^ 39 - 1 < wk.heldFrom ∧ wk.poison.contains ((2 ^ 39 - 1) / 64) = false) ∧
    ((2 ^ 39 - 64) / 64 ∉ wk.hostHeld) ∧
    ((RegFile.read (fetching.slotAt 0).z 2).nextFetch.map (fun x => x.1.addr x.2.1 x.2.2.1 x.2.2.2) = some 0x10000 ∧
      fetching.streamAsked 0 2 = false ∧ addrFault 0x10000 64 = false ∧ (0x10000 : W64).toNat % 64 = 0 ∧
      fetching.deviceTr (sidCore 0) (streamUnit (fetching.slotAt 0).tid 2) (fetching.slotAt 0).job .read 0x10000 64 = .ok (.hbm 0x10000 false) ∧
      fetching.hostHolds (.hbm 0x10000 false) 64 = false ∧ fetching.poison.contains ((Place.hbm 0x10000 false).flat / 64) = false) := by
  decide +kernel

/-- A request of task 1 to package 1, as sent, with its continuation. -/
def req0 (c : Cont) (num limit rnr : Nat) : Req :=
  ⟨1, 7, 0, 1, num, none, 1, 0x200038, 0xFF00000000000000, [], none, 0, 0, 0, 127, limit, rnr, 0, .sent, 0, false, none, 0, c⟩
def waiting (r : Req) : State :=
  { wk.mod (fun t => { t with pend := some (.remote 4 7 [r.rid] none 0 0) }) with reqs := [r] }
/-- A load of package 1, job 0, of the line at 0x10000, and a store of it, as packets; die 0 has the page in its TLB. -/
def packet (num len : Nat) (aux : W64) : List W64 :=
  [pkHead 0 1 1 127 false 0 len none, 0x10000, 5, aux, BitVec.ofNat 64 (256 * num), 0, 0, 0, 0, 0, BitVec.ofNat 64 (2 ^ 48), 0]
    ++ List.replicate (8 * len) 0x55
def agentHas (p : List W64) : State :=
  let s := { running0 with fabric := { running0.fabric with agent := [0 :: p] } }
  s.modDie 0 (fun d => { d with tlb := [fetchLeaf 0] })

theorem witness_RemoteAnswers :
    (let r := req0 (.load 5 (2 ^ 3) true) 2 8 0
     let s := waiting r
     Memory.wf s.mem = true ∧ s.reqs.find? (fun r => r.host.isNone && r.st == .sent && r.net == 7) = some r ∧
      s.slotOfTid r.tid = some 0 ∧ (s.slotAt 0).pend = some (.remote 4 7 [r.rid] none 0 0) ∧ r.acq = false ∧
      r.mask = lineMask r.va (2 ^ 3) ∧ r.va.toNat % 2 ^ 3 = 0) ∧
    ((req0 .store 3 8 7).num ≠ 0 ∧ (req0 .store 3 8 7).limit ≤ (req0 .store 3 8 7).rnr + 1 ∧
      (req0 .store 3 8 6).rnr + 1 < (req0 .store 3 8 6).limit) ∧
    (let s := agentHas (packet 2 0 0xFF)
     nth s.fabric.agent 0 = some (0 :: packet 2 0 0xFF) ∧ s.agentBefore 0 0 (packet 2 0 0xFF) = false ∧ pkNum (packet 2 0 0xFF) = 2 ∧
      (({ s with fabric := { s.fabric with agent := delAt s.fabric.agent 0 } } : State).destTr 0 (packet 2 0 0xFF) .read true
        (pkAddr (packet 2 0 0xFF))).1 = .ok 0x10000 false ∧ s.hostHolds (.hbm 0x10000 false) 64 = false) ∧
    (let s := agentHas (packet 3 1 0xFF)
     pkNum (packet 3 1 0xFF) = 3 ∧ pkLen (packet 3 1 0xFF) ≠ 0 ∧
      (({ s with fabric := { s.fabric with agent := delAt s.fabric.agent 0 } } : State).destTr 0 (packet 3 1 0xFF) .write true
        (pkAddr (packet 3 1 0xFF))).1 = .ok 0x10000 false) := by decide +kernel

def ported (f : Port → Port) : State := running0.setPort 17 (f upPort)
def arrivedPk (p : List W64) : State := (agentHas []).modDie 0 (fun d => { d with arrived := [p] })
def msgPacket : List W64 :=
  [pkHead 0 1 0 127 false 0 0 none, 8, 5, 0, 0x10000, 0, 0, 0, 0, 0, BitVec.ofNat 64 (2 ^ 48), 0]

theorem witness_Gateways :
    (let r : Req := { req0 .store 63 8 0 with st := .queued }
     let s := waiting r
     nth s.reqs 0 = some r ∧ r.st = .queued ∧ r.host = none ∧ r.img.isNone = true ∧ s.orphan r = false ∧ s.gatewayBefore 0 r = false ∧ r.pkg < 2 ^ 10 ∧ r.num < 64 ∧
      s.pickPort (coreDie (sidCore r.sid)) r.pkg = none ∧ (s.setPort 17 upPort).pickPort (coreDie (sidCore r.sid)) r.pkg = some 17) ∧
    (let o : OutPkt := ⟨packet 2 0 0xFF, 0, 0, none⟩
     let r := { req0 .store 3 8 0 with net := 5 }
     let s : State := { waiting r with fabric := { wk.fabric with out := [o] }, gts := Vector.replicate 4 10000 }
     nth s.fabric.out 0 = some o ∧ o.since + 10000 ≤ s.gtsOf o.die ∧ pkType o.pkt = 1 ∧ pkNum o.pkt < 68 ∧
      s.reqs.find? (fun r => r.host.isNone && r.st == .sent && r.net == pkRid o.pkt) = some r ∧ pkType msgPacket = 0) ∧
    (let s := arrivedPk (packet 2 0 0xFF)
     nth (s.dieAt 0).arrived 0 = some (packet 2 0 0xFF) ∧ (∀ d ∈ s.fabric.performed, sameReq (packet 2 0 0xFF) d = false) ∧
      s.fabric.performed.length < 4096 ∧ pkBad (packet 2 0 0xFF) = false ∧ pkType (packet 2 0 0xFF) = 1 ∧
      (tfind s.sched.records (pkJob (packet 2 0 0xFF)).toNat).isSome = true ∧ pkNum (packet 2 0 0xFF) = 2 ∧
      ((((s.modDie 0 (fun v => { v with arrived := delAt v.arrived 0 })).forget 0).destTr 0 (packet 2 0 0xFF) .read true
        (pkAddr (packet 2 0 0xFF))).1) = .ok 0x10000 false) ∧
    (pkBad (packet 2 65 0xFF) = true ∧ (tfind (arrivedPk msgPacket).sched.records 1).isSome = false) ∧
    (pkBad msgPacket = false ∧ pkType msgPacket = 0 ∧ (tfind (arrivedPk msgPacket).sched.records (pkJob msgPacket).toNat).isSome = true ∧
      pkAux msgPacket = 0 ∧ targetKind (pkAddr msgPacket) = 0 ∧ (arrivedPk msgPacket).msgTargetOk msgPacket = true ∧
      pkOrdf msgPacket = false) ∧
    (let p := packet 2 0 0xFF
     let s := (arrivedPk p).forwardTo ⟨0, 0, 0x10000, 2⟩ true
     let s := s.modDie 0 (fun d => { d with tlb := [] })
     pkBad p = false ∧ pkType p = 1 ∧ pkNum p = 2 ∧ (tfind s.sched.records (pkJob p).toNat).isSome = true ∧ addrFault (pkAddr p) 1 = false ∧
      inReserved (pkAddr p) = false ∧ inLink (pkAddr p) = false ∧ s.regionOf (pkJob p) (pkAddr p) = none ∧
      supervisorHalf (pkAddr p) = false ∧ tlbLookup (s.dieAt 0).tlb (s.asid (pkJob p)) (pkAddr p) = none ∧
      s.forwardOf (pkJob p) (pkAddr p) = some ⟨0, 0, 0x10000, 2⟩) ∧ 5 < 6 := by decide +kernel

def flitHdr (type : Nat) (seq : Nat) : W64 := BitVec.ofNat 64 (type * 2 ^ 60 + seq * 2 ^ 47 + 3 * 2 ^ 32)

theorem witness_PortsRefuse :
    (upPort.swpend = false ∧ upPort.autoAt = none ∧ (({ upPort with swpend := true } : Port).slot (!upPort.txB)).ready = false) ∧
    (3 ≤ fltType (flitHdr 3 0) ∧ fltNak (flitHdr 3 0) = false ∧ fltSeq (flitHdr 3 0) = upPort.rxseq) ∧
    (let p := (ported (fun p => { p with st := .training, bad := 0xF0 })).port 17
     p.st = .training ∧ 0xFF#8 &&& ~~~p.bad = 0x0F#8) := by decide +kernel

theorem witness_Ports :
    (let p := (ported (fun p => { p with queue := [(true, true, packet 2 0 0xFF)] })).port 17
     p.open = true ∧ p.markerDue = false ∧ p.atLimit = false ∧ p.queue = [(true, true, packet 2 0 0xFF)]) ∧
    (let p := (ported (fun p => { p with swpend := true, slotB := p.slotA })).port 17
     p.open = true ∧ p.markerDue = true) ∧
    (let p := (ported (fun p => { p with naks := true })).port 17
     p.open = true ∧ p.markerDue = false ∧ p.atLimit = false ∧ p.queue = [] ∧ p.naks = true ∧ p.st = .up) ∧
    (fltType (flitHdr 1 0) < 2 ∧ fltNak (flitHdr 1 0) = false ∧ fltSeq (flitHdr 1 0) = upPort.rxseq ∧
      fltSeq (flitHdr 1 4095) ≠ upPort.rxseq ∧ fltSlot (flitHdr 1 0) = upPort.rxB ∧ upPort.rxTries < 7 ∧
      upPort.authfail ≠ BitVec.allOnes 16 ∧ fltType (flitHdr 0 0) = 0 ∧ fltSop (flitHdr 1 0) = true ∧ fltEop (flitHdr 1 0) = true ∧
      pkType (packet 2 0 0xFF) = 1) ∧
    (let s := { ported (fun p => { p with replayAt := some 0, replay := [⟨0, 0, []⟩], attempts := 6 }) with gts := Vector.replicate 4 2000 }
     let p := s.port 17
     p.replayAt = some 0 ∧ p.st = .up ∧ 0 + 2000 ≤ s.gtsOf (portDie 17) ∧ p.replay ≠ [] ∧ p.attempts < 7 ∧
      p.replays.toNat + p.replay.length < 2 ^ 32) ∧
    (let s := { ported (fun p => { p with st := .training }) with gts := Vector.replicate 4 1000000000 }
     (s.port 17).st = .training ∧ (s.port 17).entered + 1000000000 ≤ s.gtsOf 0) ∧
    (let s := { ported (fun p => { p with st := .down }) with gts := Vector.replicate 4 1000000000, health := { wk.health with step := 6 } }
     (s.port 17).st = .down ∧ 6 ≤ s.health.step ∧ (s.port 17).entered + 1000000000 ≤ s.gtsOf 0) ∧
    (let p := (ported (fun p => { p with slotB := p.slotA })).port 17
     p.swpend = false ∧ p.autoAt = none ∧ p.open = true ∧ (p.slot (!p.txB)).ready = true) ∧
    ((upPort.slot (!upPort.txB)).ready = false ∧ upPort.st ≠ .disabled) ∧
    (((ported (fun p => { p with st := .disabled })).port 17).st = .disabled) ∧
    (let p := (ported (fun p => { p with st := .nokey, slotA := KeySlot.empty })).port 17
     (p.slot (0 == 1)).ready = false ∧ p.limstall = false ∧ p.st = .nokey ∧ p.txB = (0 == 1) ∧ p.rxB = (0 == 1)) ∧
    (¬ (upPort.st = .up ∧ (upPort.txB = (1 == 1) ∨ upPort.rxB = (1 == 1))) ∧ upPort.st = .up ∧ upPort.txB = (0 == 1)) := by
  decide +kernel

/-- A lookup of one row of sixteen FP32 elements at 0x11000, with 32 keys of dimension 64. -/
def pkWords : List W64 :=
  [0x12000, 0x14000, 0x11000, 0, 0, BitVec.ofNat 64 (32 * 2 ^ 32 + 32 * 2 ^ 16 + 16), BitVec.ofNat 64 (2 ^ 16)] ++ List.replicate 9 0
def look0 (stage : PkStage) (member : Nat) : Lookup :=
  ⟨0, member, 0x10000, 0x13000, .hbm 0x10000 false, .hbm 0x13000 false, 0, [], [(0, 64, .hbm 0x16000 false)], [], 9, 0, 1, 8, 0, 0, 127, stage, 0, pkWords, 0x16000, 0x17000, [(0, 0x3F800000)], [0], [], [], [0], [], List.replicate 16 0,
    0, [], false, 0, [], 0, none⟩
/-- The same unit with the descriptor at 0x13000 and the request block at 0x10000 in memory. -/
def unit0 (l : Lookup) (f : List PkFetch) (rr : List Nat) : State :=
  let s := wk.modCluster 0 (fun c => { c with pklu := ⟨1, [l], f, rr, false⟩ })
  let m := pkWords.zipIdx.foldl (fun m w => memWrite m (0x13000 + 8 * w.2) 8 255 w.1.toNat) s.mem
  { s with mem := memWrite (memWrite m 0x10000 8 255 0x16000) 0x10008 8 255 0x17000, cyc := 1 }
def fetch0 : PkFetch := ⟨0, 0x11000, 64, [(.hbm 0x11000 false, 0, 64)], pkSegs pkWords 0, [(0, 64, .hbm 0x11000 false)], 0, 0, [(0, 0)], false, 0, 0, none, 0, 0, []⟩

theorem witness_LookupEvents :
    (let l := look0 .waiting 0
     let s := unit0 l [] []
     s.isCancelled (sidCore 0) 0 = false ∧ s.lookHeld l = false ∧ (s.pklu 0).first = some l ∧ l.arrived < s.cyc ∧
      (State.placeRead 0 0 (l.descAt.lines 128) s).toOption.map (fun x => (List.range 16).map (word64 x.1)) = some pkWords ∧
      pkDescBad 0 pkWords = false ∧ pkDescBad 1 pkWords = false ∧
      (State.blockWord 0 l 0 true s).toOption.map (·.1) = some 0x16000 ∧ (State.blockWord 0 l 1 true s).toOption.map (·.1) = some 0x17000 ∧
      (s.unitRange 0 (lookUnit 0 0) 0 .write 0x10018 (8 * pkK pkWords)).toOption.isSome = true ∧
      (s.ownRange 0 (lookUnit 0 0) 0 .read 0x16000 (4 * pkHdim pkWords)).toOption.isSome = true ∧
      (s.ownRange 0 (lookUnit 0 0) 0 .write 0x17000 (4 * pkRowlen pkWords)).toOption.isSome = true ∧ ({ s with cyc := 0 } : State).cyc ≤ l.arrived) ∧
    (pkDescBad 0 (0 :: pkWords) = true) ∧
    (let s := unit0 (look0 .scoring 1) [] []
     s.lookOf 0 0 = some (look0 .scoring 1) ∧ (∀ va ∈ keyLines pkWords, s.unitPlace 0 (lookUnit 0 0) 0 .read va 64 = .here (.hbm va false)) ∧
      pkK pkWords ≠ 0 ∧ (State.placeRead 0 0 (look0 .scoring 1).queryPl s).toOption.isSome = true ∧
      (State.unitRead 0 (lookUnit 0 0) 0 0 [] (pieces 0x12000 (pkNkeys pkWords * 2 * pkHdim pkWords)) s).toOption.isSome = true) ∧
    (let s := unit0 (look0 .gather 0) [] [0]
     (s.pklu 0).rr = [0] ∧ s.lookOf 0 0 = some (look0 .gather 0) ∧ pkWhirl pkWords = false ∧ (s.pklu 0).visited = false ∧
      pkCost pkWords ≤ 0 + pkQuantum pkWords ∧ badPiece (segPieces (pkSegs pkWords 0)) = none ∧
      (∀ q ∈ segPieces (pkSegs pkWords 0), s.unitPlace 0 (lookUnit 0 1) 0 .read q.1 q.2.1 = .here (.hbm q.1 false))) ∧
    (let s := unit0 { look0 .gather 0 with todo := [] } [fetch0] []
     (s.pklu 0).fetch = [fetch0] ∧ fetch0.users = [(0, 0)] ∧ s.lookOf 0 0 = some { look0 .gather 0 with todo := [] } ∧
      fetch0.job = (look0 .gather 0).job ∧ fetch0.arrived = false ∧ s.poison = []) := by decide +kernel

def engined (cmds : List EngCmd) (bufs : Tbl EngBuf) : State :=
  wk.modEngine 0 1 (fun g => { g with next := 5, cmds := cmds, bufs := bufs })
/-- A walk of one tile of one line at 0x11000 for buffer 0 of core 0, posting to the task. -/
def walkCmd (id : Nat) (w4 : W64) : EngCmd := engCmd id 0 0x11000 0 (BitVec.ofNat 64 (2 ^ 48 + 2 ^ 32)) w4
/-- The gang of troupe 0 at step `k`, with every core's RMMA at the head of its queue. -/
def ringing (k : Nat) : State :=
  (List.range 8).foldl (fun s p => s.modCore p (fun c => { c with
      cmds := [⟨.rmma 0 0 0, 8 * p, p + 1, p + 1, 0⟩], latchA := some okA, latchB := some okA }))
    (wk.setGang 0 ⟨(List.range 8).map (fun p => (p, p + 1)), true, k, k != 0⟩)

theorem witness_EngineAndRing :
    (let c := walkCmd 3 0x100
     let s := engined [c] []
     Memory.wf s.mem = true ∧ firstTaken (fun _ c => c.kind != 3) [] (s.engine 0 1).cmds = some c ∧ c.ended = [] ∧ engBad c = false ∧
      (let c1 := { c with accepted := true, parts := engParts c, arrived := s.cyc }
       firstWalk (fun d later => c.kind == 0 && mergesWalk s.cyc c1 d && !later.any (fun x => x.accepted && engShares x c1)) (s.engine 0 1).cmds = none)) ∧
    (let c := walkCmd 3 0x100
     let d := { walkCmd 2 0x100 with accepted := true, sid := 8, tid := 2, parts := [⟨1, 2, 0, 0x100, 8, 2, 0⟩] }
     let s := engined [d, c] []
     firstTaken (fun _ c => c.kind != 3) [] (s.engine 0 1).cmds = some c ∧
      (let c1 := { c with accepted := true, parts := engParts c, arrived := s.cyc }
       firstWalk (fun d later => c.kind == 0 && mergesWalk s.cyc c1 d && !later.any (fun x => x.accepted && engShares x c1)) (s.engine 0 1).cmds = some d) ∧ d.id ≠ c.id) ∧
    (let c := { walkCmd 3 0x100 with w2 := BitVec.allOnes 64 }
     engBad c = true ∧ c.w4.toNat / 2 ^ 8 = 1 ∧ (engined [c] []).isCancelled (sidCore c.sid) c.launch = false) ∧
    (let c := engCmd 4 3 (BitVec.ofNat 64 (2 ^ 63 + 3 * 2 ^ 48 + 3 * 2 ^ 40 + 0x80)) 0 0 0
     firstTaken permitReady [] ((engined [c] []).engine 0 1).cmds = some c ∧ c.w1.getLsbD 63 = true) ∧
    (let c := engCmd 4 3 (BitVec.ofNat 64 (3 * 2 ^ 48)) 0 0 0
     firstTaken permitReady [] ((engined [c] [(0, ⟨128, 4, 64, 1, 0, 0⟩)]).engine 0 1).cmds = some c ∧ c.w1.getLsbD 63 = false) ∧
    (let p : EngPart := ⟨0, 3, 0, 0x100, 0, 1, 0⟩
     let c := { walkCmd 3 0x100 with accepted := true, parts := [p] }
     let s := engined [c] [(0, ⟨128, 4, 64, 1, 3, 7⟩)]
     (s.engine 0 1).cmds = [c] ∧ c.live = [p] ∧ engTlen c = 1 ∧ engAddr c c.next = (0x11000 : W64).toNat ∧
      s.engPlace c .read 0x11000 = .here (.hbm 0x11000 false) ∧ s.hostHolds (.hbm 0x11000 false) 64 = false ∧
      (let b := (s.engine 0 1).buf p.core (engBufNo p.w3)
       64 ≤ b.slot ∧ b.credits ≠ 0 ∧ 64 ≤ b.base ∧ b.base + b.nslot * b.slot ≤ 2 ^ 19 ∧ b.ptr < b.nslot) ∧
      engTiles c ≤ c.next + 1 ∧ p.w4.toNat / 2 ^ 8 = 1) ∧
    ((ringing 7).ringReady 0 = true ∧ ((ringing 7).standing 0).length ≠ 8 ∧ ((ringing 7).gangAt 0).step = 7 ∧
      ((ringing 7).gangAt 0).formed = true ∧ (∀ e ∈ ((ringing 7).gangAt 0).seats,
        (headRmma ((ringing 7).coreAt (0 * 8 + e.1 % 8))).any (fun h => h.2.2.2 == e.2) = true) ∧
      (let s := (ringing 7).setGang 0 ⟨[], false, 7, true⟩
       s.ringReady 0 = true ∧ (s.gangAt 0).formed = false) ∧
      (ringing 0).ringReady 0 = true ∧ ((ringing 0).gangAt 0).step ≠ 7 ∧ ((ringing 0).coreAt (0 * 8 + 3)).latchA = some okA ∧
      headRmma ((ringing 0).coreAt (0 * 8 + 3)) = some (0, 0, 0, 4)) := by decide +kernel

/-- A region of one GiB on this package with one slice, and requests for its row 0. -/
def swept (v : SliceSt) (l : List WReq) : State :=
  { wk with regions := [{ region0 with base := 2 ^ 36, sb := 0, sc := 2, slices := [(0, v)] }], wreqs := l, gts := Vector.replicate 4 1050 }
def wreq0 (num st tag : Nat) : WReq :=
  ⟨0, num, BitVec.ofNat 64 (2 ^ 36), tag, 0, 0, 0, 0, 0, 127, 8, 0, 1, 0, 0, st, 0, 0, 0, none, 0⟩

theorem witness_RegionSweeps :
    (let s := swept ⟨9, 9, 0, false⟩ []
     Memory.wf s.mem = true ∧ (nth s.regions 0).map (fun r => tfind r.slices 0) = some (some ⟨9, 9, 0, false⟩) ∧
      (nth s.regions 0).map (fun r => decide (9 < r.lap (s.gtsOf (0 / 16)))) = some true) ∧
    (let u := wreq0 65 1 10
     let rd := wreq0 64 1 10
     let s := swept ⟨10, 10, 0, true⟩ [u, rd]
     let here := fun (r : Region) (w : WReq) => w.st == 1 && w.tag == 10 && w.va.toNat / 512 == r.rowAt s.pkg.toNat 0 0 / 512 &&
        w.holder == s.pkg.toNat
     (nth s.regions 0).map (fun r => (decide (0 + 1 < r.rowsPerPair / 2), (s.wreqs.filter (here r)).filter (fun w => w.num != 64),
        (s.wreqs.filter (here r)).filter (fun w => w.num == 64))) = some (true, [u], [rd]) ∧ s.foreign u = false ∧
      s.foreign rd = false ∧ rd.va = u.va ∧ whirlPoisoned s u.va.toNat = false ∧ u.num ∈ [65, 66, 67]) ∧
    (let w := wreq0 65 0 11
     let s := swept ⟨10, 10, 0, false⟩ [w]
     nth s.wreqs 0 = some w ∧ w.holder = s.pkg.toNat ∧ s.foreign w = false ∧ s.whirlBefore w 0 = false ∧ (s.regionOf w.job w.va).isSome = true ∧
      (nth s.regions 0).map (fun r => (decide (r.zap = none), decide (r.lap (s.gtsOf (r.slice w.va.toNat / 16)) < w.tag))) = some (true, true) ∧
      (nth s.regions 0).map (fun r => decide ((wreq0 65 0 10).tag ≤ r.lap (s.gtsOf (r.slice w.va.toNat / 16)))) = some true ∧
      (nth s.regions 0).map (fun r => decide ((tget SliceSt.none r.slices (r.slice w.va.toNat)).closed < w.tag)) = some true) ∧
    (wk.regionOf 0 (wreq0 65 0 11).va = none) ∧
    (let w := { wreq0 64 2 10 with retags := 3 }
     let s := (swept ⟨10, 10, 0, false⟩ [w]).mod (fun t => { t with pend := some (.wread 1 5 w.va) })
     nth s.wreqs 0 = some w ∧ 3 ≤ w.retags ∧ w.fetch = none ∧ s.slotOfTid w.tid = some 0 ∧ (s.slotAt 0).pend = some (.wread 1 5 w.va) ∧
      { w with retags := 2 }.retags < 3) := by decide +kernel

def ringTarget : W64 := BitVec.ofNat 64 (2 ^ 62 + 3)

theorem witness_RegionAnswers :
    (let w := wreq0 64 3 10
     let s := (swept ⟨10, 10, 0, false⟩ [w]).mod (fun t => { t with pend := some (.wread 1 5 w.va) })
     Memory.wf s.mem = true ∧ nth s.wreqs 0 = some w ∧ w.st = 3 ∧ w.num = 64 ∧ s.foreign w = false ∧ w.fetch = none ∧ w.status = 0 ∧
      s.slotOfTid w.tid = some 0 ∧ (s.slotAt 0).pend = some (.wread 1 5 w.va)) ∧
    (let w := { wreq0 65 3 10 with status := 3 }
     let s := swept ⟨10, 10, 0, false⟩ [w]
     nth s.wreqs 0 = some w ∧ w.num ≠ 64 ∧ s.foreign w = false ∧ s.slotOfTid w.tid = some 0 ∧ (s.slotAt 0).failCause = 0 ∧
      (wreq0 65 3 10).status = 0) ∧
    (ringTarget.toNat / 2 ^ 62 = 1 ∧ (ringTarget.extractLsb' 16 10).toNat = (host0 [] 0).pkg.toNat ∧ ringTarget.toNat % 1024 = 3 ∧
      RingReady (host0 [] 0) 3 ∧ mayAsk (BitVec.ofNat 32 (34 * 8)) = true) ∧
    ((host0 [] 0).createResult (List.replicate 8 0) ≠ 0) ∧
    (let s : State := { host0 [] 0 with regions := [region0], gts := Vector.replicate 4 1050 }
     nth s.regions 0 = some region0 ∧ region0.base = (0x1000000000 : W64).toNat ∧ region0.lap (s.gtsOf 0) + 256 ≤ (266 : W64).toNat ∧
      (265 : W64).toNat < region0.lap (s.gtsOf 0) + 256) ∧
    (((0x1700 : W64).extractLsb' 8 5).toNat < 24 ∧ (((host0 [] 0).coreAt ((0 * 32 + 23) * 64 + 32)).fenced = false) ∧
      24 ≤ ((0x1800 : W64).extractLsb' 8 5).toNat) ∧
    ((8 : W64).toNat / 2 ^ 62 = 0 ∧ ((8 : W64).extractLsb' 16 10).toNat = (host0 [] 0).pkg.toNat ∧ targetCore 8 = 1) := by
  unfold RingReady; decide +kernel

/-! The step, decoding, reset and the invariant. -/

def addiPlaced : State := placed (.addi 5 6 7 7) id

theorem witness_StepRunsDecoded :
    (addiPlaced.agenda = [] ∧ addiPlaced.slot.ready = true ∧ addiPlaced.slot.forced = none ∧
      (let a := ({ addiPlaced with tick := addiPlaced.tick + 1 } : State).issueFrom 0
       ({ addiPlaced with tick := addiPlaced.tick + 1 } : State).choice addiPlaced.core = some 0 ∧
        a.regainEngines.toOption.isSome = true ∧ (a.fetchWords).toOption.map (fun x => (x.1, x.2.1)) = some (0x0CA60077, 0)) ∧ decode 0x0CA60077 0 = some (.addi 5 6 7 7)) ∧
    ((let u : State := { wk with tick := wk.tick + 1 }
      u.choice wk.core = some 0 ∧ (u.fetchWords).toOption.map (fun x => (x.1, x.2.1)) = some (0, 0)) ∧ decode 0 0 = none) ∧
    (let s := wk.mod (fun t => { t with wait := some ⟨2, 0, 0, 0⟩ })
     ({ s with tick := s.tick + 1 } : State).choice s.core = none) ∧
    (let s := wk.mod (fun t => { t with forced := some (.watchdog, 2) })
     ({ s with tick := s.tick + 1 } : State).choice s.core = some 0 ∧ (s.slotAt 0).forced = some (.watchdog, 2)) ∧
    (({ wk with agenda := [.event (.sliceEnd)] } : State).agenda = [.event .sliceEnd] ∧ (Instr.sliceEnd).isEvent = true) ∧
    (Memory.wf wk.mem = true ∧ addrFault 0x1FFFC 4 = false ∧ (0x1FFFC : W64).toNat % 4 = 0 ∧
      wk.translate wk.core wk.slot.job .fetch 0x1FFFC 4 = .ok (.hbm 0x1FFFC false) ∧ wk.hostHolds (.hbm 0x1FFFC false) 4 = false ∧
      vpnOf 0x1FFFC ∉ wk.slot.deny ∧ wk.spoiled (.hbm 0x1FFFC false) 4 = false ∧ (Place.hbm 0x1FFFC false).here = true) ∧
    (addrFault 0x20000 4 = false ∧ (wk.place .fetch 0x20000 4).toOption = none ∧
      ({ wk.mod (fun t => { t with pc := 0x20000 }) with tick := 9 } : State).fetchWords.toOption = none) ∧
    ({ wk with agenda := [.input .hostUp] } : State).agenda = [.input .hostUp] ∧
    ((placed (.liw 5 7 9) id).fetchWord (placed (.liw 5 7 9) id).pc).toOption.map (·.1) = some 0xFC028007 := by
  refine ⟨⟨rfl, by decide +kernel, by decide +kernel, ⟨rfl, by decide +kernel⟩, by decide +kernel⟩, by decide +kernel⟩

theorem witness_RoundTrip : (Instr.voptu 28 4 15).wf = true ∧ (Instr.voptu 28 4 15).isEvent = false ∧
    (Instr.stLong 31 31 3 15 4 4 2 0xFFFFFF).wf = true ∧ (Instr.stLong 31 31 3 15 4 4 2 0xFFFFFF).isEvent = false := by decide

theorem steps_addiPlaced : (match step addiPlaced with | .next _ => true | _ => false) = true := by decide +kernel
theorem witness_MemoryInvariant : Memory.wf addiPlaced.mem = true ∧ (∃ t, step addiPlaced = .next t) ∧ addiPlaced.mem ≠ [] := by
  refine ⟨by decide +kernel, ?_, by decide +kernel⟩
  have h := steps_addiPlaced
  generalize step addiPlaced = o at h ⊢
  cases o with
  | next t => exact ⟨t, rfl⟩
  | fault _ => cases h
  | refused _ => cases h

/-- Log 3 and the canonical form: writing what an unlisted address reads as removes the entry. -/
theorem test_memory_canonical :
    memWrite (memWrite [] 8 8 255 0x0102) 8 8 255 0 = [] ∧ memWrite [] 8 8 255 0x0102 = [(8, 2), (9, 1)] := by decide +kernel

/-- The spec's package is well formed right after reset, and the agenda of reset holds no event. -/
theorem test_reset : Memory.wf State.reset.mem = true ∧ AgendaOk State.reset := ⟨by decide, fun _ h => by cases h⟩

/-- A region of one GiB at 2^36 over two slices of package 0, at a period of 3 ms. -/
def goodDesc : List W64 := [BitVec.ofNat 64 (2 ^ 36), BitVec.ofNat 64 (2 ^ 32 + 1), 0, BitVec.ofNat 64 (3000000 * 2 ^ 32 + 2 * 2 ^ 8), 5, 0, 0, 0]

theorem witness_RequestsAndRegistersComplete :
    ((regional []).runs 7 = true ∧ RowOk (regional []) ((regional []).x 6) region0 ∧ (regional []).slot.isBound 1 = false ∧
      tagOf (regional [(7, 265)]) region0 265 ≤ lapNow (regional []) region0 + 255 ∧ (regional []).cur < 2 ^ 16 ∧
      (regional []).slotOfTid (regional []).slot.tid = some (regional []).cur ∧ (∀ r k, (regional []).slot.boundTo r ≠ some k) ∧
      (regional []).slot.cmtd = true) ∧
    ((regional []).worker = true ∧ canonical ((regional []).x 6) = true ∧
      (regional []).regionOf (regional []).slot.job ((regional []).x 6) = some region0) ∧
    (let w := wreq0 65 3 10
     let s := swept ⟨10, 10, 0, false⟩ [w]
     nth s.wreqs 0 = some w ∧ w.st = 3 ∧ w.num ≠ 64 ∧ s.foreign w = false ∧ w.status = 0) ∧
    (wk.runs 7 = true ∧ (4, BitVec.ofNat 64 wk.cyc) ∈ srValues wk ∧ 32 * (8 : BitVec 4).toNat + (10 : BitVec 5).toNat = 0x10A ∧
      isSteward (service 34 []).core = true ∧ (service 34 []).runs 7 = true ∧ ((service 34 [(6, 17)]).x 6).toNat % 32 < 18 ∧
      500 ≤ ((service 34 [(6, 2000)]).x 6).toNat % 4096 ∧ ((service 34 [(6, 2000)]).x 6).toNat % 4096 ≤ 2000) ∧
    (Memory.wf (host0 [] 0).mem = true ∧ mayAsk (BitVec.ofNat 32 (34 * 8)) = true ∧ ringTarget.toNat / 2 ^ 62 = 1 ∧
      (ringTarget.extractLsb' 16 10).toNat = (host0 [] 0).pkg.toNat ∧ RingReady (host0 [] 0) (ringTarget.toNat % 1024) ∧
      (host0 [] 0).createResult goodDesc = 0) ∧
    (let s : State := { host0 [] 0 with regions := [region0], gts := Vector.replicate 4 1050 }
     nth s.regions 0 = some region0 ∧ region0.base = (0x1000000000 : W64).toNat ∧ region0.lap (s.gtsOf 0) + 256 ≤ (266 : W64).toNat) ∧
    (((0x1700 : W64).extractLsb' 8 5).toNat < 24 ∧ ((host0 [] 0).coreAt ((0 * 32 + 23) * 64 + 32)).fenced = false) := by
  refine ⟨⟨by decide +kernel, ?_, by decide +kernel⟩, by decide +kernel, by decide +kernel, by decide +kernel, ?_,
    by decide +kernel⟩
  · constructor <;> decide +kernel
  · unfold RingReady; decide +kernel

/-! Inputs, and the rules they serve. -/

/-- R408: a read of FNSTAT gives the bring-up step, the code and the function number. -/
theorem test_pageRead : ((health0 id).input (.pageRead 127 0)).host.replies = [0x090000000000007F] := by decide +kernel

/-- R324: a committed task that loads from an uncorrectable block traps MCHECK; its page is then to be tested (R421). -/
theorem test_load_spoiled : (match exec (.ld 5 6 0 3 7) spoilt with
    | .next t => (t.saved.map (fun e => (e.2.st, e.2.trap)), t.health.todo)
    | _ => ([], [])) = ([(4, some (.mcheck, 0x1FFF8))], [0x0300000000000001]) := by decide +kernel

end Sys2Proof.Tests
end

section
/-! The step, its choice and its fetch: what each finds, case by case, and the statement about them (O55). -/

namespace Sys2Proof.Machine

/-! ### The choice of a thread (R62) -/

theorem State.ready_of_mayIssue {s : State} {sid : Nat} (h : s.mayIssue sid = true) : (s.slotAt sid).ready = true := by
  unfold State.mayIssue at h
  exact (Bool.and_eq_true_iff.mp h).1

/-- R62: TU is chosen because it may issue; a normal slot is one of those of the rotation that may. -/
theorem State.mayIssue_of_choice {s : State} {core sid : Nat} (h : s.choice core = some sid) : s.mayIssue sid = true := by
  unfold State.choice at h
  split at h
  next hTu => cases h; exact hTu
  next =>
    split at h
    next => cases h
    next k r hl =>
      cases h
      have hmay : ∀ j ∈ k :: r, s.mayIssue (core * 8 + j) = true := by
        intro j hj
        rw [← hl] at hj
        exact (List.mem_filter.mp hj).2
      refine List.foldlRecOn r _ (motive := fun b => s.mayIssue (core * 8 + b) = true) (hmay k List.mem_cons_self) ?_
      intro b hb j hj
      split
      · exact hmay j (List.mem_cons_of_mem k hj)
      · exact hb

theorem State.ready_of_choice {s : State} {core sid : Nat} (h : s.choice core = some sid) : (s.slotAt sid).ready = true :=
  State.ready_of_mayIssue (State.mayIssue_of_choice h)

@[simp] theorem State.issueFrom_slot (s : State) (sid : Nat) : (s.issueFrom sid).slot = s.slotAt sid := rfl

/-! ### The fetch of the issuing slot (R79, R86) -/

section
variable {a : State} (hready : a.slot.ready = true)
include hready

theorem State.fetch_forced {c : Cause} {v : W64} (hforced : a.slot.forced = some (c, v)) :
    a.fetch = .turn (a.takeTrap a.cur c v) := by
  simp only [State.fetch, hready, hforced, if_true]

variable (hforced : a.slot.forced = none)
include hforced

theorem State.fetch_engines {e : Stop} (hregain : a.regainEngines = .error e) :
    a.fetch = .turn ((a.modCore a.core CoreSt.unissue).stop e) := by
  simp only [State.fetch, hready, hforced, hregain, if_true]

variable {u : State} (hregain : a.regainEngines = .ok u)
include hregain

theorem State.fetch_stopped {e : Stop} (hwords : u.fetchWords = .error e) : a.fetch = .turn (u.stop e) := by
  simp only [State.fetch, hready, hforced, hregain, hwords, if_true]

variable {w v : W32} {u' : State} (hwords : u.fetchWords = .ok (w, v, u'))
include hwords

theorem State.fetch_decoded {i : Instr} (hdecode : decode w v = some i) :
    a.fetch = .instr i ({ u'.fetchTouch w with ir := w, ir2 := v } : State).issued := by
  simp only [State.fetch, hready, hforced, hregain, hwords, hdecode, if_true]

/-- R86 step 1: the TRAPVAL of an undecodable word is the word, which the state of the trap has noted. -/
theorem State.fetch_undecoded (hdecode : decode w v = none) :
    a.fetch = .turn (({ u'.fetchTouch w with ir := w, ir2 := v } : State).issued.takeTrap a.cur .illegal (w.setWidth 64)) := by
  simp only [State.fetch, hready, hforced, hregain, hwords, hdecode, if_true]
  rfl

end

/-! ### A word and its place (R8, R79) -/

/-- R8, R79: a word of a place of this package, within a line, is its bytes in little-endian order, and fetching it changes nothing. -/
theorem State.fetchWord_of_reach {s : State} {va : W64} {p : Place} (hmem : Memory.wf s.mem = true) (hr : addrFault va 4 = false)
    (hreach : s.reach .fetch va 4 = .ok p) (hhere : p.here = true) (hline : ∀ pa tso, p = .hbm pa tso → pa % 64 + 4 ≤ 64) :
    s.fetchWord va = .ok (BitVec.ofNat 32 (packDigits 8 (s.loadByte p) 4), s) := by
  have read := readPlace_value s p 4 hmem
  unfold State.fetchWord
  rw [hr, hreach]
  cases p with
  | scratch c o => simp only [Bool.false_eq_true, if_false, read trivial]
  | hbm pa tso =>
    have hl := hline pa tso rfl
    cases tso with
    | true => simp only [Bool.false_eq_true, if_false, read trivial]
    | false => simp only [Bool.false_eq_true, if_false, read hl]
  | host _ _ => cases hhere
  | remote _ => cases hhere
  | link _ => cases hhere
  | held _ => cases hhere

/-- R79: a word at an aligned address whose place is on this package lies within a line. -/
theorem State.fetchWord_of_translate {s : State} {va : W64} {p : Place} (hmem : Memory.wf s.mem = true)
    (hr : addrFault va 4 = false) (halign : va.toNat % 4 = 0) (htr : s.translate s.core s.slot.job .fetch va 4 = .ok p)
    (hdeny : vpnOf va ∉ s.slot.deny) (hhost : s.hostHolds p 4 = false) (hspoiled : s.spoiled p 4 = false) (hhere : p.here = true) :
    s.fetchWord va = .ok (BitVec.ofNat 32 (packDigits 8 (s.loadByte p) 4), s) := by
  have hplace := place_ok s .fetch va 4 p htr hdeny hhost
  refine State.fetchWord_of_reach hmem hr (reach_ok s .fetch va 4 p hplace (fun _ => hspoiled)) hhere ?_
  rintro pa tso rfl
  have hpa := translate_line s s.core s.slot.job .fetch va 4 pa tso htr
  omega

theorem State.fetchWord_of_place_error {s : State} {va : W64} {e : Stop} (hr : addrFault va 4 = false)
    (hplace : s.place .fetch va 4 = .error e) : s.fetchWord va = .error e := by
  simp only [State.fetchWord, hr, reach_error s .fetch va 4 e hplace, Bool.false_eq_true, if_false]

/-- R87: the major of a long form is the six highest bits of its first word. -/
theorem isLong_iff (w : W32) : isLong w.toNat = true ↔ w.toNat / 2 ^ 26 = 0x3F := by
  have := w.isLt
  unfold isLong bits
  rw [beq_iff_eq, Nat.mod_eq_of_lt (by omega)]

theorem State.fetchWords_of_first {s u : State} {w : W32} (h : s.fetchWord s.pc = .ok (w, u)) :
    s.fetchWords = if w.toNat / 2 ^ 26 = 0x3F then (u.fetchWord (s.pc + 4)).bind (fun v => .ok (w, v.1, v.2)) else .ok (w, 0, u) := by
  simp only [State.fetchWords, h, Except.bind, isLong_iff]

/-! ### The turns of a step (logs 1 and 81) -/

theorem issueTurn_of_none {s : State} (h : s.choice s.core = none) : issueTurn s = .next { s with idle := s.idle + 1 } := by
  simp only [issueTurn, h]

theorem issueTurn_of_turn {s t : State} {sid : Nat} (h : s.choice s.core = some sid) (hf : (s.issueFrom sid).fetch = .turn t) :
    issueTurn s = .next t := by
  simp only [issueTurn, h, hf]

theorem issueTurn_of_instr {s t : State} {sid : Nat} {i : Instr} (h : s.choice s.core = some sid)
    (hf : (s.issueFrom sid).fetch = .instr i t) : issueTurn s = exec i t := by
  simp only [issueTurn, h, hf]

/-- The state in which a step takes its turn: the step counted, the turn taken off the agenda. -/
def State.turnTaken (s : State) (r : List Turn) : State := { s with tick := s.tick + 1, agenda := r }

theorem step_of_issue {s : State} {r : List Turn} (h : s.agenda = .issue :: r ∨ (s.agenda = [] ∧ r = [])) :
    step s = issueTurn (s.turnTaken r) := by
  rcases h with h | ⟨h, rfl⟩ <;> simp only [step, h, State.turnTaken]

theorem step_of_event {s : State} {r : List Turn} {i : Instr} (h : s.agenda = .event i :: r) (hi : i.isEvent = true) :
    step s = exec i (s.turnTaken r) := by
  simp only [step, h, hi, if_true, State.turnTaken]

theorem step_of_input {s : State} {r : List Turn} {x : Input} (h : s.agenda = .input x :: r) :
    step s = .next ((s.turnTaken r).input x) := by
  simp only [step, h, State.turnTaken]

/-! ### An issue turn (R62) -/

section
variable {s : State} {r : List Turn} (hissue : s.agenda = .issue :: r ∨ (s.agenda = [] ∧ r = []))
include hissue

theorem step_passes (hnone : (s.turnTaken r).choice s.core = none) :
    step s = .next { s.turnTaken r with idle := (s.turnTaken r).idle + 1 } :=
  (step_of_issue hissue).trans (issueTurn_of_none hnone)

variable {sid : Nat} (hchoice : (s.turnTaken r).choice s.core = some sid)
include hchoice

theorem step_of_fetch_turn {t : State} (hf : ((s.turnTaken r).issueFrom sid).fetch = .turn t) : step s = .next t :=
  (step_of_issue hissue).trans (issueTurn_of_turn hchoice hf)

theorem step_of_fetch_instr {t : State} {i : Instr} (hf : ((s.turnTaken r).issueFrom sid).fetch = .instr i t) : step s = exec i t :=
  (step_of_issue hissue).trans (issueTurn_of_instr hchoice hf)

end

/-! ### O55 -/

/-- Settles O55: each kind of turn by the lemma of its case; that the chosen slot is ready, which the fetch asks again, is R62's
choice itself. -/
theorem stepRunsDecoded : Obligations.StepRunsDecoded := by
  unfold Obligations.StepRunsDecoded
  refine ⟨fun s r hissue => ⟨step_passes hissue, fun sid hchoice => ?_⟩, fun s r i h hi => step_of_event h hi,
    fun s r x h => step_of_input h,
    fun s va p hmem hr halign htr hdeny hhost hspoiled hhere =>
      State.fetchWord_of_translate hmem hr halign htr hdeny hhost hspoiled hhere,
    fun s u w h => State.fetchWords_of_first h, fun s va e hr h => State.fetchWord_of_place_error hr h⟩
  have hready : ((s.turnTaken r).issueFrom sid).slot.ready = true := by
    rw [State.issueFrom_slot]
    exact State.ready_of_choice hchoice
  have turn := fun t => step_of_fetch_turn hissue hchoice (t := t)
  refine ⟨fun c v hforced => turn _ (State.fetch_forced hready hforced), fun hforced =>
    ⟨fun e hregain => turn _ (State.fetch_engines hready hforced hregain), fun u1 hregain =>
      ⟨fun e hwords => turn _ (State.fetch_stopped hready hforced hregain hwords), fun w v u2 hwords => ⟨?_, ?_⟩⟩⟩⟩
  · exact fun i hdecode => step_of_fetch_instr hissue hchoice (State.fetch_decoded hready hforced hregain hwords hdecode)
  · exact fun hdecode => turn _ (State.fetch_undecoded hready hforced hregain hwords hdecode)

end Sys2Proof.Machine
end
